-- ==== Sys2Proof/Word.lean ====
section
/-! DEFINITION. The word types of the Clacy-1 node. Widths are the spec's own; R8 numbers bits from 0. -/

namespace Sys2Proof

/-- One byte. -/
abbrev Byte := BitVec 8

/-- A 64-bit scalar register, plan address, predicate or slot word (R181, R182). -/
abbrev Word64 := BitVec 64

/-- The bit pattern of an F32 number (R60). -/
abbrev F32 := BitVec 32

/-- The bit pattern of an F16 number (R60). -/
abbrev F16 := BitVec 16

/-- A 2,048-bit vector register (R159). -/
abbrev VReg := BitVec 2048

/-- A node id X.Y.Z (R9). -/
abbrev NodeId := BitVec 15

/-- A context id (12 bits). -/
abbrev CtxId := BitVec 12

/-- A sparse table: keys strictly rising, no entry equal to the default of the table. -/
abbrev Tab (α : Type) := List (Nat × α)

end Sys2Proof
end

