-- ==== Sys2Proof/Syntax.lean ====
section
/-! DEFINITION. The commands of the node: one constructor per row of spec/opcode_table.json, with its operands.
What the environment decides (which data the host's memory returned, whether a read was correctable, what arrived on
a port) is an operand; what the node decides is in the state. -/

namespace Sys2Proof

/-! ### Operands of tile instructions (R178 to R229) -/

/-- What the SEC-DED code of a store reported for the data that one command reads there (R166): how many words it corrected, and
the place of the first uncorrectable word, as a byte offset in the data read, if it met one. -/
structure Ecc where
  corrected : Nat
  bad : Option Nat
deriving DecidableEq, Repr

/-- The head of a tile command: the guard of its slot word (R179, R183); whether it is the first command of its bundle (R184: the
slots of one bundle read their registers before any of them writes) and, for that one, the words that the bundle's fetch
corrected; and what the store reports for the data the instruction reads (R166). -/
structure Guard where
  gp : Fin 16
  gn : Bool
  first : Bool
  fetched : Nat
  ecc : Ecc
deriving DecidableEq, Repr

/-- Shift kinds of SHI (R192). -/
inductive ShiftKind where | shl | shr | sar
deriving DecidableEq, Repr

/-- Conditions of CMP and CMPI (R192, R193). -/
inductive CmpCond where | eq | ne | lts | les | ltu | leu
deriving DecidableEq, Repr

/-- Operations of PLOG (R192). -/
inductive PredOp where | and | or | xor | andNot
deriving DecidableEq, Repr

/-- Special values of RDSP (R186). -/
inductive Special where
  | tickNow | phaseTick | cycle | tile | nodeId | boundReq | boundCtx | snapshot | cyclesPerTick
deriving DecidableEq, Repr

/-- Element statuses (R189). -/
inductive ElemStatus where | arrived | late | unreadable | absent | refused
deriving DecidableEq, Repr

/-- Lane types of the vector slot (R213). -/
inductive LaneTy where | f32 | i32
deriving DecidableEq, Repr

/-- Conditions of VCMP (R213). -/
inductive VCond where | eq | ne | lt | le | gt | ge
deriving DecidableEq, Repr

/-- Conversions of VCVT (R215), with the group H of 64 narrow elements where the conversion has one. -/
inductive Conv where
  | f16ToF32 (h : Fin 2) | f32ToF16 (h : Fin 2) | e8ToF32 (h : Fin 4) | e4ToF32 (h : Fin 8)
  | i32ToE8 (h : Fin 4) | i32ToE4 (h : Fin 8) | f32ToI32 | i32ToF32 | s8ToF32 (h : Fin 4)
  | b1ToF32 (h : Fin 32) | f32ToF16Sat (h : Fin 2)
deriving DecidableEq, Repr

/-- Formats of MLDW (R218). -/
inductive MatFmt where | e4 | e8 | f16
deriving DecidableEq, Repr

/-- A store protected by SEC-DED (R166). -/
inductive SramUnit where | tile (t : Fin 192) | pod (p : Fin 8)
deriving DecidableEq, Repr

/-! ### Operands of memory and Bean commands (chapter 05) -/

/-- The command word of a Bean (R123), less its opcode. -/
structure BeanWord where
  tag : BitVec 8
  pairRow : BitVec 16
  nrows : BitVec 6
  dest : BitVec 16
  off : BitVec 6
  len : BitVec 5
  new : Bool
deriving DecidableEq, Repr

/-- What the die reported for one 128-bit word of a read (R117). -/
inductive WordReport where | clean | corrected | uncorrectable
deriving DecidableEq, Repr

/-- One 64-byte burst as the die's array gives it on one access: 64 data bytes, the 8 metadata bytes (4 outer check bytes and 4
written zero, R118), and the 8 inner check bits of each of the four data words (R117). -/
structure Burst where
  bytes : List Byte
  check : List Byte
  inner : List Byte
deriving DecidableEq, Repr

/-- Who makes an ordinary access (R142): a tile's access is that of an asynchronous element. -/
inductive Accessor where
  | node
  | remote
  | debug
  | tile (elem : Nat)
deriving DecidableEq, Repr

/-- An ordinary access (R142): the address, the bytes to write when it writes, the length, and, for a read or the
partial bursts of a write, the bursts that did not read back clean: address, what the first read gave, what the one
retry gave (R119, R120, R422). A burst not listed reads as it is stored. -/
structure Access where
  who : Accessor
  write : Bool
  addr : Nat
  len : Nat
  data : List Byte
  odd : List (Nat × Burst × Burst)
deriving DecidableEq, Repr

/-! ### Operands of host commands -/

/-- What a read of host memory returned: its bytes, or nothing when it failed twice (R431). -/
abbrev HostData := Option (List Byte)

/-- How an asynchronous element of a tile came out (R189, R202). -/
inductive Landing where
  | ok (corrected : Nat)      -- the bytes read on this node land; words of a store corrected among them (R166)
  | data (bytes : List Byte)  -- the bytes the host returned land
  | uncorrectable (n : Nat)   -- uncorrectable after every remedy; the first n bytes had landed
  | hostFailed                -- the host-memory access failed twice
deriving DecidableEq, Repr

/-- Which party of R430 a failed host access belonged to. -/
inductive HostAccess where
  | planRead (elem : Nat)
  | mailboxRead
  | write (fn : Fin 513)
deriving DecidableEq, Repr

/-! ### Operands of boot, training and board commands -/

/-- One directory entry of the boot flash and the record it names (chapter 17). -/
structure BootRec where
  type : Byte
  slot : Byte
  bytes : List Byte
deriving DecidableEq, Repr

/-- Main-rail voltages as the AON sensors read them, in millivolts (R513, R517). -/
structure Rails where
  vddCmp : Nat
  vddcMem : Nat
  vddqMem : Nat
  vppMem : Nat
  vddIo : Nat
  vddOpt : Nat
  vccLaser : Nat
  vddBrg : Nat
  vccqFlash : Nat
deriving DecidableEq, Repr

/-- What a flash part's parameter page says (R313). -/
structure FlashPart where
  family : BitVec 64
  bitsPerCell : Nat
  pageBytes : Nat
  pagesPerBlock : Nat
  blocksPerLun : Nat
  luns : Nat
deriving DecidableEq, Repr

/-- The outcome of training one unit: the present temperature, whether its check pattern passed from saved settings
(R499), and whether full training passed. -/
structure UnitTrain where
  temp : BitVec 8
  check : Bool
  full : Bool
deriving DecidableEq, Repr

/-- Why a pseudo-channel is retrained (R501): its tag has drifted, `n` interface errors of one rate window exceed RETRY_MAX, or an
interface error failed its retry. -/
inductive RetrainCause where
  | drift
  | errors (n : Nat)
  | retryFailed
deriving DecidableEq, Repr

/-- The outcome of stage TRAINING (R499): 256 pseudo-channels, 32 flash channels, 54 fabric lanes in order, the parts on
each (channel, CE) in order 8 × channel + CE, and the measured hop delay of each port. -/
structure TrainReport where
  pcs : List UnitTrain
  flash : List UnitTrain
  lanes : List UnitTrain
  parts : List (Option FlashPart)
  meas : List (BitVec 10)
deriving DecidableEq, Repr

/-! ### Operands of fabric, steward and pool commands -/

/-- A tick marker (R377). -/
structure Marker where
  tick : BitVec 64
  partition : BitVec 6
  ref : NodeId
deriving DecidableEq, Repr

/-- A LEASE frame (R414). -/
structure LeaseFrame where
  steward : NodeId
  epoch : BitVec 32
  nextEpoch : BitVec 64
  members : List NodeId
  windows : List (Nat × Nat × NodeId)
deriving DecidableEq, Repr

/-- A shard copy's progress in a lease acknowledgement: context, shard, LAST_COMMIT, LAST_DURABLE (R414, R420). -/
structure ShardTicks where
  ctx : CtxId
  shard : BitVec 20
  lastCommit : BitVec 64
  lastDurable : BitVec 64
deriving DecidableEq, Repr

/-- A lease acknowledgement (R414). -/
structure LeaseReply where
  node : NodeId
  dropped : Bool
  shards : List ShardTicks
deriving DecidableEq, Repr

/-- A pool frame's header and data (R406). -/
structure PoolFrame where
  src : NodeId
  reqId : BitVec 64
  ledger : BitVec 64
  offset : BitVec 32
  data : List Byte
deriving DecidableEq, Repr

/-- The body of a CAS frame (R405). -/
structure CasBody where
  src : NodeId
  reqId : BitVec 64
  expEpoch : BitVec 13
  expOwner : BitVec 2
  newOwner : BitVec 2
  machineEpoch : BitVec 32
deriving DecidableEq, Repr

/-- A best-effort frame's cells, each 256 bytes (R365, R381). -/
abbrev FrameCells := List (List Byte)

/-- What a retry request names (R393, R394): a static cell by its tick and slot, a frame by SRC and TAG. -/
inductive RetryName where
  | cell (tick : Nat) (slot : Fin 500)
  | frame (src : NodeId) (tag : BitVec 16)
deriving DecidableEq, Repr

/-- The steps of a lane switchover (R363, R395): this end of the port names a lane and a boundary in a notice, the neighbour's notice
arrives, or the agreed boundary has come. -/
inductive SwitchEvent where
  | ask (lane : Fin 9) (boundary : Nat)
  | heard (lane : Fin 9) (boundary : Nat)
  | take
deriving DecidableEq, Repr

/-- The steps of a fill's copying (R419): the source sends rows, directory and spill groups and images of its memory, named by node
address and length; it sends an item's cold image; or a frame of the fill lands at the destination with the source's ticks. -/
inductive FillEvent where
  | rows (l : List (Nat × Nat))
  | cold (item : BitVec 36)
  | arrive (lastCommit lastDurable : BitVec 64) (rows : List (Nat × List Byte))
deriving DecidableEq, Repr

/-! ### Operands of update commands (chapter 10) -/

/-- A change as its record cells bring it to a holder (R286, R287): the admission tick U, the entry node and slot, the pipeline
that carries it, the request that its prepare stage was for (R299), the item, the partitions the entry node chose (R39), and the
record and image bytes (their VERSION fields are written by the holder). The last four fields are what the holder met while
applying. -/
structure Change where
  u : Nat
  entryNode : NodeId
  slot : BitVec 10
  pipe : Fin 63
  fn : Fin 513
  sq : Fin 512
  ctx : CtxId
  item : BitVec 36
  delete : Bool
  home : BitVec 20
  spill : Option (BitVec 20)
  record : List Byte
  image : List Byte
  slots : Option (BitVec 28 × BitVec 28)
  groupBad : Bool
  putAbandoned : Bool
  stageBad : Bool
deriving DecidableEq, Repr

/-- What the holders and the entry node say of an UNSURE entry (R421). -/
inductive UnsureAnswer where
  | decision (commit : Bool)
  | other (held : Bool) (version : BitVec 24)
  | alone
deriving DecidableEq, Repr

/-- The two sides of the prepare stage (R299): a holder reads the item's graph entry for the request of a function's submission
slot of the entry node (`odd` are bursts that do not read as the fresh codes of their bytes), or the entry node hears a holder's
report on that request. -/
inductive PrepareEvent where
  | read (entryNode : NodeId) (fn : Fin 513) (sqIndex : Fin 512) (ctx : CtxId) (item : BitVec 36)
      (odd : List (Nat × Burst × Burst))
  | report (fn : Fin 513) (sqIndex : Fin 512) (primary : Bool) (full : Bool)
deriving DecidableEq, Repr

/-- A search that another node admitted, as its query cells reach this member (R88, R279): the place of the INTERNAL pipeline's
opportunity that works on it, its entry node and context, its admission tick T and its margin. -/
structure QueryIn where
  place : Fin 64
  entry : NodeId
  ctx : CtxId
  t : BitVec 64
  margin : F16
deriving DecidableEq, Repr

/-- The lists an audit forms (R108): the exact local top-k and the search's own candidate handles. -/
structure AuditRun where
  slot : Fin 1024
  exact : List (BitVec 48)
  cand : List (BitVec 48)
deriving DecidableEq, Repr

/-- A child's list that a parent merges (R245, R247): the tile, the store offsets at which its cells land, the admission slot of its
search, and k. -/
structure ChildList where
  tile : Fin 192
  offs : List (BitVec 20)
  slot : Fin 1024
  k : BitVec 13
deriving DecidableEq, Repr

/-- One member's audit counts as they reached the audit root (R110): node, totals, misses, tick stamped. -/
structure AuditCount where
  node : NodeId
  total : BitVec 32
  miss : BitVec 32
  stamp : Nat
deriving DecidableEq, Repr

/-- A location in the flash array: LUN position, block, page (R314, R319). -/
structure FlashLoc where
  lun : Fin 512
  block : BitVec 16
  page : BitVec 12
deriving DecidableEq, Repr

/-- Causes of a block's retirement (R475). -/
inductive RetireCause where | program | erase | parity | replica | lost
deriving DecidableEq, Repr

/-- Counters of the node, in the ASCII order in which R433 lays them out. -/
inductive Counter where
  | absmaxNan | addrFault | auditLate | badParam | beanAbandon | beanLate | beanOut | beanRetry | blockRetire
  | calRamp | ckptLate | compactMove | decisionMiss | descReject | evtCoalesce | evtLost | exclWithheld
  | fabAged | fabBeFull | fabEpoch | fabLate | fabLost | fabRed | fabRetry | fabRetryDrop | fabStray
  | fabYellowDrop | fetchAbsent | fetchLate | fillAbandon | filterFallback | flashCancel | flashDiscardRead
  | flashLadder | flashParity | flashProgFail | flashRead | flashReplica | flashRetrain | flashSoft
  | flashSuspend | fold | gatherDrop | gatherFull | gatherHit | gatherLate | gcRelocate | grammarDead
  | graphDangling | hostFault | hostRetry | innerCorr | marginMiss | memRetrain | mergeDup | mergeMiss
  | mergeStale | mergeStray | migrateDrop | migrateRecopy | outerCorr | patchBad | policeRed | poolBadlen
  | poolNostandby | poolResume | promoteDrop | pruneBudget | purge | quantClip | readHeld | recordMalformed
  | refreshUrgent | refusedAdmit | refusedPhase | rehearse | remapFull | rowRemap | scoreDivergence
  | scoreInf | scoreNan | selectBadentry | selectTrunc | shedOpp | smbusPec | sramCorr | sramRemap
  | textBadtoken | textBadutf8 | textRefused | textTrunc | tickResync | uncorrFlash | uncorrMem | uncorrSram
  | versionAmbiguous
deriving DecidableEq, Repr

/-- The commands, in the order of spec/opcode_table.json. -/
inductive Instr where
  -- board, boot and reset (16, 17, 18)
  | powerOn (smbAddr : BitVec 2)
  | nodeResetNFall
  | perstNFall
  | resetRelease (straps : NodeId)
  | bfOwnHandover (flash : List BootRec)
  | bfOwnRelease (straps : NodeId)
  | romStage (puf1 puf2 : List Byte)
  | firmwareStage (rails : Rails)
  | trainingStage (report : TrainReport)
  | trainRecordWrite
  | zeroingStage
  | readyStage
  | watchdogExpiry (withTrip : Bool)
  | watchdogRestart
  | thermalTrip
  | thermalHoldEnd
  -- tick, admission and phases (09, 15, 16)
  | tickBoundary
  | tickMarkerReceive (port : Fin 6) (m : Marker) (offset : Int)
  | descriptorConsume
  | admissionOpportunity (pipe : Fin 63) (bad : List CtxId)
  | frameBoundary
  | phaseStart (pipe : Fin 63) (phase : Fin 255) (queries : List QueryIn) (audit : List AuditRun)
      (lists : List ChildList)
  | phaseBoundaryEnd (slot : Fin 1024)
  | sproutWakeRequest (pipe : Fin 63) (phase : Fin 255) (cold : Bool)
  | podWarmWake (pod : Fin 8)
  | podColdWake (pod : Fin 8)
  -- tile instructions, slot 0 (R192)
  | nop (t : Fin 192) (g : Guard)
  | seti (t : Fin 192) (g : Guard) (d : Fin 32) (imm : BitVec 47)
  | seth (t : Fin 192) (g : Guard) (d : Fin 32) (imm : BitVec 32)
  | add (t : Fin 192) (g : Guard) (d a b : Fin 32)
  | addi (t : Fin 192) (g : Guard) (d a : Fin 32) (x : BitVec 25)
  | sub (t : Fin 192) (g : Guard) (d a b : Fin 32)
  | mul (t : Fin 192) (g : Guard) (d a b : Fin 32)
  | and (t : Fin 192) (g : Guard) (d a b : Fin 32)
  | or (t : Fin 192) (g : Guard) (d a b : Fin 32)
  | xor (t : Fin 192) (g : Guard) (d a b : Fin 32)
  | shl (t : Fin 192) (g : Guard) (d a b : Fin 32)
  | shr (t : Fin 192) (g : Guard) (d a b : Fin 32)
  | sar (t : Fin 192) (g : Guard) (d a b : Fin 32)
  | shi (t : Fin 192) (g : Guard) (d a : Fin 32) (k : ShiftKind) (amt : BitVec 6)
  | mins (t : Fin 192) (g : Guard) (d a b : Fin 32)
  | maxs (t : Fin 192) (g : Guard) (d a b : Fin 32)
  | minu (t : Fin 192) (g : Guard) (d a b : Fin 32)
  | maxu (t : Fin 192) (g : Guard) (d a b : Fin 32)
  | cmp (t : Fin 192) (g : Guard) (pd : Fin 16) (a b : Fin 32) (c : CmpCond)
  | cmpi (t : Fin 192) (g : Guard) (pd : Fin 16) (a : Fin 32) (c : CmpCond) (imm : BitVec 22)
  | sel (t : Fin 192) (g : Guard) (d a b : Fin 32) (c : Fin 16)
  | plog (t : Fin 192) (g : Guard) (pd a b : Fin 16) (op : PredOp)
  | pfroms (t : Fin 192) (g : Guard) (pd : Fin 16) (a : Fin 32)
  | stop (t : Fin 192) (g : Guard) (d : Fin 32) (a : Fin 16)
  | rdsp (t : Fin 192) (g : Guard) (d : Fin 32) (x : Special)
  | loop (t : Fin 192) (g : Guard) (d a : Fin 32) (pd : Fin 16) (level : Fin 4) (body : BitVec 11) (maxTrip : BitVec 12)
  | br (t : Fin 192) (g : Guard) (target : BitVec 47)
  | bind (t : Fin 192) (g : Guard) (pd : Fin 16) (a : Fin 32)
  | arm (t : Fin 192) (g : Guard) (w : Fin 64) (dl : BitVec 20) (exp : BitVec 21)
  | await (t : Fin 192) (g : Guard) (d : Fin 32) (pd : Fin 16) (w : Fin 64)
  | wstat (t : Fin 192) (g : Guard) (d : Fin 32) (w : Fin 64) (st : ElemStatus)
  | wake (t : Fin 192) (g : Guard) (pods : BitVec 8) (cold : Bool)
  | gate (t : Fin 192) (g : Guard) (pods : BitVec 8) (pllOff : Bool)
  | cplt (t : Fin 192) (g : Guard) (pd : Fin 16) (a b c : Fin 32)
  | pend (t : Fin 192) (g : Guard)
  -- slot 1 (R200)
  | lds (t : Fin 192) (g : Guard) (d a : Fin 32) (pd : Fin 16) (x : BitVec 25)
  | sts (t : Fin 192) (g : Guard) (a b : Fin 32) (pd : Fin 16) (x : BitVec 25)
  | ldv (t : Fin 192) (g : Guard) (d : Fin 64) (a : Fin 32) (pd : Fin 16) (x : BitVec 25)
  | stv (t : Fin 192) (g : Guard) (a : Fin 32) (b : Fin 64) (pd : Fin 16) (x : BitVec 25)
  | xload (t : Fin 192) (g : Guard) (a b : Fin 32) (lenM1 : BitVec 17) (w : Fin 64)
  | xstore (t : Fin 192) (g : Guard) (a b : Fin 32) (lenM1 : BitVec 17) (w : Fin 64)
  | gather (t : Fin 192) (g : Guard) (a b c : Fin 32) (i : Fin 1024) (w : Fin 64)
  | vfetch (t : Fin 192) (g : Guard) (a b c : Fin 32) (i : Fin 1024) (w : Fin 64) (odd : List (BitVec 36 × Bool))
  | slst (t : Fin 192) (g : Guard) (d a : Fin 32) (pd : Fin 16) (fetchUnit : Bool)
  | dirwLook (t : Fin 192) (g : Guard) (a : Fin 32) (w : Fin 64)
  | dirwInsert (t : Fin 192) (g : Guard) (a : Fin 32) (w : Fin 64)
  | dirwMap (t : Fin 192) (g : Guard) (a : Fin 32) (w : Fin 64)
  | dirwFree (t : Fin 192) (g : Guard) (a : Fin 32) (w : Fin 64)
  | bissue (t : Fin 192) (g : Guard) (a b c : Fin 32) (i : Fin 1024) (w : Fin 64)
  | txq (t : Fin 192) (g : Guard) (a b c : Fin 32) (i : Fin 1024) (w : Fin 64)
  -- slot 2 (R213)
  | vadd (t : Fin 192) (g : Guard) (d a b : Fin 64) (m : Fin 16) (ty : LaneTy)
  | vsub (t : Fin 192) (g : Guard) (d a b : Fin 64) (m : Fin 16) (ty : LaneTy)
  | vmul (t : Fin 192) (g : Guard) (d a b : Fin 64) (m : Fin 16) (ty : LaneTy)
  | vfma (t : Fin 192) (g : Guard) (d a b : Fin 64) (m : Fin 16)
  | vmax (t : Fin 192) (g : Guard) (d a b : Fin 64) (m : Fin 16) (ty : LaneTy)
  | vmin (t : Fin 192) (g : Guard) (d a b : Fin 64) (m : Fin 16) (ty : LaneTy)
  | vabs (t : Fin 192) (g : Guard) (d a : Fin 64) (m : Fin 16) (ty : LaneTy)
  | vcmp (t : Fin 192) (g : Guard) (pd : Fin 16) (a b : Fin 64) (m : Fin 16) (c : VCond)
  | vsel (t : Fin 192) (g : Guard) (d a b : Fin 64) (m : Fin 16)
  | vdiv (t : Fin 192) (g : Guard) (d a b : Fin 64) (m : Fin 16)
  | vsqrt (t : Fin 192) (g : Guard) (d a : Fin 64) (m : Fin 16)
  | vrcp (t : Fin 192) (g : Guard) (d a : Fin 64) (m : Fin 16)
  | vrsqrt (t : Fin 192) (g : Guard) (d a : Fin 64) (m : Fin 16)
  | vexp2 (t : Fin 192) (g : Guard) (d a : Fin 64) (m : Fin 16)
  | vcvt (t : Fin 192) (g : Guard) (d a : Fin 64) (m : Fin 16) (k : Conv)
  | vq (t : Fin 192) (g : Guard) (d a b : Fin 64) (m : Fin 16) (e8 : Bool)
  | vf16up (t : Fin 192) (g : Guard) (d a : Fin 64) (m : Fin 16)
  | vs8up (t : Fin 192) (g : Guard) (d a : Fin 64) (m : Fin 16)
  | vtree (t : Fin 192) (g : Guard) (d a : Fin 64) (m : Fin 16) (n : BitVec 7)
  | vhmax (t : Fin 192) (g : Guard) (d a : Fin 64) (m : Fin 16) (n : BitVec 7)
  | vperm (t : Fin 192) (g : Guard) (d a b : Fin 64) (m : Fin 16)
  | vbcast (t : Fin 192) (g : Guard) (d : Fin 64) (a : Fin 32) (m : Fin 16)
  | vext (t : Fin 192) (g : Guard) (d : Fin 32) (a : Fin 64) (lane : Fin 64)
  | vand (t : Fin 192) (g : Guard) (d a b : Fin 64) (m : Fin 16)
  | vor (t : Fin 192) (g : Guard) (d a b : Fin 64) (m : Fin 16)
  | vxor (t : Fin 192) (g : Guard) (d a b : Fin 64) (m : Fin 16)
  | vpop (t : Fin 192) (g : Guard) (d a b : Fin 64) (m : Fin 16)
  | vamx (t : Fin 192) (g : Guard) (a : Fin 64) (b : Fin 32) (f16 : Bool)
  | vamr (t : Fin 192) (g : Guard) (d : Fin 64) (a : Fin 32) (m : Fin 16)
  | vamc (t : Fin 192) (g : Guard)
  -- slot 3 (R217)
  | mldw (t : Fin 192) (g : Guard) (a b : Fin 32) (bank : Fin 2) (fmt : MatFmt) (rows : BitVec 8) (stride : BitVec 14)
      (bad : List Nat)
  | mmac (t : Fin 192) (g : Guard) (d : Fin 8) (a : Fin 64) (bank : Fin 2) (tree : Bool)
  | mfin (t : Fin 192) (g : Guard) (d : Fin 8) (a : Fin 64) (b : Fin 32) (noscale : Bool)
  | mclr (t : Fin 192) (g : Guard) (d : Fin 8)
  | mmov (t : Fin 192) (g : Guard) (d : Fin 64) (a : Fin 8) (pd : Fin 16)
  | tsel (t : Fin 192) (g : Guard) (d a b c : Fin 32) (pd : Fin 16) (i : Fin 1024)
  | tmrg (t : Fin 192) (g : Guard) (d a b c : Fin 32) (pd : Fin 16) (i : Fin 1024)
  | tthr (t : Fin 192) (g : Guard) (d a b c : Fin 32) (i : Fin 1024)
  | csend (t : Fin 192) (g : Guard) (a : Fin 32) (e : BitVec 12)
  -- tile and asynchronous events (06, 07, 09)
  | bundleFetchUncorrectable (t : Fin 192) (off : Nat)
  | sramScrubReread (u : SramUnit) (off : Nat) (decodes : Bool)
  | waitDeadlineEnd (t : Fin 192) (w : Fin 64)
  | asyncElementLand (id : Nat) (how : Landing)
  -- Beans and memory stacks (05)
  | bldq (b : Fin 6144) (w : BeanWord) (data : List Byte)
  | bldw (b : Fin 6144) (w : BeanWord) (data : List Byte)
  | bldp (b : Fin 6144) (w : BeanWord) (data : List Byte)
  | bldx (b : Fin 6144) (w : BeanWord) (data : List Byte)
  | brdl (b : Fin 6144) (w : BeanWord) (unsound : Bool)
  | bclr (b : Fin 6144) (w : BeanWord)
  | brrd (b : Fin 6144) (unsound : Bool)
  | bscan (b : Fin 6144) (w : BeanWord) (odd : List (Nat × Burst))
  | bput (b : Fin 6144) (w : BeanWord) (odd : List (Nat × Burst))
  | bzero (b : Fin 6144) (w : BeanWord)
  | bcopy (b : Fin 6144) (w : BeanWord) (odd : List (Nat × Burst))
  | beanRetry (b : Fin 6144) (odd : List (Nat × Burst))
  | extraStart (die : Fin 96) (odd : List (Nat × Burst))
  | beanCommandEnd (b : Fin 6144)
  | ordinaryAccess (a : Access)
  | refreshDebtAccrue (b : Fin 6144) (bank : Fin 2)
  | refpbIssue (b : Fin 6144)
  | rfmpbIssue (b : Fin 6144) (bank : Fin 2)
  | rowRemap (stack : Fin 8) (odd : List (Nat × Burst × Burst))
  | moverStart (b : Fin 6144)
  | selfRefreshEntry (stack : Fin 8)
  | selfRefreshExit (stack : Fin 8)
  | memTempReading (temps : List (BitVec 8))
  | memClassChange
  | calRampOnThermal (ctx : CtxId)
  | aonSensorReading (compute io : BitVec 8) (optics : List (BitVec 8))
  | rateWindowBoundary (bad : List CtxId)
  | auditRootDecision (ctx : CtxId) (counts : List AuditCount) (bad : Bool)
  | marginBroadcastApply (ctx : CtxId) (rx : Option (F16 × BitVec 2))
  | powerWindowBoundary (power : BitVec 16)
  -- updates and tiers (10)
  | updateApply (ms : List Change)
  | applyAckReceive (slot : Fin 1024) (primary : Bool) (status : BitVec 8) (version : BitVec 24)
  | updateDecision (slot : Fin 1024)
  | decisionApply (e : Fin 4096) (d : Option Bool)
  | abortRollback (e : Fin 4096)
  | changeEntryClose (e : Fin 4096)
  | changeEntryFree (e : Fin 4096)
  | exclusionReload (b : Fin 6144)
  | unsureResolve (e : Fin 4096) (a : UnsureAnswer)
  | graphPrepare (p : PrepareEvent)
  | graphPrepareTimeout (fn : Fin 513) (sqIndex : Fin 512)
  | purge (ctx : CtxId) (item : BitVec 36)
  | compactionMove (ctx : CtxId) (shard part : BitVec 20) (groupBad : Bool)
  | rowCountDecrement (ctx : CtxId) (shard part : BitVec 20)
  | migrationFlip (id : Nat)
  | migrationRecopyOrDrop (id : Nat)
  | promotionCopyStart
  | releasedLocationReclaim
  | tierChangeDemote (ctx : CtxId)
  | tierChangeComplete (ctx : CtxId)
  -- flash (11)
  | codewordPack (staged : Nat)
  | packWaitExpiry (ctx : CtxId)
  | flashProgram (lun : Fin 512)
  | flashProgramDone (lun : Fin 512) (pass : Bool)
  | flashErase (lun : Fin 512) (block : BitVec 16)
  | flashSuspend (lun : Fin 512)
  | flashResume (lun : Fin 512)
  | flashDiscardRead (id : Nat)
  | flashReadSend (lun : Fin 512)
  | flashReadCancel (id : Nat)
  | flashArrayReadDone (ready : List (Nat × Bool))
  | flashLadderReread (id : Nat) (decodes : Bool)
  | flashSoftDecode (id : Nat) (decodes : Bool)
  | flashDieParity (id : Nat)
  | partnerReplicaRequest (id : Nat)
  | partnerReplicaServe (src : NodeId) (ctx : CtxId) (item : BitVec 36) (version : BitVec 24)
  | partnerReplicaTimeout (id : Nat)
  | blockRetire (lun : Fin 512) (block : BitVec 16) (cause : RetireCause)
  | fold
  | garbageCollect
  | gcRelocate (seg : BitVec 15) (addr : BitVec 40)
  | segmentEraseFree (seg : BitVec 15)
  | lunTempRead (lun : Fin 512) (temp : Int)
  | channelWake (ch : Fin 32)
  | flashChannelRetrain (ch : Fin 32) (ok : Bool) (temp : BitVec 8)
  -- text unit (12)
  | textTokenise (corrected : BitVec 20)
  | textDetokenise (corrected : BitVec 20)
  | textGstep (bad : Option (BitVec 39)) (corrected : BitVec 20)
  | textSramUncorrectable (seqNotSlot : Bool) (index : Fin 128) (off : BitVec 24) (lasting : Bool)
  | tokeniserSwitch (slot : Fin 2)
  -- fabric (13)
  | staticCellArrive (port : Fin 6) (slot : Fin 500) (cell : List Byte) (badLanes : BitVec 9) (first : Option (Nat × Fin 500))
  | cellDeliverLand
  | retryResend (port : Fin 6) (what : RetryName)
  | resendFail (port : Fin 6) (what : RetryName) (lanes : BitVec 9)
  | laneSwitchover (port : Fin 6) (e : SwitchEvent)
  | laneTrainingDone (port : Fin 6) (ok : Bool) (temp : BitVec 8)
  | bypassSwitchDone (pair : Fin 3)
  | frameReceive (port : Fin 6) (cells : FrameCells) (badLanes : BitVec 9)
  | frameSend (port : Fin 6) (room : Fin 501)
  | rreqServe (cells : FrameCells) (bad : List Nat)
  | rreplyReceive (cells : FrameCells)
  -- epoch, steward and recovery (14)
  | epochBoundary
  | slotTableSwap
  | lease (f : Option LeaseFrame) (armed : List (Nat × Nat × NodeId))
  | leaseAck (r : Option LeaseReply)
  | leaseDeadline
  | claim (c : Option (NodeId × BitVec 64))
  | stewardTakeover
  | fillStart (ctx : CtxId) (shard : BitVec 20)
  | fillCopy (ctx : CtxId) (shard : BitVec 20) (e : FillEvent)
  | fillDone (ctx : CtxId) (shard : BitVec 20)
  | fillAbandon (ctx : CtxId) (shard : BitVec 20)
  | lostShardRecord (r : ShardTicks)
  | checkpointRead (slot : Fin 1024) (bad : Bool)
  | ckpt (f : PoolFrame) (bad : Bool)
  | ckptAck (f : PoolFrame) (capacity : Bool)
  | verifyRead (slot : Fin 1024) (bad : Bool)
  | adopt (f : Option PoolFrame) (slot : Fin 1024)
  | restore (f : PoolFrame)
  | homeBlockRewrite (slot : Fin 1024) (passes : Bool)
  | adoptFail (f : PoolFrame)
  | cas (f : CasBody)
  | casReply (slot : Fin 1024)
  | notice (f : PoolFrame)
  | poolEnd (f : PoolFrame)
  | poolStandbyTimeout (reqId : BitVec 64)
  | rehearsalStart
  | rehearsalEnd
  -- host interface (15)
  | hostAccessError (a : HostAccess) (retryOk : Bool)
  | vfFlr (fn : Fin 513)
  | pfFlr
  | registerWrite (fn : Fin 513) (off : BitVec 26) (bytes : List Byte)
  | counterRead (c : Counter)
  | writeStatusRead (fn : Fin 513)
  | sqTailWrite (fn : Fin 513) (v : BitVec 64)
  | cqHeadWrite (fn : Fin 513) (v : BitVec 64)
  | cqEnable (fn : Fin 513) (v : BitVec 64)
  | cqDisable (fn : Fin 513) (v : BitVec 64)
  | cqFaultClear (fn : Fin 513) (v : BitVec 64)
  | evtRingEnable (v : BitVec 64)
  | evtHeadWrite (v : BitVec 64)
  | evtDoorbell (v : BitVec 64)
  | fenceClose (v : BitVec 32)
  | fenceOpenRequest (v : BitVec 32)
  | beanReadmit (i : Fin 192) (v : BitVec 32)
  | rehearsalArm (v : BitVec 64)
  | dbgRowWrite (v : BitVec 64)
  | debugWindowRead (off : BitVec 25) (len : Fin 65) (odd : List (Nat × Burst × Burst))
  -- mailbox (15, 17)
  | mbxBadOpcode
  | ctxCreate (data : HostData)
  | ctxDestroy
  | ctxAdmit (data : HostData)
  | admissionWordEffect (ctx : CtxId)
  | shardMap (data : HostData)
  | shardCopy (data : HostData)
  | partWrite (data : HostData)
  | memWrite (data : HostData) (odd : List (Nat × Burst × Burst))
  | memRead (odd : List (Nat × Burst × Burst))
  | calLoad (data : HostData)
  | calLoadEffect (ctx : CtxId)
  | segWrite (data : HostData)
  | tierLoad (data : HostData)
  | fabLoad (data : HostData)
  | vfPolice (data : HostData)
  | planLoad (data : HostData)
  | planVerifyDone
  | planActivate
  | activationDrainStart
  | planPlacement (data : HostData) (inTime : Bool)
  | placementComplete
  | tokLoad (data : HostData)
  | shardReload
  | attest (data : HostData)
  | certRead
  | fwStage (data : HostData)
  | fwSelect
  | trainSave
  | trainClear
  | evtSwConfig (data : HostData)
  | machineJoin (tapped : Option Marker)
  | joinFenceOpen
  | joinMembershipCheck
  | memberAdd
  | machineLeave
  | stackPcRetrain (pc : Fin 256) (cause : RetrainCause) (last : Bool)
  -- events and SMBus (16)
  | eventAssert (source : Fin 512) (payload : BitVec 192) (edge : Bool)
  | eventTake (cycle : Fin 64)
  | eventHandlerReturn
  | eventHoldoffExpiry (group : Fin 64) (cycle : Fin 64)
  | eventRecordWrite
  | getId (pecOk : Bool)
  | getTemps (pecOk : Bool)
  | getPower (pecOk : Bool)
  | setCap (pecOk : Bool) (data : List Byte)
  | getState (pecOk : Bool)
  | nodeReset (pecOk : Bool) (data : List Byte)
  | smbusReplyRead (pecOk : Bool)
  | aonPwrgoodFall
  | fwStageWriteDone (ok : Bool)
  | flashEraseDone (lun : Fin 512) (ok : Bool)
  | stackLaneTrainingDone (pc : Fin 256) (ok : Bool) (temp : BitVec 8)
  | functionPowerStateWrite (fn : Fin 513) (d3hot : Bool)
deriving DecidableEq, Repr

end Sys2Proof
end

