-- ==== Sys2Proof/Decode.lean ====
section
/-! DEFINITION. The command that a word of spec/opcode_table.json spells. No row of the table gives bits: every row is an
event of the block with its operands, and the table's field lists are empty, so no word spells a command. The 64-bit
slot words of tile instructions (chapter 07) are decoded in Machine/SlotWords.lean. -/

namespace Sys2Proof

/-- No row of the table gives bits, so a word of any length spells no command. -/
def decodeTableWord (_nbits _w : Nat) : Option Instr := none

end Sys2Proof
end

