-- ==== Sys2Proof/Config.lean ====
section
/-! DEFINITION. What an implementation fixes and this spec does not state (no value of any of these can be proved),
and the free values of the model. Each has a row of the assumption log. -/

namespace Sys2Proof

/-- The ROM's stored SHA-512 hashes of the two vendor root keys (R487). The spec states no value. Log 9. -/
opaque Config.rootHash : Bool → BitVec 512

/-- SHA-512 of the boot ROM, M_ROM of the attestation report (R504). The spec states no value. Log 9. -/
opaque Config.romDigest : BitVec 512

/-- Reconstruction of the seed from one read of the SRAM PUF and the PUF_HELPER body (R491). The spec gives no
algorithm. Log 9. -/
opaque Config.pufSeed : List Byte → List Byte → Option (BitVec 256)

/-- The TRIM body's entry for a part family (R313): whether it holds one, its rated erase cycles (R335), and
THRESH(a, b) (R330). The spec gives no body layout. Log 9. -/
opaque Config.trimHas : List Byte → BitVec 64 → Bool
opaque Config.trimEraseLimit : List Byte → BitVec 64 → BitVec 16
opaque Config.trimThresh : List Byte → BitVec 64 → Nat → Nat → Fin 8

/-- The TRAIN body as bytes, from the FORMAT and the temperature tags of the 256 + 32 + 54 units (R500), and back.
The spec gives no body layout. Log 9. -/
opaque Config.trainBody : BitVec 32 → List (BitVec 8) → List Byte
opaque Config.trainTags : List Byte → BitVec 32 × List (BitVec 8)

/-- The running firmware's training FORMAT (R500), a property of the firmware image. Log 9. -/
opaque Config.trainFormat : List Byte → BitVec 32

/-- The configuration that the firmware gives event sources 0-447, EVT_CTL and the hold-offs (R476). Log 9. -/
opaque Config.fwEvtSrc : List Byte → Nat → BitVec 8
opaque Config.fwEvtCtl : List Byte → BitVec 32
opaque Config.fwHoldoff : List Byte → Nat → BitVec 16

/-- The extents NX, NY, NZ of the machine the node stands in (R16, R415). Log 10. -/
opaque Config.nx : Nat
opaque Config.ny : Nat
opaque Config.nz : Nat

/-- The activation count of a bank at which the stack asks for refresh management (R116). Log 9. -/
opaque Config.rfmThreshold : Nat

/-- The free values of the model: the n-th open byte of a run (State.free counts them). HOME_BLOCK_REWRITE writes them where
the rewritten state leaves bytes of its block unsaid (R410 step 4). Log 10. -/
opaque Config.freeByte : Nat → Byte

end Sys2Proof
end

