-- ==== Sys2Proof/Machine/State.lean ====
section
/-! DEFINITION. The state of the node: every register, buffer, queue and mode the spec gives it, as plain data, the
queue of commands that wait, and the machine right after reset. INVENTORY.md lists each field with its rule. -/

namespace Sys2Proof.Machine

open Sys2Proof

/-! ### Tiles and Pods (chapters 06 and 07) -/

/-- The register files that one bundle's slots read and write (R181). -/
structure Regs where
  s : Vector Word64 32
  v : Vector VReg 64
  p : Vector Word64 16
deriving DecidableEq, Repr

/-- A matrix accumulator (R181, R220 to R223): 128 lanes, the terms pushed since the last clear in push order (each push
gives one F32 term per lane), and the lane-fault mask. -/
structure Acc where
  lanes : Vector (BitVec 32) 128
  pushes : List (List F32)
  fault : BitVec 128
deriving DecidableEq, Repr

/-- A wait object (R188 to R190): its deadline tick, EXP and ISSUED, the elements of each status, and the fabric cells that
have arrived toward EXP. -/
structure WaitObj where
  armed : Bool
  dl : Nat
  exp : Nat
  issued : Nat
  arrived : Nat
  late : Nat
  unreadable : Nat
  absent : Nat
  refused : Nat
  cells : Nat
  final : Bool
deriving DecidableEq, Repr

/-- A stationary bank (R219, R220, R225): format, the rows' codes and S8 bytes, the row-fault mask. -/
structure Bank where
  fmt : MatFmt
  rows : List (List Byte × List Byte)
  fault : BitVec 128
deriving DecidableEq, Repr

/-- One level of the hardware loops (R195). -/
structure LoopLevel where
  live : Bool
  first : Nat
  last : Nat
  trip : Nat
  j : Nat
  act : Nat
  d : Fin 32
  pd : Fin 16
  on : Bool
deriving DecidableEq, Repr

/-- One staging slot of a gather or fetch window: tile-store offset, size and status (R174, R205, R206). -/
structure StageSlot where
  off : Nat
  status : Option ElemStatus
deriving DecidableEq, Repr

/-- A gather or fetch window (R172, R204, R205). -/
structure Window where
  slots : List StageSlot
  wait : Fin 64
  deadline : Nat
deriving DecidableEq, Repr

/-- One tile (R181). `src` holds the registers as they stood when the present bundle began (R184); `inBundle` says that a
bundle has begun whose further slots may issue; `awaiting` is the AWAIT that completes at the end of its wait object's
deadline tick (R190): its D, PD and wait object. `srcBound` is the binding as the present bundle began (R197). `srcStore` is the
store as the present bundle began (R163), `slots` says which of its slots have issued, and `cyc` is its fast cycle, counted from tick 0
(R160, R186). `due` gives, for a register, the cycle from which its latest result is visible (R184), by `regKey`. `scrub` are the words
that the scrubber has yet to read again, `bad` those whose error is lasting, by offset (R166). `cellAt` gives, for an
offset, the tick after the one in which a fabric cell last landed there (R247). `phaseUsed` says that a request took a place of the
opportunity whose phase runs (R264). -/
structure Tile where
  regs : Regs
  src : Regs
  inBundle : Bool
  awaiting : Option (Fin 32 × Fin 16 × Fin 64)
  acc : Vector Acc 8
  wait : Vector WaitObj 64
  banks : Vector Bank 2
  bound : Option (Fin 1024)
  srcBound : Option (Fin 1024)
  srcStore : Tab Byte
  slots : BitVec 4
  cyc : Nat
  due : Tab Nat
  loops : Vector LoopLevel 4
  next : Nat
  cur : Nat
  run : Bool
  stall : Nat
  fetchFail : Bool
  phase : Nat
  phaseTick : Nat
  phasePipe : Nat
  phaseT : Nat
  phaseRefused : Bool
  phaseUsed : Bool
  store : Tab Byte
  absmax : Tab F32
  gwin : Option Window
  fwin : Option Window
  scrub : List Nat
  bad : List Nat
  cellAt : Tab Nat
  spares : Nat
deriving DecidableEq, Repr

/-- A Pod's clock (R463). -/
inductive PodClk where | gatedOff | gated | running | relocking
deriving DecidableEq, Repr

/-- A write to a Pod's store on its way (R165): the cycle in which it takes effect, its tile, its place and its bytes. -/
structure PodWrite where
  eff : Nat
  tile : Nat
  off : Nat
  data : List Byte
deriving DecidableEq, Repr

/-- One Pod: its store (R165) with the words of R166 as in a tile, its clock, and what WAKE and GATE have asked for (R198). -/
structure Pod where
  store : Tab Byte
  writes : List PodWrite
  clk : PodClk
  gateAsked : Option Bool
  wakeAt : Option Nat
  scrub : List Nat
  bad : List Nat
  spares : Nat
deriving DecidableEq, Repr

/-- Where the data of an element were read on this node. -/
inductive ElemSrc where
  | tile (off : Nat)
  | pod (off : Nat)
  | node (addr : Nat)
deriving DecidableEq, Repr

/-- What an element of asynchronous work will do when it lands (R188, R202). Data read from the node's own memory are
those of the issue tick (R170). What the pieces of a remote gather have brought waits for the last of them (R174). -/
inductive ElemKind where
  | load (dst : Nat) (data : List Byte) (src : ElemSrc)
  | loadHost (dst : Nat) (len : Nat) (off : Nat)
  | loadRemote (dst : Nat) (left : Nat)
  | storeNode
  | storeHost
  | storePod
  | gather (slot : Nat) (dst : Nat) (data : List Byte) (src : ElemSrc)
  | gatherRemote (slot : Nat) (dst : Nat) (left : Nat) (got : List (Nat × List Byte))
  | fetch (slot : Nat) (dst : Nat) (data : List Byte) (addr : Nat) (promote : Option (CtxId × BitVec 36 × Nat))
  | fetchFlash (slot : Nat) (dst : Nat) (size : Nat)
  | brdlWait (dst : Nat) (list : Nat)
  | txq (req : Nat)
  | dirw (dst : Nat) (bytes : List Byte)
  | dirwWait (dst : Nat)
deriving DecidableEq, Repr

/-- One element in flight (R188): the wait object it counts toward, and the request its tile was bound to. -/
structure Elem where
  id : Nat
  tile : Fin 192
  wait : Fin 64
  kind : ElemKind
  issued : Nat
  slot : Option (Fin 1024)
deriving DecidableEq, Repr

/-- A tile write to node memory that waits for the boundary (R170). Key 192 stands for another node's write. -/
structure TileWrite where
  tile : Nat
  elem : Nat
  addr : Nat
  data : List Byte
deriving DecidableEq, Repr

/-- A directory operation that waits for the boundary (R207). -/
inductive DirOp where | insert | map | free
deriving DecidableEq, Repr

structure DirWrite where
  tile : Fin 192
  elem : Nat
  op : DirOp
  ctx : CtxId
  shard : BitVec 20
  item : BitVec 36
  entry : BitVec 128
deriving DecidableEq, Repr

/-! ### Plans (chapter 09) -/

/-- A pipeline descriptor (R261). -/
structure Pipe where
  kind : Nat
  length : Nat
  period : Nat
  phase : Nat
  perIssue : Nat
  slotBase : Nat
  phaseFirst : Nat
  phaseNum : Nat
  resSets : Nat
  resSpan : Nat
  frameMax : Nat
  maxK : Nat
deriving DecidableEq, Repr

/-- A phase descriptor (R263). -/
structure Phase where
  start : Nat
  len : Nat
  podMask : BitVec 8
  coldMask : BitVec 8
  final : Bool
  checkpoint : Bool
deriving DecidableEq, Repr

/-- A tile section (R531): PROG_LIMIT in bytes, bundles of four slot words, constants with kinds, entry words, send list. -/
structure TileSec where
  progLimit : Nat
  bundles : List (List Word64)
  consts : List (BitVec 128)
  kinds : List Nat
  entries : List (Nat × Nat)
  sends : List (BitVec 64)
deriving DecidableEq, Repr

/-- A port block (R368): the port header, and the send and receive tables (sparse: an unlisted entry is 0). -/
structure PortTab where
  used : Bool
  hop : Nat
  send : Tab (BitVec 16)
  recv : Tab (BitVec 64)
deriving DecidableEq, Repr

/-- A plan as its image describes it (R259, R260, R531). -/
structure Plan where
  planId : BitVec 32
  clockClass : Nat
  timingClass : Nat
  units : BitVec 4
  nodeId : NodeId
  partition : BitVec 6
  pipes : List Pipe
  phases : List Phase
  tiles : List TileSec
  lists : List (List (BitVec 128))
  ports : List PortTab
deriving DecidableEq, Repr

/-- NEXT_STATE of PLAN_STATUS (R268). -/
inductive NextState where | empty | verifying | verified | failed | activating
deriving DecidableEq, Repr

/-- An accepted activation (R266, R267). -/
structure Activation where
  a : Nat
  wload : Nat
  placed : Bool
  failed : Option (BitVec 8)
deriving DecidableEq, Repr

/-- Loading, verifying and activating plans (R265 to R268). -/
structure PlanSt where
  active : Option Plan
  activeDigest : BitVec 512
  activeId : BitVec 32
  nextState : NextState
  nextStatus : BitVec 8
  ready : Bool
  failOffset : BitVec 32
  failTile : BitVec 8
  loading : List Byte
  next : Option Plan
  nextDigest : BitVec 512
  act : Option Activation
  draining : Bool
  start : Nat
  standby : List PortTab
  slots : List PortTab
  swapTick : Option Nat
deriving DecidableEq, Repr

/-! ### Calibration records (chapter 03) -/

/-- Calibration STATE (R75). -/
inductive CalState where | normal | ramp | off
deriving DecidableEq, Repr

/-- A calibration record (R75). -/
structure Cal where
  marginCal : F16
  marginMin : F16
  marginMax : F16
  marginStep : F16
  outlierRatio : F16
  missTarget : Nat
  rateRef : Nat
  rateObs : Nat
  marginNow : F16
  narrowAfter : Nat
  calm : Nat
  calId : BitVec 16
  auditEn : Bool
  calClass : Nat
  state : CalState
deriving DecidableEq, Repr

/-! ### Requests (chapters 09 and 15) -/

/-- The prepare stage of a graph update (R299). -/
structure Prep where
  primary : Bool
  partner : Bool
deriving DecidableEq, Repr

/-- A consumed request that is not yet admitted (R441 to R443, R452). -/
structure Req where
  fn : Fin 513
  sq : Fin 512
  ctx : CtxId
  pipe : Nat
  op : BitVec 8
  tag : BitVec 16
  k : Nat
  item : BitVec 36
  inKind : Nat
  inAddr : Nat
  inLen : Nat
  resAddr : Nat
  resLen : Nat
  yellow : Bool
  seen : Nat
  head : Option (Nat × Nat)
  backlogged : Bool
  doomed : Bool
  prep : Option Prep
deriving DecidableEq, Repr

/-- An admitted request, held by its admission slot until its marker is written (R262), with the margin (R107) and the
calibration record (R73) it was admitted under. `entry` is the entry node of a search that this node works on as a member
(R88, R279): `t` is then the T that its query cells carry, and `opp` the opportunity of the INTERNAL pipeline that took it.
`reh` says that an accepted list of a child carried REHEARSAL (R248). `buffer` is the residency set and the parity of the buffer that
the request's phases read (R277). -/
structure Adm where
  req : Req
  t : Nat
  opp : Nat
  entry : Option NodeId
  place : Nat
  margin : F16
  cal : Cal
  segs : List (BitVec 64)
  fault : Option (BitVec 8)
  audited : Bool
  silent : Bool
  reh : Bool
  buffer : Option (Nat × Bool)
deriving DecidableEq, Repr

/-- A residency set (R276): the context it holds and for how many frames, and the context whose resident data each of its two
buffers was loaded with, the buffer of the frames of even parity and that of the odd ones (R277). -/
structure ResSet where
  ctx : CtxId
  frames : Nat
  even : Option CtxId
  odd : Option CtxId
deriving DecidableEq, Repr

/-! ### Host interface (chapter 15) -/

/-- A WRITE_STATUS register (R435). -/
structure WriteStatus where
  valid : Bool
  more : Bool
  status : BitVec 8
  offset : BitVec 32
deriving DecidableEq, Repr

/-- A meter: control word fields and buckets (R385, R386, R455). -/
structure Meter where
  mode : Nat
  aware : Bool
  rrMax : Nat
  cir : Nat
  pir : Nat
  cbs : Nat
  ebs : Nat
  tc : Nat
  te : Nat
deriving DecidableEq, Repr

/-- One function's queue block (R427, R439, R440). -/
structure Func where
  sqTail : BitVec 9
  sqHead : BitVec 9
  sqSeen : BitVec 9
  cqSeen : BitVec 16
  runSeen : Bool
  cqBase : BitVec 64
  en : Bool
  fault : Bool
  log2 : BitVec 5
  cqHead : BitVec 16
  cqTail : BitVec 16
  phase : Bool
  open_ : Nat
  ring : Tab (BitVec 512)
  ws : WriteStatus
  d3 : Bool
  flrAsked : Bool
  meter : Meter
  meterNext : Option Meter
deriving DecidableEq, Repr

/-- A completion record on its way to a function's ring (R444), but for its PHASE bit. `slot` is the admission slot of a
request that was admitted. The records of one tick are written in the order of R444 as the tick ends. -/
structure Due where
  fn : Fin 513
  snapshot : Nat
  slot : Option Nat
  sq : Fin 512
  body : Nat
deriving DecidableEq, Repr

/-- The mailbox (R456). `held` says that the running command's access to node memory waits behind compute and has been counted
(R142). -/
structure Mbx where
  cmd : BitVec 512
  busy : Bool
  status : BitVec 8
  reply : List (BitVec 64)
  held : Bool
deriving DecidableEq, Repr

/-- The host interface but for the functions: mailbox, ADM_CTL, DBG_ROW, queues and admission state. -/
structure HostIf where
  mbx : Mbx
  admMode : BitVec 2
  admOver : BitVec 16
  admNext : Option (BitVec 2 × BitVec 16)
  dbgRow : BitVec 29
  dbgNext : Option (BitVec 29)
  rr : Fin 4
  queued : List Req
  admitted : Tab (Option Adm)
  vtime : Tab Nat
  flast : Tab Nat
  rrCtx : Tab Nat
  resSets : Tab (Option ResSet)
  resChanged : List Nat
  due : List Due
deriving DecidableEq, Repr

/-! ### Contexts and shards (chapters 02, 03, 04, 06, 10, 13, 15) -/

/-- The audit-state word (R109), with the counts frozen at the last window boundary (R110), the audit sequence (R81), and the
ticks at which a calibration record last took effect (R112), the root last decided and a margin was last applied (R110), and the
latest changes of STATE with their ticks, newest first (R81). The spec gives the word no address, so it stands here and
`auditWord` is what controlling software reads (log 114). -/
structure Audit where
  total : Nat
  miss : Nat
  marginRx : F16
  below : Nat
  lastMove : Nat
  moveTick : Nat
  frozen : Option (Nat × Nat)
  seq : Nat
  loadTick : Option Nat
  decided : Option Nat
  applied : Option Nat
  states : List (Nat × CalState)
deriving DecidableEq, Repr

/-- A tier control word (R302). -/
structure Tier where
  localHot : Bool
  hotBase : Nat
  hotRows : Nat
  purgeLog2 : Nat
  updRate : Nat
  updBurst : Nat
deriving DecidableEq, Repr

/-- A tier change that takes effect in the steps of R303: the new word, the tick of the last pass of
flips, and the tick of the last flip (or of the first boundary). -/
structure TierChange where
  word : Tier
  ran : Option Nat
  lastFlip : Nat
deriving DecidableEq, Repr

/-- An admission word (R449). -/
structure AdmWord where
  owner : Nat
  weight : Nat
  qMax : Nat
  burst : Nat
  minCov : Nat
deriving DecidableEq, Repr

/-- One context. -/
structure Ctx where
  live : Bool
  destroying : Bool
  destroyNow : Bool
  ns : Nat
  metric : Nat
  dim : Nat
  fvFormat : Nat
  fvUnits : Nat
  outliers : Bool
  graph : Nat
  spillRatio : F16
  adm : AdmWord
  admNext : Option (AdmWord × Nat)
  cal : Cal
  calNext : Option (Cal × Nat)
  rate : Nat
  audit : Audit
  segs : List (BitVec 64)
  segsNext : Option (List (BitVec 64))
  tier : Tier
  tierNext : Option Tier
  tierChange : Option TierChange
  credit : Nat
  meter : Meter
  meterNext : Option Meter
  hotHead : Nat
  codeFormat : Option (Nat × Nat × Nat × Nat)
deriving DecidableEq, Repr

/-- A shard map entry's STATE (R35). -/
inductive ShardState where | serving | takeover | filling | lost
deriving DecidableEq, Repr

structure ShardEnt where
  state : ShardState
  partner : NodeId
  primary : NodeId
  reload : Bool
deriving DecidableEq, Repr

/-- A shard-copy descriptor (R37). -/
structure ShardCopy where
  dirBase : Nat
  dirLog2 : Nat
  spillBase : Nat
  spillLog2 : Nat
  recBase : Nat
  partBase : Nat
  centroidBase : Nat
  partCount : Nat
  role : Nat
  shard : BitVec 20
  ctx : CtxId
  loaded : List Nat
deriving DecidableEq, Repr

/-- What an accepted mailbox command will do at the next boundary (R460): entries of a shard map (R35), a shard-copy
descriptor (R37), partition descriptors (R40). -/
inductive MbxEff where
  | shardMap (ctx : CtxId) (first : Nat) (entries : List (NodeId × NodeId))
  | shardCopy (c : ShardCopy)
  | parts (ctx : CtxId) (shard : BitVec 20) (first : Nat) (words : List Nat)
deriving DecidableEq, Repr

/-! ### Node memory, stacks and Beans (chapter 05) -/

/-- Opcodes of Bean commands (R124). -/
inductive BeanOp where | bldq | bldw | bldp | bldx | brdl | bclr | brrd | bscan | bput | bzero | bcopy
deriving DecidableEq, Repr

/-- A computing command on a Bean: the command, whether it runs as an extra, whether it waits for its one retry, whether that retry
waits for its die's place, whether it is the retry, the row that failed first, and, in ns, the instant the Bean is free
of it and the end of its booked span (R125, R139, R148). -/
structure Running where
  op : BeanOp
  w : BeanWord
  extra : Bool
  retryDue : Bool
  waiting : Bool
  isRetry : Bool
  failRow : BitVec 16
  stop : Nat
  bookEnd : Nat
deriving DecidableEq, Repr

/-- One Bean (R126 to R135). `failed` says that FAIL_ROW names a failing word of the group. `saved` is the list and the counts
before the running BSCAN. `gapEnd` is when, in ns, the access gap after its last computing command ends (R142). `exclFor` is the
search list whose BLDX loaded the exclusion list (list number, snapshot). -/
structure Bean where
  qbuf : List Byte
  wbuf : List Byte
  param : List Byte
  excl : List Byte
  list : List (BitVec 128)
  tag : BitVec 8
  status : Nat
  pass : Nat
  malformed : Nat
  rowsLost : Nat
  failRow : BitVec 16
  nan : Nat
  inf : Nat
  readback : List Byte
  rereading : Option (Option (Nat × Nat))
  run : Option Running
  saved : Option (List (BitVec 128) × Nat × Nat × Nat × Nat × Nat)
  gap : Bool
  gapEnd : Nat
  failed : Bool
  groupRows : Nat
  lastTag : BitVec 8
  exclFor : Option (Nat × Nat)
  withheld : Bool
  badPatch : Bool
deriving DecidableEq, Repr

/-- A command of a Bean list in the controllers' queues (R208): its list instance, issue time, Bean, opcode, words and
data, the wait object and results area of a BRDL, and the search snapshot it was issued under (R294). -/
structure QueuedBean where
  list : Nat
  start : Nat
  issue : Nat
  bean : Fin 6144
  op : BeanOp
  w : BeanWord
  data : List Byte
  tile : Fin 192
  elem : Nat
  dst : Nat
  snap : Option Nat
  refused : Bool
deriving DecidableEq, Repr

/-- An extra that waits for a die's place (R140): kind 0 retry, 1 held plan command, 2 mover; `time` is its request time in ns. -/
structure Extra where
  kind : Nat
  bean : Fin 6144
  op : BeanOp
  w : BeanWord
  time : Nat
deriving DecidableEq, Repr

/-- A REMAP entry (R156), by number. -/
structure Remap where
  valid : Bool
  factory : Bool
  ch : BitVec 4
  pc : Bool
  bank : BitVec 6
  row : BitVec 15
  spare : BitVec 6
deriving DecidableEq, Repr

/-- One pseudo-channel's training state (R502). -/
structure PcTrain where
  spare : Bool
  training : Bool
  lastLane : Bool
  held : Bool
  dead : Bool
  tag : BitVec 8
deriving DecidableEq, Repr

/-- The memory stacks and their controllers. `extraOn` and `extraFree` are, by die, the Bean on the extra place and when, in ns,
the place became free (R140). -/
structure Stacks where
  beans : Tab Bean
  beanOut : BitVec 6144
  readmit : BitVec 6144
  present : BitVec 6144
  queue : List QueuedBean
  nextList : Nat
  held : List Access
  extraOn : Tab (Option (Fin 6144))
  extraFree : Tab Nat
  extraWait : List Extra
  debt : Tab Nat
  acts : Tab Nat
  urgent : BitVec 6144
  selfRef : BitVec 8
  remap : Tab Remap
  remapQ : List (Nat × BitVec 16)
  spareUsed : List (Nat × Nat)
  temps : List (BitVec 8)
  cls : List Nat
  clsNext : Option (List Nat × Nat)
  hotTemp : BitVec 8
  rose : Bool
  movers : List Extra
  pcs : Tab PcTrain
  memRetryMax : BitVec 16
deriving DecidableEq, Repr

/-! ### Updates and tiers (chapter 10) -/

/-- STATE and KIND of a change entry (R284). -/
inductive ChgState where | free | applied | committed | aborted | unsure
deriving DecidableEq, Repr

inductive ChgKind where | upsert | delete | move
deriving DecidableEq, Repr

/-- A change entry (R284). COMMIT_TICK and CLOSE_TICK are kept whole; the register shows their low 32 bits. `newImage` is
where the new image was staged, `u`, `entryNode` and `slot` name the request (R287), `spillWas` is the item's spill-table location
before the change (R291). -/
structure Chg where
  state : ChgState
  kind : ChgKind
  ctx : CtxId
  shard : BitVec 20
  item : BitVec 36
  version : BitVec 24
  commitTick : Nat
  closeTick : Nat
  newHome : BitVec 28
  newSpill : BitVec 28
  oldHome : BitVec 28
  oldSpill : BitVec 28
  oldEntry : BitVec 128
  newImage : Option Nat
  u : Nat
  entryNode : NodeId
  slot : BitVec 10
  spillWas : BitVec 28
  rolled : Bool
  closed : Bool
deriving DecidableEq, Repr

/-- An image held in staging (R305), placed there in tick `at_`. -/
structure Staged where
  addr : Nat
  len : Nat
  ctx : CtxId
  shard : BitVec 20
  item : BitVec 36
  packed : Bool
  at_ : Nat
deriving DecidableEq, Repr

/-- The entry node's record of an update in its commit window (R286, R290). -/
structure Commit where
  slot : Fin 1024
  u : Nat
  primary : Option (BitVec 8 × BitVec 24)
  partner : Option (BitVec 8 × BitVec 24)
deriving DecidableEq, Repr

/-- A decision kept for 65,536 ticks (R421). -/
structure Decision where
  slot : BitVec 10
  u : Nat
  c : Nat
  commit : Bool
deriving DecidableEq, Repr

/-- Kinds of migration (R307, R326). -/
inductive MigKind where | durable | promotion | demotion | relocation
deriving DecidableEq, Repr

/-- A migration in progress (R307, R308): source and destination in FV_LOC units, whether its copy has landed, the staged
image of a durable migration, recopies made, and whether a DIRTY flip made it wait. -/
structure Mig where
  id : Nat
  kind : MigKind
  ctx : CtxId
  shard : BitVec 20
  item : BitVec 36
  src : Nat
  dst : Nat
  landed : Bool
  recopies : Nat
  waiting : Bool
  landTick : Nat
deriving DecidableEq, Repr

/-- A location that a flip released, reclaimed 64 ticks later (R309). -/
structure Released where
  addr : Nat
  len : Nat
  flip : Nat
  staged : Bool
deriving DecidableEq, Repr

/-- An entry of the prepare buffer (R299): the request it was read for, the item, and its graph entry (no bytes for an item that
has none). -/
structure Prepared where
  entryNode : NodeId
  fn : Fin 513
  sq : Fin 512
  ctx : CtxId
  item : BitVec 36
  entry : List Byte
deriving DecidableEq, Repr

structure Upd where
  chg : Tab Chg
  stageBase : Nat
  stageRows : Nat
  stageHead : Nat
  staged : List Staged
  commits : List Commit
  decisions : List Decision
  prepared : List Prepared
  promoteQ : List (CtxId × BitVec 36 × Nat)
  migs : List Mig
  nextMig : Nat
  released : List Released
  hotUsed : List (Nat × CtxId × BitVec 36)
  tombs : List (CtxId × BitVec 36 × Nat)
deriving DecidableEq, Repr

/-! ### Flash tier (chapter 11) -/

inductive SegState where | free | open_ | slc | tlc
deriving DecidableEq, Repr

/-- A logical segment (R317, R324). `sbs` are its superblocks: three of the SLC pool, or one TLC superblock. -/
structure Seg where
  state : SegState
  slcMode : Bool
  pos : Nat
  sbs : List Nat
  written : Nat
  live : Nat
  closeTick : Nat
  nextCw : Nat
  lastFlip : Nat
  refresh : Bool
deriving DecidableEq, Repr

/-- A superblock: one block on each channel of its position's group (R321, R325). `stale` says that its blocks hold data of
an earlier use and are erased before the next program (R319). -/
structure Super where
  pos : Nat
  blocks : List Nat
  slcPool : Bool
  inUse : Bool
  stale : Bool
deriving DecidableEq, Repr

/-- A block table entry (R319, R330). `begun` says that a page of the block has been programmed since its last erase. -/
structure BlockInfo where
  erases : Nat
  retired : Bool
  writeTick : Nat
  progTemp : Int
  begun : Bool
deriving DecidableEq, Repr

/-- Who a flash read serves: a plan element, a promotion, a relocation, the other holder (R333), a prepare stage (R299), the fold in
progress (R322), the die parity of another read (R331). -/
inductive ReadFor where
  | elem (id : Nat)
  | promotion (mig : Nat)
  | relocation (mig : Nat)
  | replica (src : NodeId)
  | prepare (entryNode : NodeId) (fn : Fin 513) (sq : Fin 512)
  | fold
  | stripe (id : Nat)
deriving DecidableEq, Repr

inductive ReadStage where | queued | sent | ladder | soft | parity | replica
deriving DecidableEq, Repr

/-- A flash read (R327, R330, R331, R334), queued in tick `queued`. `absent` says that its location held no data then (R318),
`stripeBad` that a codeword of its stripe failed remedies 1 and 2 (R331). -/
structure FRead where
  id : Nat
  why : ReadFor
  ctx : CtxId
  item : BitVec 36
  version : Option (BitVec 24)
  addr : Nat
  lun : Fin 512
  block : Nat
  cls : Nat
  deadline : Nat
  stage : ReadStage
  s0 : Nat
  tried : List Nat
  start : Nat
  finish : Nat
  queued : Nat
  absent : Bool
  stripeBad : Bool
deriving DecidableEq, Repr

/-- An assembly buffer, or a codeword that waits for its page (R320, R326): the context, the tick of its first image, the
migrations of its images in order, its bytes, whether it goes to the relocation segment, and whether it repeats a program
that failed (R323). -/
structure PackBuf where
  ctx : CtxId
  first : Nat
  migs : List Nat
  bytes : List Byte
  reloc : Bool
  again : Bool
deriving DecidableEq, Repr

/-- The array operation a LUN runs (R327, R328). -/
inductive LunOp where
  | idle
  | read (id : Nat)
  | program (seg : Nat) (page : Nat) (col : Nat) (cws : List PackBuf)
  | erase (block : Nat) (again : Bool)
  | fold (page : Nat) (col : Nat)
deriving DecidableEq, Repr

/-- The fold in progress (R322): the segment, the TLC superblock it goes to, the next page to program (16 × page row + column), and
a page whose failed program is to be repeated. -/
structure Fold where
  seg : Nat
  target : Nat
  next : Nat
  again : Option Nat
deriving DecidableEq, Repr

/-- A change of the segment map that waits for the boundary (R317): the segment's state, and its superblocks. -/
structure MapChange where
  seg : Nat
  state : SegState
  sbs : List Nat
deriving DecidableEq, Repr

/-- A LUN (R327, R328, R330). `resumed` is the tick in which the operation it runs was last resumed. -/
structure Lun where
  op : LunOp
  suspended : Option LunOp
  resumed : Option Nat
  temp : Int
  eraseQ : List (Nat × Bool)
  vtime : Nat
  rr : Nat
deriving DecidableEq, Repr

structure Flash where
  pages : BitVec 12
  blocks : BitVec 16
  eraseLimit : BitVec 16
  segments : Nat
  lunsPerCe : BitVec 2
  groups : BitVec 2
  usable : List Nat
  family : BitVec 64
  slcPct : BitVec 4
  wInv : BitVec 8
  wAge : BitVec 8
  wWear : BitVec 8
  ageShift : BitVec 5
  gcLow : BitVec 11
  overhead : BitVec 12
  packWait : BitVec 8
  retiredCnt : Nat
  full : Bool
  segs : Tab Seg
  supers : Tab Super
  spares : Tab (List Nat)
  store : Tab (Option (CtxId × List Byte))
  blockTab : Tab BlockInfo
  luns : Tab Lun
  packs : List PackBuf
  writeQ : List PackBuf
  openSeg : Option Nat
  relocSeg : Option Nat
  reads : List FRead
  nextRead : Nat
  flast : Tab Nat
  collecting : Option Nat
  gcOn : Bool
  left : List (Nat × Nat × Nat)
  retireQ : List (Nat × Nat × RetireCause)
  replicas : List (Nat × Nat)
  chanLow : BitVec 32
  chanTag : List (BitVec 8)
  busRr : Tab Nat
  fold : Option Fold
  mapNext : List MapChange
deriving DecidableEq, Repr

/-! ### Text unit (chapter 12) -/

inductive ImgState where | empty | held | ready | failed
deriving DecidableEq, Repr

/-- A tokeniser slot (R339, R360): `switchDue` is the tick of a load that the next boundary makes active. -/
structure TokSlot where
  active : List Byte
  activeState : ImgState
  digest : BitVec 512
  standby : List Byte
  standbyState : ImgState
  standbyDigest : BitVec 512
  switchDue : Option Nat
  switchTick : Nat
deriving DecidableEq, Repr

/-- A sequence context (R345): what it is bound to (admission slot, admission tick, OP), and its carry, held bytes, stop set and
grammar state; `fell` says that its filter has been counted as failed (R356). -/
structure Seq where
  bound : Option (Fin 1024 × Nat × Nat)
  carry : List Byte
  held : List Byte
  stops : List (List Byte)
  past : Bool
  gstate : Option Nat
  gend : Bool
  fell : Bool
  failed : Bool
deriving DecidableEq, Repr

/-- A request that waits for the text unit (R344, R346): the descriptor, the operands read at issue, the request its tile was bound to
(admission slot and tick), and its issue instant as a fast cycle. -/
structure TextReq where
  id : Nat
  tile : Fin 192
  desc : BitVec 128
  input : List Byte
  len : Nat
  out : Nat
  bound : Option (Fin 1024 × Nat)
  instant : Nat
deriving DecidableEq, Repr

/-- The text unit (R339, R345, R346): its slots, its sequence contexts, the requests that wait, and the instant at which the request
served last ended, in half nanoseconds times the fast cycles of a tick. -/
structure Text where
  slots : Vector TokSlot 2
  seqs : Tab Seq
  queue : List TextReq
  freeAt : Nat
deriving DecidableEq, Repr

/-! ### Fabric (chapter 13) -/

inductive PortState where | absent | down | trained | up | degraded | failed
deriving DecidableEq, Repr

inductive BypState where | closed | opening | open_ | closing
deriving DecidableEq, Repr

/-- A frame that waits at an out port (R383): the party, the cells, and whether link retry sends it again (R394). -/
structure OutFrame where
  port : Fin 6
  party : Nat
  cells : FrameCells
  resent : Bool
deriving DecidableEq, Repr

/-- A retried cell on its way through (R392): its arrival tick and slot, its in-port, and the cell as it leaves. -/
structure Onward where
  tick : Nat
  slot : Nat
  inp : Fin 6
  cell : List Byte
deriving DecidableEq, Repr

/-- One port: PORT_CTL, PORT_STATUS, lanes and link retry (R392 to R396). `sent` holds the static cells (tick, slot, cell) and
`fsent` the frames (tick) that a retry may still name; `expect` the cells (tick, slot, bad lanes) and `fexpect` the frames
(SRC, TAG, bad lanes) that this side has asked for again. `own` holds the port's own resends with the tick whose retry slots they
take, and `onward` the retried cells of others that wait for one. -/
structure Port where
  retryMax : BitVec 16
  state : PortState
  laneFail : BitVec 9
  spare : BitVec 4
  meas : BitVec 10
  laneTags : List (BitVec 8)
  laneAge : List Nat
  tempNow : BitVec 8
  timeSrc : Bool
  retraining : Option (Fin 9)
  laneWait : List (Fin 9)
  asked : Option (Fin 9 × Nat)
  heard : Option (Fin 9 × Nat)
  retries : List (BitVec 16)
  sent : List (Nat × Nat × List Byte)
  own : List (Nat × List Byte)
  onward : List Onward
  expect : List (Nat × Nat × BitVec 9)
  fsent : List (Nat × OutFrame)
  fexpect : List (NodeId × BitVec 16 × BitVec 9)
  arb : Nat
deriving DecidableEq, Repr

/-- A remote read tag in flight (R391). -/
structure RTag where
  tag : BitVec 16
  ctx : CtxId
  issue : Nat
  tile : Fin 192
  wait : Fin 64
  elem : Nat
  off : Nat
  len : Nat
deriving DecidableEq, Repr

/-- A cell on its way to a tile store (R372): landing two slots after its arrival slot. -/
structure Landing2 where
  tile : Fin 192
  off : Nat
  wait : Fin 64
  tick : Nat
  cell : List Byte
deriving DecidableEq, Repr

structure Fabric where
  fence : BitVec 3
  byp : Vector BypState 3
  bypAsked : Vector (Option Bool) 3
  ports : Vector Port 6
  frameNo : BitVec 16
  out : List OutFrame
  tags : List RTag
  nextTag : BitVec 16
  landing : List Landing2
deriving DecidableEq, Repr

/-! ### Pools and ledger (chapter 14) -/

/-- A ledger word (R404) with its request id. -/
structure Ledger where
  epoch : BitVec 13
  owner : BitVec 2
  standby : NodeId
  sblock : BitVec 25
  phase : BitVec 8
  valid : Bool
  reqId : BitVec 64
  mirrored : Bool
  ckptSent : Bool
deriving DecidableEq, Repr

/-- A standby block held for another node's request (R408, R411): `got` lists the checkpoint frames that have come (offset,
bytes), `word` is the ledger word last received. -/
structure Standby where
  block : Nat
  reqId : BitVec 64
  src : NodeId
  phase : BitVec 8
  epoch : BitVec 13
  retained : Bool
  last : Nat
  word : BitVec 64
  got : List (Nat × Nat)
deriving DecidableEq, Repr

/-- The step a resume has reached (R410). -/
inductive ResumeStep where | swapAsked | adopting | restored | rewritten | swapBack
deriving DecidableEq, Repr

/-- A resume: `got` lists the RESTORE frames that have landed (offset, bytes), `tick` is the tick of the last, or that in which the
block was written. -/
structure Resume where
  slot : Fin 1024
  step : ResumeStep
  got : List (Nat × List Byte)
  tick : Nat
deriving DecidableEq, Repr

/-- A swap that waits for the boundary (R405). `local_` marks the entry node's own. -/
structure Swap where
  local_ : Bool
  body : CasBody
  slot : Fin 1024
deriving DecidableEq, Repr

structure Pool where
  base : Nat
  rows : Nat
  blockLog2 : BitVec 3
  mapValid : BitVec 4
  cands : List NodeId
  ledger : Tab Ledger
  standbys : List Standby
  swaps : List Swap
  swapReplies : List (Swap × BitVec 8 × Ledger)
  resumes : List Resume
deriving DecidableEq, Repr

/-! ### Epoch, steward and recovery (chapters 14 and 17) -/

inductive Role where | member | steward | claimant | none_
deriving DecidableEq, Repr

inductive JoinState where | none_ | waiting | opening | member | failed
deriving DecidableEq, Repr

structure Join where
  j : Nat
  partition : BitVec 6
  pairs : BitVec 3
  aligned : Bool
deriving DecidableEq, Repr

/-- A fill in progress (R419). `row` is the node address above the last partition row that the source has sent. -/
structure Fill where
  ctx : CtxId
  shard : BitVec 20
  source : Bool
  row : Nat
  lastCommit : BitVec 64
  lastDurable : BitVec 64
  done : Bool
deriving DecidableEq, Repr

/-- Causes of a drop from the epoch (R475). -/
inductive DropCause where | align | activation | rehearsal | lost | leave
deriving DecidableEq, Repr

structure Mach where
  partition : BitVec 6
  epoch : BitVec 32
  steward : NodeId
  role : Role
  silent : Nat
  nextEpoch : Nat
  members : List NodeId
  nextMembers : List NodeId
  lost : List NodeId
  missed : Tab Nat
  acked : List NodeId
  leaseSeen : Bool
  claims : List (NodeId × Nat × Nat)
  windows : List (Nat × Nat × NodeId)
  pastWindows : List (Nat × Nat)
  dropped : Option DropCause
  join : Option Join
  leaveAsked : Bool
  adds : List (Nat × NodeId)
  fills : List Fill
  ticks : List ShardTicks
  rehStart : BitVec 64
  rehLen : BitVec 32
  rehKind : BitVec 4
  rehTarget : BitVec 15
  rehArmed : Bool
  rehActive : Bool
deriving DecidableEq, Repr

/-! ### Management (chapters 16, 17 and 18) -/

/-- A pending event (R477, R478). -/
structure PendEvt where
  source : Fin 512
  tick : Nat
  payload : BitVec 192
deriving DecidableEq, Repr

structure Events where
  vecBase : BitVec 19
  split : BitVec 3
  src : Tab (BitVec 8)
  holdoff : Tab (BitVec 16)
  holdEnd : Tab Nat
  pending : List PendEvt
  handlers : List (Fin 512)
  pc : Option Nat
  records : List PendEvt
  base : BitVec 64
  en : Bool
  log2 : BitVec 4
  head : BitVec 16
  tail : BitVec 16
  phase : Bool
  seq : BitVec 40
deriving DecidableEq, Repr

structure Power where
  capW : BitVec 16
  boardCap : Option (BitVec 16)
  powerW : BitVec 16
  capEff : BitVec 16
  calm : BitVec 4
  shed : BitVec 3
  computeMax : BitVec 8
  ioMax : BitVec 8
  opticMax : BitVec 8
  memMax : BitVec 8
  warn : Bool
deriving DecidableEq, Repr

/-- Boot stages (R495, R497). -/
inductive Stage where | rom | firmware | training | zeroing | ready
deriving DecidableEq, Repr

inductive FwStage where | idle | writing | written | failed
deriving DecidableEq, Repr

/-- Reset causes (R480). -/
inductive Cause where | powerOn | pfFlr | watchdog | thermal | smbus | firmware
deriving DecidableEq, Repr

structure Aon where
  powered : Bool
  resetN : Bool
  perstN : Bool
  bfOwn : Bool
  bfBoard : Bool
  inReset : Bool
  cause : Cause
  smbAddr : BitVec 2
  nodeId : NodeId
  hold : Bool
  tripN : Bool
  tripCompute : Nat
  tripMem : Nat
  wdog : Nat
  seed : Option (BitVec 256)
  flash : List BootRec
  fwFirst : Bool
  halted : Bool
  stage : Stage
  oscLocked : Bool
  sensC : BitVec 8
  sensIo : BitVec 8
  sensMem : BitVec 8
  zeroed : Bool
  fail : BitVec 8
  fwVersion : BitVec 32
  fwSlot : Bool
  fast : Bool
  joinState : JoinState
  fwStageState : FwStage
  fwStaged : List Byte
  trainWriting : Bool
  pubKey : BitVec 256
  deviceId : BitVec 128
  measRecs : List (BitVec 512)
  measFw : BitVec 512
  trim : List Byte
  cert : List Byte
  fwBody : List Byte
  variant : BitVec 8
  clockClass : BitVec 2
  textUnit : Bool
  zPorts : Bool
  flashGroups : BitVec 2
  powerLimit : BitVec 16
  tileOut : List Byte
  trainTags : List (BitVec 8)
  smbReply : List Byte
deriving DecidableEq, Repr

/-! ### Ticks -/

/-- What has happened at the boundary that opened the present tick: the descriptors have been consumed, the frame
boundary has been taken, the pipelines whose opportunity has come, and the phases that have started. -/
structure TickDone where
  consumed : Bool
  framed : Bool
  pipes : List Nat
  phases : List (Nat × Nat)
  rehCrc : Bool
  leased : Bool
  leaseSent : Bool
  applied : Bool
deriving DecidableEq, Repr

/-- TICK_NOW and its alignment (R255 to R257). -/
structure Clock where
  tick : Nat
  locked : Bool
  offset : BitVec 8
  misses : Nat
  resync : Option Nat
  lastRate : Option Nat
  lastPower : Option Nat
  did : TickDone
deriving DecidableEq, Repr

/-- A message that travels round the ring in one direction (R110, R290): its target, the direction, and the tick by whose end it is
due there. -/
structure RingMsg where
  target : NodeId
  plus : Bool
  due : Nat
  kind : Nat
  data : List Byte
deriving DecidableEq, Repr

/-- What leaves the node: the last register read's answer (or its Completer Abort), the last sideband Block Read's answer,
writes to host memory, cells, frames, control blocks, static-slot messages and ring messages sent. -/
structure Io where
  readData : BitVec 512
  readAbort : Bool
  smb : List Byte
  hostWrites : List (Nat × List Byte)
  cells : List (Fin 6 × Nat × Nat × List Byte)
  frames : List (Fin 6 × FrameCells)
  ctl : List (Fin 6 × List Byte)
  msgs : List (NodeId × Nat × List Byte)
  ringMsgs : List RingMsg
deriving DecidableEq, Repr

/-- The whole node. `raw` holds, by number, the bursts of node memory whose stored symbols are not the fresh codes of their bytes
(R118, R151): every other burst is stored with fresh inner and outer symbols (`storedBurst`). -/
structure State where
  pending : List Instr
  free : Nat
  io : Io
  aon : Aon
  clk : Clock
  mach : Mach
  host : HostIf
  funcs : Tab Func
  ctxs : Tab Ctx
  shards : Tab ShardEnt
  copies : Tab (Option ShardCopy)
  mbxDue : List MbxEff
  plan : PlanSt
  tiles : Tab Tile
  pods : Tab Pod
  tileFault : BitVec 192
  podFault : BitVec 8
  elems : List Elem
  nextElem : Nat
  memWrites : List TileWrite
  dirWrites : List DirWrite
  mem : List Host.Cell
  raw : Tab (Option Burst)
  stk : Stacks
  upd : Upd
  fl : Flash
  txt : Text
  fab : Fabric
  pool : Pool
  evt : Events
  pow : Power
  cnt : Tab (BitVec 32)
deriving DecidableEq, Repr

/-- No command of this block ends in a fault: the node takes no trap (R161), and every fault of the spec is a predicate,
a status, a flag, a counter or a reset. -/
inductive Fault where
deriving DecidableEq, Repr

/-- Why a command has no meaning. -/
inductive Refusal where
  /-- Raised by exec for a command that is not modelled yet. Safe: the machine stops. -/
  | notModelled (mnemonic : String)
deriving DecidableEq, Repr


/-! ### The state right after reset

State.reset is the node just after power-on, held in reset (R515 step 4; log 1). A value the spec states no reset value
for is zero or empty (log 2). The defaults of the sparse tables are the `reset` values of their elements. -/

def Regs.reset : Regs :=
  ⟨Vector.replicate 32 0, Vector.replicate 64 0, (Vector.replicate 16 0).set 0 (BitVec.allOnes 64)⟩

def Acc.reset : Acc := ⟨Vector.replicate 128 0, [], 0⟩

def WaitObj.reset : WaitObj := ⟨false, 0, 0, 0, 0, 0, 0, 0, 0, 0, false⟩

def Bank.reset : Bank := ⟨.e4, [], 0⟩

def LoopLevel.reset : LoopLevel := ⟨false, 0, 0, 0, 0, 0, 0, 0, false⟩

def Tile.reset : Tile :=
  { regs := Regs.reset, src := Regs.reset, inBundle := false, awaiting := none, acc := Vector.replicate 8 Acc.reset,
    wait := Vector.replicate 64 WaitObj.reset, banks := Vector.replicate 2 Bank.reset, bound := none,
    srcBound := none, srcStore := [], slots := 0, cyc := 0, due := [], loops := Vector.replicate 4 LoopLevel.reset, next := 0,
    cur := 0, run := false, stall := 0, fetchFail := false, phase := 0, phaseTick := 0, phasePipe := 0, phaseT := 0,
    phaseRefused := false, phaseUsed := false, store := [], absmax := [], gwin := none, fwin := none, scrub := [], bad := [],
    cellAt := [], spares := 0 }

def Pod.reset : Pod := ⟨[], [], .gatedOff, none, none, [], [], 0⟩

def WriteStatus.reset : WriteStatus := ⟨false, false, 0, 0⟩

def Meter.reset : Meter := ⟨0, false, 0, 0, 0, 0, 0, 0, 0⟩

def Func.reset : Func :=
  { sqTail := 0, sqHead := 0, sqSeen := 0, cqSeen := 0, runSeen := false, cqBase := 0, en := false, fault := false, log2 := 0,
    cqHead := 0, cqTail := 0, phase := true, open_ := 0, ring := [], ws := WriteStatus.reset, d3 := false,
    flrAsked := false, meter := Meter.reset, meterNext := none }

def Cal.reset : Cal := ⟨0, 0, 0, 0, 0, 0, 0, 0, 0, 0, 0, 0, false, 0, .normal⟩

def Tier.reset : Tier := ⟨false, 0, 0, 0, 0, 0⟩

def AdmWord.reset : AdmWord := ⟨0, 0, 0, 0, 0⟩

def Ctx.reset : Ctx :=
  { live := false, destroying := false, destroyNow := false, ns := 0, metric := 0, dim := 0, fvFormat := 0, fvUnits := 0,
    outliers := false, graph := 0, spillRatio := 0, adm := AdmWord.reset, admNext := none, cal := Cal.reset,
    calNext := none, rate := 0, audit := ⟨0, 0, 0, 0, 0, 0, none, 0, none, none, none, []⟩, segs := List.replicate 16 0, segsNext := none,
    tier := Tier.reset, tierNext := none, tierChange := none, credit := 0, meter := Meter.reset, meterNext := none,
    hotHead := 0, codeFormat := none }

def ShardEnt.reset : ShardEnt := ⟨.serving, 0, 0, false⟩

def Bean.reset : Bean :=
  { qbuf := [], wbuf := [], param := [], excl := [], list := [], tag := 0, status := 0, pass := 0, malformed := 0,
    rowsLost := 0, failRow := 0, nan := 0, inf := 0, readback := [], rereading := none, run := none, saved := none,
    gap := false, gapEnd := 0, failed := false, groupRows := 0, lastTag := 0, exclFor := none, withheld := false, badPatch := false }

def Remap.reset : Remap := ⟨false, false, 0, false, 0, 0, 0⟩

def PcTrain.reset : PcTrain := ⟨true, false, false, false, false, 0⟩

def Stacks.reset : Stacks :=
  { beans := [], beanOut := 0, readmit := 0, present := 0, queue := [], nextList := 0, held := [], extraOn := [], extraFree := [],
    extraWait := [], debt := [], acts := [], urgent := 0, selfRef := 0, remap := [], remapQ := [], spareUsed := [],
    temps := List.replicate 96 0, cls := List.replicate 8 0, clsNext := none, hotTemp := 0, rose := false, movers := [],
    pcs := [], memRetryMax := 64 }

def Chg.reset : Chg :=
  { state := .free, kind := .upsert, ctx := 0, shard := 0, item := 0, version := 0, commitTick := 0, closeTick := 0,
    newHome := 0, newSpill := 0, oldHome := 0, oldSpill := 0, oldEntry := 0, newImage := none, u := 0, entryNode := 0,
    slot := 0, spillWas := BitVec.allOnes 28, rolled := false, closed := false }

def Upd.reset : Upd := ⟨[], 0, 0, 0, [], [], [], [], [], [], 0, [], [], []⟩

def Seg.reset : Seg := ⟨.free, false, 0, [], 0, 0, 0, 0, 0, false⟩

def Super.reset : Super := ⟨0, [], false, false, false⟩

def BlockInfo.reset : BlockInfo := ⟨0, false, 0, 0, false⟩

def Lun.reset : Lun := ⟨.idle, none, none, 0, [], 0, 0⟩

def Flash.reset : Flash :=
  { pages := 0, blocks := 0, eraseLimit := 0, segments := 0, lunsPerCe := 0, groups := 0, usable := [], family := 0,
    slcPct := 4, wInv := 128, wAge := 16, wWear := 32, ageShift := 20, gcLow := 16, overhead := 4, packWait := 32,
    retiredCnt := 0, full := false, segs := [], supers := [], spares := [], store := [], blockTab := [], luns := [],
    packs := [], writeQ := [], openSeg := none, relocSeg := none, reads := [], nextRead := 0, flast := [],
    collecting := none, gcOn := false, left := [], retireQ := [], replicas := [], chanLow := BitVec.allOnes 32,
    chanTag := List.replicate 32 0, busRr := [], fold := none, mapNext := [] }

def TokSlot.reset : TokSlot := ⟨[], .empty, 0, [], .empty, 0, none, 0⟩

def Seq.reset : Seq := ⟨none, [], [], [], false, none, false, false, false⟩

def Text.reset : Text := ⟨Vector.replicate 2 TokSlot.reset, [], [], 0⟩

def Port.reset : Port :=
  { retryMax := 64, state := .down, laneFail := 0, spare := 8, meas := 0, laneTags := List.replicate 9 0, laneAge := List.replicate 9 0, tempNow := 0, timeSrc := false,
    retraining := none, laneWait := [], asked := none, heard := none, retries := List.replicate 9 0, sent := [], own := [], onward := [], expect := [],
    fsent := [],
    fexpect := [], arb := 0 }

def Fabric.reset : Fabric :=
  { fence := BitVec.allOnes 3, byp := Vector.replicate 3 .closed, bypAsked := Vector.replicate 3 none,
    ports := Vector.replicate 6 Port.reset, frameNo := 0, out := [], tags := [], nextTag := 0, landing := [] }

def Ledger.reset : Ledger := ⟨0, 0, 0, 0, 0, false, 0, false, false⟩

def Pool.reset : Pool :=
  { base := 0, rows := 4194304, blockLog2 := 2, mapValid := 0, cands := [0, 0, 0, 0], ledger := [], standbys := [],
    swaps := [], swapReplies := [], resumes := [] }

def Mach.reset : Mach :=
  { partition := 0, epoch := 0, steward := 0, role := .none_, silent := 0, nextEpoch := 0, members := [],
    nextMembers := [], lost := [], missed := [], acked := [], leaseSeen := false, claims := [], windows := [], pastWindows := [],
    dropped := none, join := none, leaveAsked := false, adds := [], fills := [], ticks := [], rehStart := 0, rehLen := 0,
    rehKind := 0, rehTarget := 0, rehArmed := false, rehActive := false }

/-- The default of an EVT_SRC register (R476): disabled, MESSAGE, PRIO 15. -/
def Events.srcReset : BitVec 8 := 0x0F

def Events.reset : Events :=
  { vecBase := 0, split := 0, src := [], holdoff := [], holdEnd := [], pending := [], handlers := [], pc := none,
    records := [], base := 0, en := false, log2 := 0, head := 0, tail := 0, phase := true, seq := 0 }

def Power.reset : Power :=
  { capW := 0, boardCap := none, powerW := 0, capEff := 0, calm := 0, shed := 0, computeMax := 0, ioMax := 0,
    opticMax := 0, memMax := 0, warn := false }

def Aon.reset : Aon :=
  { powered := true, resetN := false, perstN := false, bfOwn := false, bfBoard := false, inReset := true,
    cause := .powerOn, smbAddr := 0, nodeId := 0, hold := false, tripN := true, tripCompute := 0, tripMem := 0,
    wdog := 0, seed := none, flash := [], fwFirst := false, halted := false, stage := .rom, oscLocked := true,
    sensC := 0, sensIo := 0, sensMem := 0, zeroed := false, fail := 0, fwVersion := 0, fwSlot := false, fast := false, joinState := .none_,
    fwStageState := .idle, fwStaged := [], trainWriting := false, pubKey := 0, deviceId := 0,
    measRecs := List.replicate 5 0, measFw := 0, trim := [], cert := [], fwBody := [], variant := 0, clockClass := 0,
    textUnit := false, zPorts := false, flashGroups := 0, powerLimit := 0, tileOut := List.replicate 8 0,
    trainTags := [], smbReply := [] }

def PlanSt.reset : PlanSt :=
  { active := none, activeDigest := 0, activeId := 0, nextState := .empty, nextStatus := 0, ready := false,
    failOffset := 0, failTile := 0, loading := [], next := none, nextDigest := 0, act := none, draining := false, start := 0,
    standby := [], slots := [], swapTick := none }

def HostIf.reset : HostIf :=
  { mbx := ⟨0, false, 0, List.replicate 4 0, false⟩, admMode := 1, admOver := 16, admNext := none, dbgRow := 0,
    dbgNext := none, rr := 0, queued := [], admitted := [], vtime := [], flast := [], rrCtx := [], resSets := [],
    resChanged := [], due := [] }

def TickDone.reset : TickDone := ⟨false, false, [], [], false, false, false, false⟩

def Clock.reset : Clock := ⟨0, false, 0, 0, none, none, none, TickDone.reset⟩

def Io.reset : Io := ⟨0, false, [], [], [], [], [], [], []⟩

/-- The machine right after reset: the POWER_ON reset (R515, log 1). -/
def State.reset : State :=
  { pending := [], free := 0, io := Io.reset, aon := Aon.reset, clk := Clock.reset, mach := Mach.reset,
    host := HostIf.reset, funcs := [], ctxs := [], shards := [], copies := [], mbxDue := [], plan := PlanSt.reset, tiles := [],
    pods := [], tileFault := 0, podFault := 0, elems := [], nextElem := 0, memWrites := [], dirWrites := [], mem := [], raw := [],
    stk := Stacks.reset, upd := Upd.reset, fl := Flash.reset, txt := Text.reset, fab := Fabric.reset,
    pool := Pool.reset, evt := Events.reset, pow := Power.reset, cnt := [] }

end Sys2Proof.Machine
end

