-- ==== Sys2Proof/Machine/Bits.lean ====
section
/-! DEFINITION. Bit fields, little-endian bytes and sparse tables: the plainest helpers of the model. -/

namespace Sys2Proof.Machine

open Sys2Proof

/-! ### Fields of numbers (R8) -/

/-- Bits `lo + w - 1` to `lo` of a number. -/
def bitsOf (n lo w : Nat) : Nat := n / 2 ^ lo % 2 ^ w

/-- Bit `i` of a number. -/
def bitOf (n i : Nat) : Bool := n / 2 ^ i % 2 == 1

def b2n (b : Bool) : Nat := if b then 1 else 0

/-- The value of a w-bit two's-complement field. -/
def sInt (w n : Nat) : Int := if n % 2 ^ w < 2 ^ (w - 1) then (n % 2 ^ w : Nat) else (n % 2 ^ w : Nat) - (2 ^ w : Nat)

/-- Fields packed from bit 0 up: (width, value) pairs. -/
def packFields : List (Nat × Nat) → Nat
  | [] => 0
  | (w, v) :: r => v % 2 ^ w + 2 ^ w * packFields r

/-! ### Little-endian bytes (R8) -/

/-- The number that bytes spell, little-endian. -/
def leNat : List Byte → Nat
  | [] => 0
  | b :: r => b.toNat + 256 * leNat r

/-- The `n` bytes of a number, little-endian. -/
def leBytes : Nat → Nat → List Byte
  | 0, _ => []
  | n + 1, v => BitVec.ofNat 8 v :: leBytes n (v / 256)

/-- The number that bytes spell, big-endian. -/
def beNat (l : List Byte) : Nat := leNat l.reverse

/-- The `n` bytes of a number, big-endian. -/
def beBytes (n v : Nat) : List Byte := (leBytes n v).reverse

/-- `n` bytes of a list from offset `o`; zero bytes past its end. -/
def slice (l : List Byte) (o n : Nat) : List Byte :=
  let t := (l.drop o).take n
  t ++ List.replicate (n - t.length) 0

/-- A little-endian field of `n` bytes at offset `o`. -/
def leAt (l : List Byte) (o n : Nat) : Nat := leNat (slice l o n)

/-- Bytes `d` written over a list at offset `o` (zero bytes fill a gap). -/
def splice (l : List Byte) (o : Nat) (d : List Byte) : List Byte :=
  slice l 0 o ++ d ++ l.drop (o + d.length)

/-- Bytes `x` at address `b` laid over bytes `d` at address `a`. -/
def overlay (a : Nat) (d : List Byte) (b : Nat) (x : List Byte) : List Byte :=
  (List.range d.length).map (fun i => if b ≤ a + i ∧ a + i < b + x.length then x.getD (a + i - b) 0 else d.getD i 0)

/-- A list cut into pieces of `n` elements (the last may be shorter), at most `fuel` of them. -/
def chunks {α : Type} : Nat → Nat → List α → List (List α)
  | 0, _, _ => []
  | _ + 1, _, [] => []
  | fuel + 1, n, l => l.take n :: chunks fuel n (l.drop n)

/-! ### Sparse tables -/

/-- The entry of a table, or its default. -/
def tget {α : Type} (d : α) : Tab α → Nat → α
  | [], _ => d
  | (k', v) :: t, k => if k' = k then v else tget d t k

/-- A table without the entry of a key. -/
def tdel {α : Type} : Tab α → Nat → Tab α
  | [], _ => []
  | (k', v) :: t, k => if k' = k then tdel t k else (k', v) :: tdel t k

/-- An entry put before the first greater key. -/
def tins {α : Type} : Tab α → Nat → α → Tab α
  | [], k, v => [(k, v)]
  | (k', w) :: t, k, v => if k < k' then (k, v) :: (k', w) :: t else (k', w) :: tins t k v

/-- An entry put into a table, which keeps its canonical form: keys rising, no entry equal to the default. -/
def tput {α : Type} [DecidableEq α] (d : α) (t : Tab α) (k : Nat) (v : α) : Tab α :=
  if v = d then tdel t k else tins (tdel t k) k v

/-- An entry changed by a function. -/
def tmod {α : Type} [DecidableEq α] (d : α) (t : Tab α) (k : Nat) (f : α → α) : Tab α := tput d t k (f (tget d t k))

/-- Every entry of a table that is listed, changed by a function of its key. -/
def tmapAll {α : Type} [DecidableEq α] (d : α) (f : Nat → α → α) (t : Tab α) : Tab α :=
  t.foldr (fun kv acc => tput d acc kv.1 (f kv.1 kv.2)) []

/-- The canonical form of a table: keys strictly rising, no entry equal to the default. -/
def twf {α : Type} [DecidableEq α] (d : α) : Tab α → Bool
  | [] => true
  | (_, v) :: [] => decide (v ≠ d)
  | (k, v) :: (k', v') :: t => decide (v ≠ d) && decide (k < k') && twf d ((k', v') :: t)

/-- `n` bytes of a byte table from address `a`; an unlisted byte reads 0 (log 7). -/
def readBytes (m : Tab Byte) : Nat → Nat → List Byte
  | _, 0 => []
  | a, n + 1 => tget 0 m a :: readBytes m (a + 1) n

/-- Bytes written to a byte table from address `a`. -/
def writeBytes (m : Tab Byte) : Nat → List Byte → Tab Byte
  | _, [] => m
  | a, b :: r => writeBytes (tput 0 m a b) (a + 1) r

/-! ### Lists -/

/-- The first index at which a test holds. -/
def firstIdx {α : Type} (p : α → Bool) (l : List α) : Option Nat := l.findIdx? p

/-- One element of a list replaced. -/
def lset {α : Type} (l : List α) (i : Nat) (v : α) : List α := l.set i v

/-- Insertion by a strict order, after equals: a stable insertion sort. -/
def insertBy {α : Type} (lt : α → α → Bool) (x : α) : List α → List α
  | [] => [x]
  | y :: r => if lt x y then x :: y :: r else y :: insertBy lt x r

def sortBy {α : Type} (lt : α → α → Bool) : List α → List α
  | [] => []
  | x :: r => insertStable lt x (sortBy lt r)
where
  insertStable (lt : α → α → Bool) (x : α) : List α → List α
    | [] => [x]
    | y :: r => if lt y x then y :: insertStable lt x r else x :: y :: r

/-- The list with each element once, first occurrences kept. -/
def uniq {α : Type} [DecidableEq α] (l : List α) : List α :=
  l.foldl (fun acc x => if acc.contains x then acc else acc ++ [x]) []

/-- A bit of a bit vector by a number. -/
def bit {w : Nat} (v : BitVec w) (i : Nat) : Bool := v.getLsbD i

/-- A bit of a bit vector set or cleared. -/
def setBit {w : Nat} (v : BitVec w) (i : Nat) (b : Bool) : BitVec w :=
  if b then v ||| (1#w <<< i) else v &&& ~~~(1#w <<< i)

/-- The number of ones among the low `n` bits. -/
def popCount (n v : Nat) : Nat := (List.range n).foldl (fun c i => c + v / 2 ^ i % 2) 0

/-- Whether two temperatures differ by more than 15 °C (R394, R501). -/
def drifted (a b : BitVec 8) : Bool := decide (15 < a.toNat - b.toNat) || decide (15 < b.toNat - a.toNat)

end Sys2Proof.Machine
end

