-- ==== Sys2Proof/Machine/Codes.lean ====
section
/-! DEFINITION. CRC-32C of cells (R366), and the inner Hamming code and the outer code RS(68,64) of node memory (R117 to R119). -/

namespace Sys2Proof.Machine

open Sys2Proof

/-! ### CRC-32C (R366) -/

/-- One bit step of the reflected polynomial 0x1EDC_6F41. -/
def crcBit (c : BitVec 32) : BitVec 32 := if c.getLsbD 0 then (c >>> 1) ^^^ 0x82F63B78#32 else c >>> 1

def crcByte (c : BitVec 32) (b : Byte) : BitVec 32 :=
  (List.range 8).foldl (fun c _ => crcBit c) (c ^^^ b.zeroExtend 32)

/-- CRC-32C of a byte list: initial value and final XOR all ones. -/
def crc32c (l : List Byte) : BitVec 32 := ~~~(l.foldl crcByte (BitVec.allOnes 32))

/-! ### The outer code (R118) -/

/-- Multiplication by α = 0x02 modulo x^8 + x^4 + x^3 + x^2 + 1. -/
def gfDouble (a : Byte) : Byte := if a.getLsbD 7 then (a <<< 1) ^^^ 0x1D#8 else a <<< 1

/-- Horner over the top `n` bits of b. -/
def gfMulTop (a b : Byte) : Nat → Byte
  | 0 => 0
  | n + 1 => gfDouble (gfMulTop a b n) ^^^ (if b.getLsbD (7 - n) then a else 0)

/-- The product in GF(2^8). -/
def gfMul (a b : Byte) : Byte := gfMulTop a b 8

/-- α to a power. -/
def gfPow (n : Nat) : Byte := (List.range (n % 255)).foldl (fun a _ => gfDouble a) 1

/-- a^n. -/
def gfPowOf (a : Byte) (n : Nat) : Byte := (List.range n).foldl (fun r _ => gfMul r a) 1

/-- The inverse of a nonzero element: a^254. -/
def gfInv (a : Byte) : Byte := gfPowOf a 254

/-- The generator's coefficients below x^4, degree 3 first. -/
def rsGen : List Byte :=
  let mulRoot (p : List Byte) (r : Byte) : List Byte :=
    List.zipWith (· ^^^ ·) (p ++ [0]) (0 :: p.map (gfMul r))
  ((((mulRoot (mulRoot (mulRoot (mulRoot [1] (gfPow 0)) (gfPow 1)) (gfPow 2)) (gfPow 3))).drop 1))

/-- One byte into the remainder register, degree 3 first. -/
def rsStep (rem : List Byte) (b : Byte) : List Byte :=
  let f := b ^^^ rem.getD 0 0
  List.zipWith (· ^^^ ·) (rem.drop 1 ++ [0]) (rsGen.map (gfMul f))

/-- The 4 check bytes of a 64-byte burst (R118). -/
def rsCheck (burst : List Byte) : List Byte := burst.foldl rsStep [0, 0, 0, 0]

/-- Syndrome i of the 68 bytes: the word's value at α^i, by Horner from byte 0. -/
def rsSyndrome (w : List Byte) (i : Nat) : Byte := w.foldl (fun a b => gfMul a (gfPow i) ^^^ b) 0

/-- The corrections of up to two bytes that make the word a codeword: positions and values to add. None when no such
pattern exists. -/
def rsSolve (w : List Byte) : Option (List (Nat × Byte)) :=
  let s0 := rsSyndrome w 0
  let s1 := rsSyndrome w 1
  let s2 := rsSyndrome w 2
  let s3 := rsSyndrome w 3
  if s0 = 0 ∧ s1 = 0 ∧ s2 = 0 ∧ s3 = 0 then some []
  else
    let loc (j : Nat) : Byte := gfPow (67 - j)
    let one := (List.range 68).find? (fun j =>
      s1 == gfMul s0 (loc j) && s2 == gfMul s1 (loc j) && s3 == gfMul s2 (loc j))
    match one with
    | some j => some [(j, s0)]
    | none =>
      -- locators x, y of a double error satisfy s2 = (x+y) s1 + xy s0 and s3 = (x+y) s2 + xy s1
      let det := gfMul s1 s1 ^^^ gfMul s0 s2
      if det = 0 then none
      else
        let sum := gfMul (gfMul s1 s2 ^^^ gfMul s0 s3) (gfInv det)
        let prod := gfMul (gfMul s1 s3 ^^^ gfMul s2 s2) (gfInv det)
        let roots := (List.range 68).filter (fun j =>
          gfMul (loc j) (loc j) ^^^ gfMul sum (loc j) ^^^ prod == 0)
        match roots with
        | [j, k] =>
          let x := loc j
          let y := loc k
          -- e1 + e2 = s0 and x e1 + y e2 = s1
          let e1 := gfMul (s1 ^^^ gfMul y s0) (gfInv (x ^^^ y))
          some [(j, e1), (k, s0 ^^^ e1)]
        | _ => none

/-! ### The inner code (R117) -/

/-- The position of data bit `i` of a word in its Hamming code, whose 136 positions count from 1 and whose check bits stand at the
powers of two (log 116). -/
def innerPos (i : Nat) : Nat :=
  i + 3 + b2n (decide (1 ≤ i)) + b2n (decide (4 ≤ i)) + b2n (decide (11 ≤ i)) + b2n (decide (26 ≤ i)) + b2n (decide (57 ≤ i))
    + b2n (decide (120 ≤ i))

/-- The 8 check bits of a 128-bit word: the positions of its ones added bit by bit. -/
def innerCheck (w : List Byte) : Byte :=
  BitVec.ofNat 8 ((List.range 128).foldl (fun c i => if bitOf (leNat w) i then c ^^^ innerPos i else c) 0)

/-- A word read with its stored check bits: what the die reports, and the bytes it gives. A syndrome names the position in error; a
word is uncorrectable when it names none (R117). -/
def innerRead (w : List Byte) (c : Byte) : WordReport × List Byte :=
  let y := (innerCheck w ^^^ c).toNat
  if y = 0 then (.clean, w)
  else if 136 < y then (.uncorrectable, w)
  else
    match (List.range 128).find? (fun i => innerPos i == y) with
    | some i => (.corrected, leBytes 16 (leNat w ^^^ 2 ^ i))
    | none => (.corrected, w)

/-- The four data words of a burst as the die gives them. -/
def burstWords (b : Burst) : List (WordReport × List Byte) :=
  (List.range 4).map (fun k => innerRead (slice b.bytes (16 * k) 16) (b.inner.getD k 0))

/-- The 64 bytes of a burst after inner correction. -/
def burstInner (b : Burst) : List Byte := (burstWords b).flatMap (·.2)

/-- A burst as a write stores it: fresh inner and outer symbols, the last 4 metadata bytes zero (R117, R118, R120). -/
def freshBurst (d : List Byte) : Burst :=
  ⟨d, rsCheck d ++ [0, 0, 0, 0], (List.range 4).map (fun k => innerCheck (slice d (16 * k) 16))⟩

end Sys2Proof.Machine
end

