-- ==== Sys2Proof/Machine/Fp.lean ====
section
/-! DEFINITION. IEEE 754 binary32 and binary16 arithmetic as R60 to R64 fix it: every operation is computed exactly and
rounded once to nearest, ties to even (R61); subnormals are kept; every NaN is the canonical one (R63). -/

namespace Sys2Proof.Machine

open Sys2Proof

/-- A number as its bits decode: value (-1)^neg · m · 2^e. -/
inductive FVal where
  | nan
  | inf (neg : Bool)
  | fin (neg : Bool) (m : Nat) (e : Int)
deriving DecidableEq, Repr

/-- A binary format: exponent bits and fraction bits (R60). -/
structure FFmt where
  eb : Nat
  mb : Nat
deriving DecidableEq, Repr

def fmt32 : FFmt := ⟨8, 23⟩
def fmt16 : FFmt := ⟨5, 10⟩

/-- The exponent of the last place of the smallest number: -149 for F32, -24 for F16. -/
def FFmt.emin (f : FFmt) : Int := 2 - (2 ^ (f.eb - 1) : Nat) - (f.mb : Nat)

/-- The magnitude bits of infinity. -/
def FFmt.infBits (f : FFmt) : Nat := (2 ^ f.eb - 1) * 2 ^ f.mb

/-- The canonical quiet NaN (R63). -/
def FFmt.nanBits (f : FFmt) : Nat := f.infBits + 2 ^ (f.mb - 1)

/-- What bits decode to (R60). -/
def fdecode (f : FFmt) (n : Nat) : FVal :=
  let neg := bitOf n (f.eb + f.mb)
  let ex := bitsOf n f.mb f.eb
  let fr := bitsOf n 0 f.mb
  if ex = 2 ^ f.eb - 1 then (if fr = 0 then .inf neg else .nan)
  else if ex = 0 then .fin neg fr f.emin
  else .fin neg (2 ^ f.mb + fr) (f.emin + (ex - 1 : Nat))

/-- How a magnitude that lies between two numbers is rounded. -/
inductive Rnd where
  | even   -- to nearest, ties to even (R61)
  | away   -- to the larger magnitude
  | zero   -- to the smaller magnitude
deriving DecidableEq, Repr

/-- The magnitude bits nearest m · 2^e, without a limit at infinity: exponent and fraction run on. -/
def fmagnitude (f : FFmt) (r : Rnd) (m : Nat) (e : Int) : Nat :=
  if m = 0 then 0
  else
    let top : Int := e + (Nat.log2 m : Nat) - (f.mb : Nat)
    let l := max f.emin top
    let q :=
      if l ≤ e then m * 2 ^ (e - l).toNat
      else
        let s := (l - e).toNat
        let q0 := m / 2 ^ s
        let rest := m % 2 ^ s
        match r with
        | .zero => q0
        | .away => if rest = 0 then q0 else q0 + 1
        | .even => if 2 * rest > 2 ^ s ∨ (2 * rest = 2 ^ s ∧ q0 % 2 = 1) then q0 + 1 else q0
    (l - f.emin).toNat * 2 ^ f.mb + q

/-- Sign put on magnitude bits. -/
def fsigned (f : FFmt) (neg : Bool) (mag : Nat) : Nat := b2n neg * 2 ^ (f.eb + f.mb) + mag

/-- The number nearest a value, as bits; beyond the largest it is infinite (R61). -/
def fencode (f : FFmt) : FVal → Nat
  | .nan => f.nanBits
  | .inf neg => fsigned f neg f.infBits
  | .fin neg m e => fsigned f neg (min (fmagnitude f .even m e) f.infBits)

def f32Of (v : FVal) : F32 := BitVec.ofNat 32 (fencode fmt32 v)
def f32Val (b : F32) : FVal := fdecode fmt32 b.toNat
def f16Of (v : FVal) : F16 := BitVec.ofNat 16 (fencode fmt16 v)
def f16Val (b : F16) : FVal := fdecode fmt16 b.toNat

def f32NaN : F32 := 0x7FC00000#32
def f32PosInf : F32 := 0x7F800000#32
def f32NegInf : F32 := 0xFF800000#32

/-! ### Exact values -/

/-- The signed integer of a finite value at exponent `e0`, at most its own. -/
def alignInt (neg : Bool) (m : Nat) (e e0 : Int) : Int :=
  let k : Int := (m * 2 ^ (e - e0).toNat : Nat)
  if neg then -k else k

/-- An integer times 2^e; a zero takes the sign given. -/
def finOfInt (k e : Int) (zeroNeg : Bool) : FVal :=
  if k = 0 then .fin zeroNeg 0 e else .fin (decide (k < 0)) k.natAbs e

/-- The exact sum; an exact zero is +0 unless both operands are -0. -/
def vadd : FVal → FVal → FVal
  | .nan, _ => .nan
  | _, .nan => .nan
  | .inf a, .inf b => if a = b then .inf a else .nan
  | .inf a, _ => .inf a
  | _, .inf b => .inf b
  | .fin na ma ea, .fin nb mb eb =>
    let e0 := min ea eb
    finOfInt (alignInt na ma ea e0 + alignInt nb mb eb e0) e0 (na && nb)

def vneg : FVal → FVal
  | .nan => .nan
  | .inf a => .inf !a
  | .fin n m e => .fin (!n) m e

/-- The exact product. -/
def vmul : FVal → FVal → FVal
  | .nan, _ => .nan
  | _, .nan => .nan
  | .inf a, .inf b => .inf (a != b)
  | .inf a, .fin n m _ => if m = 0 then .nan else .inf (a != n)
  | .fin n m _, .inf b => if m = 0 then .nan else .inf (n != b)
  | .fin na ma ea, .fin nb mb eb => .fin (na != nb) (ma * mb) (ea + eb)

/-- The quotient, exact to at least 40 bits, its last bit saying whether anything lies below (for one rounding). -/
def vdiv : FVal → FVal → FVal
  | .nan, _ => .nan
  | _, .nan => .nan
  | .inf _, .inf _ => .nan
  | .inf a, .fin n _ _ => .inf (a != n)
  | .fin n _ _, .inf b => .fin (n != b) 0 0
  | .fin na ma ea, .fin nb mb eb =>
    if mb = 0 then (if ma = 0 then .nan else .inf (na != nb))
    else
      let k := Nat.log2 mb + 40
      let q := ma * 2 ^ k / mb
      .fin (na != nb) (2 * q + b2n (ma * 2 ^ k % mb != 0)) (ea - eb - (k : Nat) - 1)

/-- The integer square root, bit by bit from bit `b` - 1 down. -/
def isqrtFrom (n : Nat) : Nat → Nat → Nat
  | 0, r => r
  | b + 1, r => if (r + 2 ^ b) * (r + 2 ^ b) ≤ n then isqrtFrom n b (r + 2 ^ b) else isqrtFrom n b r

def isqrt (n : Nat) : Nat := isqrtFrom n (Nat.log2 n / 2 + 1) 0

/-- The square root, for one rounding. -/
def vsqrt : FVal → FVal
  | .nan => .nan
  | .inf neg => if neg then .nan else .inf false
  | .fin neg m e =>
    if m = 0 then .fin neg 0 0
    else if neg then .nan
    else
      let m1 := if e % 2 = 0 then m else 2 * m
      let h := e / 2
      let n := m1 * 2 ^ 80
      let q := isqrt n
      .fin false (2 * q + b2n (q * q != n)) (h - 41)

/-- 1 / sqrt, for one rounding (R214: as IEEE 754 for zero, infinite and negative operands). -/
def vrsqrt : FVal → FVal
  | .nan => .nan
  | .inf neg => if neg then .nan else .fin false 0 0
  | .fin neg m e =>
    if m = 0 then .inf neg
    else if neg then .nan
    else
      let m1 := if e % 2 = 0 then m else 2 * m
      let h := e / 2
      let q := isqrt (2 ^ 160 / m1)
      .fin false (2 * q + b2n (q * q * m1 != 2 ^ 160)) (-81 - h)

/-- Fixed-point numbers of VEXP2 have this many fraction bits. -/
def expBits : Nat := 256

/-- The sum of 1 / (k 2^k) for k from `k` on, `n` terms: ln 2 in fixed point. -/
def ln2Sum : Nat → Nat → Nat
  | 0, _ => 0
  | n + 1, k => 2 ^ expBits / (k * 2 ^ k) + ln2Sum n (k + 1)

def ln2Fix : Nat := ln2Sum 256 1

/-- The sum of x^k / k! from the term given on, `n` terms, in fixed point. -/
def expSum (x : Nat) : Nat → Nat → Nat → Nat
  | 0, _, _ => 0
  | n + 1, k, t => t + expSum x n (k + 1) (t * x / 2 ^ expBits / (k + 1))

/-- 2 to a power (R213, R214). The fraction's power is computed to about 240 bits, beyond which no F32 operand comes near
a rounding boundary (DEDUCED, log 11); a power with a fraction is irrational, so its last bit is sticky. -/
def vexp2 : FVal → FVal
  | .nan => .nan
  | .inf neg => if neg then .fin false 0 0 else .inf false
  | .fin neg m e =>
    let big := if 0 ≤ e then m * 2 ^ e.toNat else m / 2 ^ (-e).toNat
    if big ≥ 256 then (if neg then .fin false 0 0 else .inf false)
    else
      let num := alignInt neg m e (min e 0)
      let den : Int := (2 ^ (-(min e 0)).toNat : Nat)
      let n := num / den
      let fr := (num % den).toNat
      if fr = 0 then .fin false 1 n
      else
        let f := fr * 2 ^ expBits / den.toNat
        let x := f * ln2Fix / 2 ^ expBits
        .fin false (2 * expSum x 80 0 (2 ^ expBits) + 1) (n - (expBits : Nat) - 1)

/-! ### F32 operations -/

def fadd (a b : F32) : F32 := f32Of (vadd (f32Val a) (f32Val b))
def fsub (a b : F32) : F32 := f32Of (vadd (f32Val a) (vneg (f32Val b)))
def fmul (a b : F32) : F32 := f32Of (vmul (f32Val a) (f32Val b))
/-- a × b + c with one rounding. -/
def ffma (a b c : F32) : F32 := f32Of (vadd (vmul (f32Val a) (f32Val b)) (f32Val c))
def fdiv (a b : F32) : F32 := f32Of (vdiv (f32Val a) (f32Val b))
def fsqrt (a : F32) : F32 := f32Of (vsqrt (f32Val a))
def frcp (a : F32) : F32 := fdiv 0x3F800000#32 a
def frsqrt (a : F32) : F32 := f32Of (vrsqrt (f32Val a))
def fexp2 (a : F32) : F32 := f32Of (vexp2 (f32Val a))

def fisNaN (a : F32) : Bool := decide (f32Val a = .nan)
def fisInf (a : F32) : Bool := a == f32PosInf || a == f32NegInf
def fisZero (a : F32) : Bool := a &&& 0x7FFFFFFF#32 == 0

/-- A signed integer in the order of the numbers, both zeros at 0 (R62). Not for NaN. -/
def forder (a : F32) : Int :=
  if a.getLsbD 31 then -((a &&& 0x7FFFFFFF#32).toNat : Int) else (a.toNat : Int)

def feq (a b : F32) : Bool := !fisNaN a && !fisNaN b && forder a == forder b
def flt (a b : F32) : Bool := !fisNaN a && !fisNaN b && decide (forder a < forder b)
def fle (a b : F32) : Bool := !fisNaN a && !fisNaN b && decide (forder a ≤ forder b)

/-- A zero as +0 (R62, R99). -/
def fposZero (a : F32) : F32 := if fisZero a then 0 else a

/-- Maximum and minimum (R214): NaN for any NaN, and +0 for any zero result. -/
def fmaxv (a b : F32) : F32 :=
  if fisNaN a || fisNaN b then f32NaN else fposZero (if forder a < forder b then b else a)
def fminv (a b : F32) : F32 :=
  if fisNaN a || fisNaN b then f32NaN else fposZero (if forder b < forder a then b else a)

/-- |a|, with -0 as +0. -/
def fabs (a : F32) : F32 := a &&& 0x7FFFFFFF#32

/-! ### Conversions (R64, R215) -/

/-- A value exactly, its zero +0 (R62). -/
def plusZero : FVal → FVal
  | .fin _ 0 e => .fin false 0 e
  | v => v

def f16ToF32 (h : F16) : F32 := f32Of (plusZero (f16Val h))

/-- Rounded to F16; overflow gives an infinity; a zero is stored +0 (R62, R64). -/
def f32ToF16 (a : F32) : F16 :=
  let r := f16Of (f32Val a)
  if r = 0x8000 then 0 else r

/-- Rounded to F16, saturating at ±65,504; true when it clipped (R71, R215 code 10). -/
def f32ToF16Sat (a : F32) : F16 × Bool :=
  let r := f32ToF16 a
  if r = 0x7C00 then (0x7BFF, true) else if r = 0xFC00 then (0xFBFF, true) else (r, false)

/-- An integer rounded to F32. -/
def intToF32 (k : Int) : F32 := f32Of (finOfInt k 0 false)

/-- The nearest integer, ties to even, of a value; NaN gives none, an infinity the sign of a huge number. -/
def roundEven : FVal → Option Int
  | .nan => none
  | .inf neg => some (if neg then -(2 ^ 200 : Nat) else (2 ^ 200 : Nat))
  | .fin neg m e =>
    let k : Nat :=
      if 0 ≤ e then m * 2 ^ e.toNat
      else
        let s := (-e).toNat
        let q := m / 2 ^ s
        let r := m % 2 ^ s
        if 2 * r > 2 ^ s ∨ (2 * r = 2 ^ s ∧ q % 2 = 1) then q + 1 else q
    some (if neg then -(k : Int) else k)

def clampInt (lo hi k : Int) : Int := if k < lo then lo else if hi < k then hi else k

/-- F32 to I32, saturating; NaN gives 0 (R215 code 6). -/
def f32ToI32 (a : F32) : BitVec 32 :=
  match roundEven (f32Val a) with
  | none => 0
  | some k => BitVec.ofInt 32 (clampInt (-2147483648) 2147483647 k)

/-- Rounded toward +∞ to F16 (R216 VF16UP, R70 f16_up); true when the limit 0x7BFF applied. -/
def f16Up (a : F32) : F16 × Bool :=
  match f32Val a with
  | .nan => (0x7E00, false)
  | .inf neg => if neg then (0xFC00, false) else (0x7BFF, true)
  | .fin neg m e =>
    if neg then
      let g := min (fmagnitude fmt16 .zero m e) 0x7BFF
      (BitVec.ofNat 16 (if g = 0 then 0 else 0x8000 + g), false)
    else
      let g := fmagnitude fmt16 .away m e
      if g > 0x7BFF then (0x7BFF, true) else (BitVec.ofNat 16 g, false)

/-- The value of an S8 byte (R65). -/
def s8Val (b : Byte) : FVal :=
  if b = 0 then .fin false 0 0
  else .fin false (16 + b.toNat % 16) ((b.toNat / 16 : Nat) - 19)

def s8ToF32 (b : Byte) : F32 := f32Of (s8Val b)

/-- The exact order of finite values and infinities. -/
def vle : FVal → FVal → Bool
  | .nan, _ => false
  | _, .nan => false
  | .inf true, _ => true
  | _, .inf false => true
  | .inf false, _ => false
  | _, .inf true => false
  | .fin na ma ea, .fin nb mb eb =>
    let e0 := min ea eb
    decide (alignInt na ma ea e0 ≤ alignInt nb mb eb e0)

/-- The smallest nonzero S8 whose value is at least t; 0xFF beyond the largest (R70 s8_up). -/
def s8Up (a : F32) : Byte :=
  match ((List.range 255).map (· + 1)).find? (fun b => vle (f32Val a) (s8Val (BitVec.ofNat 8 b))) with
  | some b => BitVec.ofNat 8 b
  | none => 0xFF

/-! ### F16 sums of the audit root (R111): exact, rounded once -/

def f16Add (a b : F16) : F16 := f16Of (vadd (f16Val a) (f16Val b))
def f16Sub (a b : F16) : F16 := f16Of (vadd (f16Val a) (vneg (f16Val b)))
def f16Le (a b : F16) : Bool := vle (f16Val a) (f16Val b)
def f16Finite (a : F16) : Bool := match f16Val a with | .fin _ _ _ => true | _ => false
/-- Finite and not negative, -0 taken as +0 (R75). -/
def f16NonNeg (a : F16) : Bool := match f16Val a with | .fin n m _ => !n || m == 0 | _ => false

/-- The fixed summation tree (R91), on lists cut at the largest power of two below the length. `fuel` bounds the depth. -/
def sumTree : Nat → List F32 → F32
  | 0, l => l.headD 0
  | fuel + 1, l =>
    match l with
    | [] => 0
    | [v] => v
    | _ =>
      let m := 2 ^ Nat.log2 (l.length - 1)
      fadd (sumTree fuel (l.take m)) (sumTree fuel (l.drop m))

/-- SUM of R91; the empty list gives +0. -/
def fsum (l : List F32) : F32 := sumTree (l.length + 1) l

end Sys2Proof.Machine
end

