-- ==== Sys2Proof/Machine/Ops.lean ====
section
/-! DEFINITION. The named operations over the state: counters, stores, tables, status registers. -/

namespace Sys2Proof.Machine

open Sys2Proof

/-! ### Counters (R14) -/

/-- A counter's value. -/
def counterOf (s : State) (c : Counter) : BitVec 32 := tget 0 s.cnt c.ctorIdx

/-- `n` added to a 32-bit counter that saturates at all ones (R14). -/
def satAdd32 (v : BitVec 32) (n : Nat) : BitVec 32 := BitVec.ofNat 32 (min (v.toNat + n) 4294967295)

/-- A counter counts `n` (R14). -/
def bumpBy (s : State) (c : Counter) (n : Nat) : State :=
  { s with cnt := tmod 0 s.cnt c.ctorIdx (fun v => satAdd32 v n) }

/-- A counter counts one. -/
def bump (s : State) (c : Counter) : State := bumpBy s c 1

/-- A counter counts one where a condition holds. -/
def bumpIf (b : Bool) (s : State) (c : Counter) : State := if b then bump s c else s

/-- A counter read with access RC: it clears (R11). -/
def clearCounter (s : State) (c : Counter) : State := { s with cnt := tput 0 s.cnt c.ctorIdx 0 }

/-! ### Tiles and Pods -/

def tileOf (s : State) (t : Nat) : Tile := tget Tile.reset s.tiles t
def putTile (s : State) (t : Nat) (x : Tile) : State := { s with tiles := tput Tile.reset s.tiles t x }
def onTile (s : State) (t : Nat) (f : Tile → Tile) : State := putTile s t (f (tileOf s t))

/-- The Pod of a logical tile (R158). -/
def podOfTile (t : Nat) : Nat := t / 24

def podOf (s : State) (p : Nat) : Pod := tget Pod.reset s.pods p
def putPod (s : State) (p : Nat) (x : Pod) : State := { s with pods := tput Pod.reset s.pods p x }
def onPod (s : State) (p : Nat) (f : Pod → Pod) : State := putPod s p (f (podOf s p))

/-- A Pod's tiles issue only while its clock runs (R160, R463). -/
def podRuns (s : State) (p : Nat) : Bool := (podOf s p).clk == .running

/-! ### Functions, contexts, shards -/

def funcOf (s : State) (f : Nat) : Func := tget Func.reset s.funcs f
def putFunc (s : State) (f : Nat) (x : Func) : State := { s with funcs := tput Func.reset s.funcs f x }
def onFunc (s : State) (f : Nat) (g : Func → Func) : State := putFunc s f (g (funcOf s f))

def ctxOf (s : State) (c : Nat) : Ctx := tget Ctx.reset s.ctxs c
def putCtx (s : State) (c : Nat) (x : Ctx) : State := { s with ctxs := tput Ctx.reset s.ctxs c x }
def onCtx (s : State) (c : Nat) (g : Ctx → Ctx) : State := putCtx s c (g (ctxOf s c))

/-- The contexts that are set up, in ascending order. -/
def liveCtxs (s : State) : List Nat := (s.ctxs.filter (fun kv => kv.2.live)).map (·.1)

/-- The key of a (context, shard) pair. -/
def shardKey (c sh : Nat) : Nat := c * 1048576 + sh

def shardEnt (s : State) (c sh : Nat) : ShardEnt := tget ShardEnt.reset s.shards (shardKey c sh)
def putShard (s : State) (c sh : Nat) (e : ShardEnt) : State :=
  { s with shards := tput ShardEnt.reset s.shards (shardKey c sh) e }

def copyOf (s : State) (c sh : Nat) : Option ShardCopy := tget none s.copies (shardKey c sh)
def putCopy (s : State) (c sh : Nat) (x : Option ShardCopy) : State :=
  { s with copies := tput none s.copies (shardKey c sh) x }

/-- Every shard copy the node holds. -/
def allCopies (s : State) : List ShardCopy := s.copies.filterMap (·.2)

/-- The copies of one context. -/
def copiesOf (s : State) (c : Nat) : List ShardCopy := (allCopies s).filter (fun x => x.ctx.toNat == c)

/-! ### Node memory (R114) -/

/-- Bytes of node memory: 384 GiB. -/
def memBytes : Nat := 412316860416

/-- Rows of node memory. -/
def memRows : Nat := 402653184

def memRead (s : State) (a n : Nat) : List Byte := readBytes s.mem a n
def memNat (s : State) (a n : Nat) : Nat := leNat (memRead s a n)

/-- The bursts with symbols of their own but for those that a write covers whole: these get fresh codes (R118, R120). -/
def dropRaw (l : Tab (Option Burst)) (a n : Nat) : Tab (Option Burst) :=
  l.filter (fun kv => !(decide (a ≤ 64 * kv.1) && decide (64 * kv.1 + 64 ≤ a + n)))

def memWrite (s : State) (a : Nat) (d : List Byte) : State :=
  { s with mem := writeBytes s.mem a d, raw := dropRaw s.raw a d.length }

/-- A write that another node asks for takes effect at the boundary after the tick in which it arrives (R170). -/
def remoteWrite (s : State) (a : Nat) (d : List Byte) : State :=
  let w : TileWrite := ⟨192, 0, a, d⟩
  { s with memWrites := s.memWrites ++ [w] }

/-- Memory as it will stand once the waiting writes of other nodes are made. -/
def remoteView (s : State) (a n : Nat) : List Byte :=
  (s.memWrites.filter (fun w => w.tile == 192)).foldl (fun d w => overlay a d w.addr w.data) (memRead s a n)

/-! ### Admitted requests -/

def admOf (s : State) (slot : Nat) : Option Adm := tget none s.host.admitted slot
def putAdm (s : State) (slot : Nat) (a : Option Adm) : State :=
  { s with host := { s.host with admitted := tput none s.host.admitted slot a } }
def onAdm (s : State) (slot : Nat) (f : Adm → Adm) : State :=
  match admOf s slot with
  | none => s
  | some a => putAdm s slot (some (f a))

/-- The admission slots in use, ascending. -/
def admSlots (s : State) : List Nat := (s.host.admitted.filter (fun kv => kv.2.isSome)).map (·.1)

/-- The request a tile was bound to as its bundle began, if its admission slot still holds one (R197). -/
def boundAdm (s : State) (t : Tile) : Option Adm :=
  match t.srcBound with
  | none => none
  | some b => admOf s b.val

/-! ### Status codes (R447) -/

def stDone : BitVec 8 := 0x00
def stBadOpcode : BitVec 8 := 0x01
def stBadField : BitVec 8 := 0x02
def stBadContext : BitVec 8 := 0x03
def stNoRights : BitVec 8 := 0x04
def stQueueFull : BitVec 8 := 0x05
def stPlanRejected : BitVec 8 := 0x06
def stTimingClass : BitVec 8 := 0x07
def stUnitAbsent : BitVec 8 := 0x08
def stCapacity : BitVec 8 := 0x09
def stStateLost : BitVec 8 := 0x0A
def stPartial : BitVec 8 := 0x0B
def stMediaError : BitVec 8 := 0x0C
def stFenced : BitVec 8 := 0x0D
def stTimeout : BitVec 8 := 0x0E
def stAborted : BitVec 8 := 0x0F
def stSignature : BitVec 8 := 0x10
def stStaleEpoch : BitVec 8 := 0x11

end Sys2Proof.Machine
end

