-- ==== Sys2Proof/Machine/Structs.lean ====
section
/-! DEFINITION. The stored structures of chapter 02: item hashes, versions, records, outlier tails, images, directories,
spill tables, partition descriptors, and the descriptors' own checks. -/

namespace Sys2Proof.Machine

open Sys2Proof

/-! ### Items, hashes and versions -/

/-- The reserved item id (R30). -/
def itemNone : BitVec 36 := BitVec.allOnes 36

/-- H of R33: the high half of the 64-bit product. -/
def itemHash (k item : Nat) : Nat := item * k % 18446744073709551616 / 4294967296

/-- The shard of an item (R33). -/
def shardOf (ns item : Nat) : Nat := itemHash 0x9E3779B97F4A7C15 item * ns / 4294967296

/-- The first directory or spill group of an item (R52). -/
def dirGroup1 (log2 item : Nat) : Nat := itemHash 0xC2B2AE3D27D4EB4F item / 2 ^ (32 - log2)
/-- The second (R52). -/
def dirGroup2 (log2 item : Nat) : Nat := itemHash 0x165667B19E3779F9 item / 2 ^ (32 - log2)

/-- Whether version a is newer than b, and whether the case was ambiguous (R32). -/
def versionNewer (a b : BitVec 24) : Bool × Bool :=
  let d := a - b
  if d = 0 then (false, false)
  else if d = 0x800000 then (decide (b < a), true)
  else (decide (d < 0x800000), false)

/-- The version after one (R31). -/
def versionNext (v : BitVec 24) : BitVec 24 := v + 1

/-! ### Record headers (R43, R44) -/

structure Header where
  sqNorm : F32
  tailOffset : Nat
  outliers : Nat
  vecScale : F16
  version : BitVec 24
  tombstone : Bool
  outlierTail : Bool
  spill : Bool
  live : Bool
  item : BitVec 36
deriving DecidableEq, Repr

/-- The header that 16 bytes hold (R43). -/
def headerOf (b : List Byte) : Header :=
  let n := leAt b 0 16
  { sqNorm := BitVec.ofNat 32 (bitsOf n 96 32), tailOffset := bitsOf n 88 8, outliers := bitsOf n 80 8,
    vecScale := BitVec.ofNat 16 (bitsOf n 64 16), version := BitVec.ofNat 24 (bitsOf n 40 24),
    tombstone := bitOf n 39, outlierTail := bitOf n 38, spill := bitOf n 37, live := bitOf n 36,
    item := BitVec.ofNat 36 (bitsOf n 0 36) }

/-- The 16 bytes of a header (R43). -/
def headerBytes (h : Header) : List Byte :=
  leBytes 16 (packFields [(36, h.item.toNat), (1, b2n h.live), (1, b2n h.spill), (1, b2n h.outlierTail),
    (1, b2n h.tombstone), (24, h.version.toNat), (16, h.vecScale.toNat), (8, h.outliers), (8, h.tailOffset),
    (32, h.sqNorm.toNat)])

/-- A record or image with the VERSION of its header replaced. -/
def withVersion (b : List Byte) (v : BitVec 24) : List Byte :=
  headerBytes { headerOf b with version := v } ++ b.drop 16

/-! ### Code formats (R45, R46) -/

/-- CODE_LEN of a code format and dimension (R45). -/
def codeLen (fmt d : Nat) : Nat :=
  match fmt with
  | 0 => (d / 8 + 15) / 16 * 16
  | 1 => d / 2
  | 2 => d
  | 3 => (d / 2 + d / 32 + 31) / 32 * 32
  | _ => (d + d / 32 + 31) / 32 * 32

/-- Whether a code format carries E4 codes; else E8 (formats 1 to 4). -/
def codeIsE4 (fmt : Nat) : Bool := fmt == 1 || fmt == 3

/-- The integer code of element i of a packed area (R46). -/
def codeAt (e4 : Bool) (area : List Byte) (i : Nat) : Int :=
  if e4 then
    let b := (area.getD (i / 2) 0).toNat
    sInt 4 (if i % 2 = 0 then b % 16 else b / 16)
  else sInt 8 (area.getD i 0).toNat

/-- An outlier tail's entries (R47): channel and value. -/
def tailEntries (tail : List Byte) (count : Nat) : List (Nat × F16) :=
  (List.range count).map (fun j =>
    let w := leAt tail (4 * j) 4
    (bitsOf w 0 12, BitVec.ofNat 16 (bitsOf w 16 16)))

/-- Channels strictly rising and below the dimension (R47). -/
def channelsRise (dim : Nat) : List (Nat × F16) → Bool
  | [] => true
  | [(c, _)] => decide (c < dim)
  | (c, _) :: (c', v') :: r => decide (c < c') && channelsRise dim ((c', v') :: r)

/-- A malformed tail (R47): CHANNEL rule, reserved bits, or a byte after the last entry. -/
def tailBad (dim : Nat) (tail : List Byte) (count : Nat) : Bool :=
  !channelsRise dim (tailEntries tail count)
  || (List.range count).any (fun j => bitsOf (leAt tail (4 * j) 4) 12 4 != 0)
  || (tail.drop (4 * count)).any (· != 0)

/-- A malformed header (R44), given its outlier limit and tail offset. -/
def headerBad (h : Header) (limit tailOff : Nat) : Bool :=
  (h.live && h.tombstone) || decide (limit < h.outliers) || (h.outlierTail != decide (0 < h.outliers))
  || h.tailOffset != tailOff

/-- A malformed record of a format (R44, R47). -/
def recordBad (fmt dim tailCap : Nat) (b : List Byte) : Bool :=
  let h := headerOf b
  let cl := codeLen fmt dim
  headerBad h (4 * tailCap) (1 + cl / 16) || tailBad dim (slice b (16 + cl) (16 * tailCap)) h.outliers

/-! ### Images (R48, R56) -/

/-- Body length of a full vector (R48). -/
def bodyLen (fvFormat dim : Nat) : Nat :=
  match fvFormat with
  | 0 => 2 * dim
  | 1 => dim + dim / 32
  | _ => dim / 2 + dim / 32

/-- Where an image's body starts: byte 16, or byte 192 of a graph entry (R56). -/
def bodyStart (graph : Nat) : Nat := if graph = 0 then 16 else 192

/-- TAIL_OFFSET of an image (R48, R56). -/
def imageTailOffset (graph fvFormat dim : Nat) : Nat := (bodyStart graph + bodyLen fvFormat dim + 15) / 16

/-- The smallest size an image needs (R48, R56). -/
def imageNeeds (graph fvFormat dim : Nat) (outliers : Bool) : Nat :=
  if outliers then 16 * imageTailOffset graph fvFormat dim + 32 else bodyStart graph + bodyLen fvFormat dim

/-- FV_SIZE of a context: FV_UNITS × 32, or the graph entry size (R55). -/
def fvSize (c : Ctx) : Nat := if c.graph = 0 then 32 * c.fvUnits else 512 * 2 ^ c.graph

/-- A malformed image (R44, R48, R50), or a graph entry whose neighbour slots break R56. An image with SPILL = 1, a NBR_COUNT above 32
and a nonzero byte among bytes 18 to 31 of a graph entry are taken as malformed too: R48 and R56 state their values and do not say what
one that breaks them is (DESIGN CHOICE, logs 148 and 149). -/
def imageBad (c : Ctx) (b : List Byte) : Bool :=
  let h := headerOf b
  let tailAt := imageTailOffset c.graph c.fvFormat c.dim
  headerBad h (if c.outliers then 8 else 0) tailAt
  || h.spill
  || (c.outliers && tailBad c.dim (slice b (16 * tailAt) 32) h.outliers)
  || (c.graph != 0 &&
      (decide (32 < leAt b 16 2) || (slice b 18 14).any (· != 0)
        || (List.range 32).any (fun j => decide (68719476736 ≤ leAt b (32 + 5 * j) 5))))

/-- Whether an image is the one looked for (R50): well formed, with the item and the version required. -/
def imageRight (c : Ctx) (item : BitVec 36) (version : Option (BitVec 24)) (d : List Byte) : Bool :=
  let h := headerOf d
  !imageBad c d && h.item == item && (match version with | none => true | some v => h.version == v)

/-! ### Directory entries (R51) -/

structure DirEnt where
  recLoc : BitVec 28
  item : BitVec 36
  valid : Bool
  flash : Bool
  dirty : Bool
  staged : Bool
  spilled : Bool
  deleted : Bool
  fvLoc : Nat
deriving DecidableEq, Repr

def DirEnt.none_ : DirEnt := ⟨0, 0, false, false, false, false, false, false, 0⟩

def dirEntOf (n : Nat) : DirEnt :=
  { recLoc := BitVec.ofNat 28 (bitsOf n 100 28), item := BitVec.ofNat 36 (bitsOf n 64 36), valid := bitOf n 63,
    flash := bitOf n 62, dirty := bitOf n 61, staged := bitOf n 60, spilled := bitOf n 59, deleted := bitOf n 58,
    fvLoc := bitsOf n 0 40 }

def dirEntNat (e : DirEnt) : Nat :=
  packFields [(40, e.fvLoc), (18, 0), (1, b2n e.deleted), (1, b2n e.spilled), (1, b2n e.staged), (1, b2n e.dirty),
    (1, b2n e.flash), (1, b2n e.valid), (36, e.item.toNat), (28, e.recLoc.toNat)]

/-- REC_LOC of an item with no record (R51). -/
def noRec : BitVec 28 := BitVec.allOnes 28

/-- The byte address of entry j of directory group g. -/
def dirAddr (c : ShardCopy) (g j : Nat) : Nat := (c.dirBase + g) * 1024 + 16 * j

/-- The addresses at which an item's entry may stand: group g1, then group g2 (R52). -/
def dirPlaces (c : ShardCopy) (item : Nat) : List Nat :=
  let g1 := dirGroup1 c.dirLog2 item
  let g2 := dirGroup2 c.dirLog2 item
  (List.range 64).map (dirAddr c g1) ++ (if g1 = g2 then [] else (List.range 64).map (dirAddr c g2))

/-- Whether an address holds the valid entry of an item (R52). -/
def dirMatch (s : State) (item : BitVec 36) (a : Nat) : Bool :=
  let e := dirEntOf (memNat s a 16)
  e.valid && e.item == item

/-- The address of an item's directory entry (R52). -/
def dirFind (s : State) (c : ShardCopy) (item : BitVec 36) : Option Nat :=
  (dirPlaces c item.toNat).find? (dirMatch s item)

/-- An item's directory entry, or none (R52). -/
def dirLook (s : State) (c : ShardCopy) (item : BitVec 36) : Option DirEnt :=
  (dirFind s c item).map (fun a => dirEntOf (memNat s a 16))

/-- The free places of a group, ascending. -/
def dirFree (s : State) (c : ShardCopy) (g : Nat) : List Nat :=
  ((List.range 64).map (dirAddr c g)).filter (fun a => !(dirEntOf (memNat s a 16)).valid)

/-- Where an insert goes (R52): the lowest free entry of the group with more free entries, g1 on a tie. -/
def dirPlaceFor (s : State) (c : ShardCopy) (item : Nat) : Option Nat :=
  let f1 := dirFree s c (dirGroup1 c.dirLog2 item)
  let f2 := dirFree s c (dirGroup2 c.dirLog2 item)
  if f1.length < f2.length then f2.head? else f1.head?

def putDirEnt (s : State) (a : Nat) (e : DirEnt) : State := memWrite s a (leBytes 16 (dirEntNat e))

/-- The mapping word of an entry written: the one 8-byte atomic write of a flip (R51). -/
def putDirMap (s : State) (a : Nat) (e : DirEnt) : State := memWrite s a (leBytes 8 (dirEntNat e % 18446744073709551616))

/-- The two groups in which an item's entry is looked up (R52). -/
def dirGroups (c : ShardCopy) (item : Nat) : List (Nat × Nat) :=
  [(dirAddr c (dirGroup1 c.dirLog2 item) 0, 1024), (dirAddr c (dirGroup2 c.dirLog2 item) 0, 1024)]

/-! ### Spill tables (R54) -/

def spillAddr (c : ShardCopy) (g j : Nat) : Nat := (c.spillBase + g) * 1024 + 8 * j

def spillPlaces (c : ShardCopy) (item : Nat) : List Nat :=
  let g1 := dirGroup1 c.spillLog2 item
  let g2 := dirGroup2 c.spillLog2 item
  (List.range 128).map (spillAddr c g1) ++ (if g1 = g2 then [] else (List.range 128).map (spillAddr c g2))

/-- The two groups in which an item's spill-table entry is looked up (R54). -/
def spillGroups (c : ShardCopy) (item : Nat) : List (Nat × Nat) :=
  [(spillAddr c (dirGroup1 c.spillLog2 item) 0, 1024), (spillAddr c (dirGroup2 c.spillLog2 item) 0, 1024)]

/-- An all-ones entry is free (R54). -/
def spillIsFree (n : Nat) : Bool := n == 18446744073709551615

def spillFind (s : State) (c : ShardCopy) (item : BitVec 36) : Option Nat :=
  (spillPlaces c item.toNat).find? (fun a =>
    let n := memNat s a 8
    !spillIsFree n && bitsOf n 0 36 == item.toNat)

/-- The REC_LOC of an item's spill copy (R54). -/
def spillLook (s : State) (c : ShardCopy) (item : BitVec 36) : Option (BitVec 28) :=
  (spillFind s c item).map (fun a => BitVec.ofNat 28 (bitsOf (memNat s a 8) 36 28))

def spillPlaceFor (s : State) (c : ShardCopy) (item : Nat) : Option Nat :=
  let free (g : Nat) := ((List.range 128).map (spillAddr c g)).filter (fun a => spillIsFree (memNat s a 8))
  let f1 := free (dirGroup1 c.spillLog2 item)
  let f2 := free (dirGroup2 c.spillLog2 item)
  if f1.length < f2.length then f2.head? else f1.head?

def putSpill (s : State) (a : Nat) (item : BitVec 36) (loc : BitVec 28) : State :=
  memWrite s a (leBytes 8 (item.toNat + loc.toNat * 68719476736))
def freeSpill (s : State) (a : Nat) : State := memWrite s a (List.replicate 8 0xFF)

/-! ### Coarse-partition descriptors (R40) -/

structure Part where
  scaleAddr : Nat
  rowBase : Nat
  rowCap : Nat
  rowCount : Nat
  liveCount : Nat
  recSize : Nat
  tailCap : Nat
  fmt : Nat
  dim : Nat
  reserved : Nat
  shard : Nat
  num : Nat
deriving DecidableEq, Repr

def partOf (n : Nat) : Part :=
  { scaleAddr := bitsOf n 222 34, rowBase := bitsOf n 199 23, rowCap := bitsOf n 175 24, rowCount := bitsOf n 151 24,
    liveCount := bitsOf n 122 29, recSize := bitsOf n 117 5, tailCap := bitsOf n 115 2, fmt := bitsOf n 112 3,
    dim := bitsOf n 100 12, reserved := bitsOf n 40 60, shard := bitsOf n 20 20, num := bitsOf n 0 20 }

def partNat (p : Part) : Nat :=
  packFields [(20, p.num), (20, p.shard), (60, p.reserved), (12, p.dim), (3, p.fmt), (2, p.tailCap), (5, p.recSize),
    (29, p.liveCount), (24, p.rowCount), (24, p.rowCap), (23, p.rowBase), (34, p.scaleAddr)]

/-- The byte address of a partition descriptor. -/
def partAddr (c : ShardCopy) (p : Nat) : Nat := c.partBase * 1024 + 32 * p

def readPart (s : State) (c : ShardCopy) (p : Nat) : Part := partOf (memNat s (partAddr c p) 32)
def writePart (s : State) (c : ShardCopy) (p : Nat) (x : Part) : State :=
  memWrite s (partAddr c p) (leBytes 32 (partNat x))

/-- Record slots in a row (R42). -/
def slotsPerRow (recSize : Nat) : Nat := if recSize = 0 then 0 else 64 / recSize

/-- The byte address of slot j of row r, counted from REC_BASE. -/
def recAddr (c : ShardCopy) (recSize row slot : Nat) : Nat := (c.recBase + row) * 1024 + slot * recSize * 16

/-- The byte address that a REC_LOC names (R51). -/
def locAddr (c : ShardCopy) (recSize : Nat) (loc : BitVec 28) : Nat :=
  recAddr c recSize (loc.toNat / 32) (loc.toNat % 32)

/-- The REC_LOC of a row and slot. -/
def locOf (row slot : Nat) : BitVec 28 := BitVec.ofNat 28 (row * 32 + slot)

/-- A slot is empty when its header is all zero (R44). -/
def slotEmpty (s : State) (a : Nat) : Bool := memNat s a 16 == 0

/-- The partition of a shard copy whose extent covers a row (counted from REC_BASE). -/
def partOfRow (s : State) (c : ShardCopy) (row : Nat) : Option Nat :=
  (List.range c.partCount).find? (fun p =>
    c.loaded.contains p &&
    (let d := readPart s c p
     decide (d.rowBase ≤ row) && decide (row < d.rowBase + d.rowCap)))

/-- Where an append goes (R42): the row and slot, counted from REC_BASE, and the new ROW_COUNT. -/
def appendPlace (s : State) (c : ShardCopy) (d : Part) : Option (Nat × Nat × Nat) :=
  let slots := List.range (slotsPerRow d.recSize)
  let row := d.rowBase + d.rowCount - 1
  let here :=
    if d.rowCount = 0 then none
    else slots.find? (fun j => slotEmpty s (recAddr c d.recSize row j))
  match here with
  | some j => some (row, j, d.rowCount)
  | none => if d.rowCount < d.rowCap then some (d.rowBase + d.rowCount, 0, d.rowCount + 1) else none

/-! ### Shard-copy descriptors (R37) -/

/-- The descriptor that 32 bytes hold. -/
def shardCopyOf (n : Nat) : ShardCopy :=
  { dirBase := bitsOf n 227 29, dirLog2 := bitsOf n 222 5, spillBase := bitsOf n 193 29, spillLog2 := bitsOf n 188 5,
    recBase := bitsOf n 159 29, partBase := bitsOf n 130 29, centroidBase := bitsOf n 101 29, partCount := bitsOf n 81 20,
    role := bitsOf n 32 2, shard := BitVec.ofNat 20 (bitsOf n 12 20), ctx := BitVec.ofNat 12 (bitsOf n 0 12),
    loaded := [] }

/-- CL of R39: bytes of a centroid, rounded to 32. -/
def centroidLen (dim : Nat) : Nat := (2 * dim + 31) / 32 * 32

/-- The structures of a shard copy as byte ranges (start, length) (R38): directory, spill table (not of a placement
copy), partition table, centroid table with CL, and the extents and scale vectors of the partitions loaded. -/
def copyRanges (s : State) (c : ShardCopy) (cl : Nat) : List (Nat × Nat) :=
  (if c.role = 2 then [] else [(c.dirBase * 1024, 2 ^ c.dirLog2 * 1024), (c.spillBase * 1024, 2 ^ c.spillLog2 * 1024)])
  ++ [(c.partBase * 1024, c.partCount * 32), (c.centroidBase * 1024, c.partCount * cl)]
  ++ (if c.role = 2 then []
      else c.loaded.map (fun p => let d := readPart s c p; ((c.recBase + d.rowBase) * 1024, d.rowCap * 1024)))

/-- The shared scale vectors of a copy's loaded partitions (R38); R38 does not bear on those of a placement copy (R37). -/
def scaleRanges (s : State) (c : ShardCopy) : List (Nat × Nat) :=
  if c.role = 2 then []
  else (c.loaded.map (readPart s c)).filterMap (fun d =>
    if d.fmt = 1 ∨ d.fmt = 2 then some (d.scaleAddr * 32, (d.dim / 32 + 31) / 32 * 32) else none)

/-- Whether two byte ranges overlap. -/
def overlap (a b : Nat × Nat) : Bool := decide (a.1 < b.1 + b.2) && decide (b.1 < a.1 + a.2)

/-- Whether a range lies wholly within node memory. -/
def inMemory (r : Nat × Nat) : Bool := decide (r.1 + r.2 ≤ memBytes)

end Sys2Proof.Machine
end

