-- ==== Sys2Proof/Machine/Operands.lean ====
section
/-! DEFINITION. The operands of tile instructions: plan addresses and their legality (R167 to R169), tile-store ranges
(R164, R530), constant-table entries (R187), and the reads and writes of tile and pod stores. -/

namespace Sys2Proof.Machine

open Sys2Proof

/-! ### Plans and tiles -/

/-- The tile section of a tile in the active plan (R531). -/
def tileSec (s : State) (t : Nat) : Option TileSec :=
  match s.plan.active with
  | none => none
  | some p => p.tiles[t]?

/-- PROG_LIMIT of a tile (R164). -/
def progLimit (s : State) (t : Nat) : Nat :=
  match tileSec s t with
  | none => 0
  | some x => x.progLimit

/-- A constant-table entry (R187), as a number. -/
def constOf (s : State) (t i : Nat) : Nat :=
  match tileSec s t with
  | none => 0
  | some x => (x.consts.getD i 0).toNat

def tileStoreBytes : Nat := 1048576
def podStoreBytes : Nat := 12582912

/-- A tile-store range is legal when it lies wholly at or above PROG_LIMIT and within the store (R164, R530). -/
def tileRangeOk (s : State) (t off len : Nat) : Bool :=
  decide (progLimit s t ≤ off) && decide (off + len ≤ tileStoreBytes)

/-- A tile-store range that an instruction takes from registers (R530): legal where no byte of it lies outside, so an empty one is. -/
def spanOk (s : State) (t off len : Nat) : Bool := len == 0 || tileRangeOk s t off len

/-! ### Requests -/

def isSearch (r : Req) : Bool := r.op == 1

/-- The last tick of the window of a FENCE_NODE rehearsal while its node has not rejoined (R425). -/
def openWindow : Nat := 18446744073709551615

/-- Whether a span of ticks overlaps a rehearsal window that is, or was, announced (R425). -/
def inRehearsal (s : State) (a b : Nat) : Bool :=
  (s.mach.windows.map (fun w => (w.1, w.2.1)) ++ s.mach.pastWindows).any (fun w => decide (w.1 ≤ b) && decide (a ≤ w.2))

/-- Whether a request or a member's visit has taken a place of an opportunity of a pipeline (R264). -/
def placeTaken (s : State) (pipe opp : Nat) : Bool :=
  (admSlots s).any (fun k => match admOf s k with | some a => a.req.pipe == pipe && a.opp == opp | none => false)

/-! ### Stores -/

/-- The 64-bit words of a range that are among some (R166). -/
def badIn (l : List Nat) (off n : Nat) : List Nat := l.filter (fun w => decide (w < off + n) && decide (off < w + 8))

/-- The words with a lasting error that stay so under a write of `n` bytes: those it does not rewrite whole (R166). -/
def keptBad (l : List Nat) (off n : Nat) : List Nat := l.filter (fun w => !(decide (off ≤ w) && decide (w + 8 ≤ off + n)))

def tileRead (s : State) (t off n : Nat) : List Byte := readBytes (tileOf s t).store off n
def tileWrite (s : State) (t off : Nat) (d : List Byte) : State :=
  onTile s t (fun x => { x with store := writeBytes x.store off d, bad := keptBad x.bad off d.length })

/-- Bytes of the tile's store as they stood when its present bundle began: what the bundle's own reads see (R163). -/
def srcRead (s : State) (t off n : Nat) : List Byte := readBytes (tileOf s t).srcStore off n

/-- A write to a Pod's store takes effect. -/
def podApply (x : Pod) (w : PodWrite) : Pod :=
  { x with store := writeBytes x.store w.off w.data, bad := keptBad x.bad w.off w.data.length }

/-- The writes of a Pod that take effect before a cycle, in the order of their effect: by cycle, then by ascending tile (R165). -/
def podDue (x : Pod) (cyc : Nat) : List PodWrite :=
  sortBy (fun a b => decide (a.eff < b.eff) || (a.eff == b.eff && decide (a.tile < b.tile)))
    (x.writes.filter (fun w => decide (w.eff < cyc)))

/-- A Pod's store before any write that takes effect in a cycle (R165). -/
def podBefore (x : Pod) (cyc : Nat) : Pod :=
  { (podDue x cyc).foldl podApply x with writes := x.writes.filter (fun w => !decide (w.eff < cyc)) }

/-- What an access of `n` bytes that takes effect in cycle `eff` reads. -/
def podRead (s : State) (p eff off n : Nat) : List Byte := readBytes (podBefore (podOf s p) eff).store off n

/-- A write to a Pod's store by a tile that takes effect in cycle `eff`. -/
def podWrite (s : State) (p eff t off : Nat) (d : List Byte) : State :=
  let w : PodWrite := ⟨eff, t, off, d⟩
  onPod s p (fun x => { x with writes := x.writes ++ [w] })

/-- An access through a tile's port to its Pod takes effect 12 cycles after its issue (R165). -/
def podEff (s : State) (t : Nat) : Nat := (tileOf s t).cyc + 12

/-! ### Segments (R169) -/

structure Segment where
  base : Nat
  rows : Nat
  write : Bool
  valid : Bool
deriving DecidableEq, Repr

def segmentOf (n : Nat) : Segment := ⟨bitsOf n 35 29, bitsOf n 6 29, bitOf n 1, bitOf n 0⟩

/-- A segment descriptor that SEG_WRITE may load (R169). -/
def segmentOk (n : Nat) : Bool :=
  let g := segmentOf n
  bitsOf n 2 4 == 0 && decide (g.base + g.rows ≤ memRows)
  && (if g.valid then decide (1 ≤ g.rows) else g.rows == 0)

/-- The segment of a table. -/
def segAt (segs : List (BitVec 64)) (i : Nat) : Segment := segmentOf (segs.getD i 0).toNat

/-- The node memory address of a segment access, when it is legal (R168). -/
def segAddr (segs : List (BitVec 64)) (seg off len : Nat) (write : Bool) : Option Nat :=
  let g := segAt segs seg
  if g.valid ∧ off + len ≤ g.rows * 1024 ∧ (write = true → g.write = true) then some (g.base * 1024 + off) else none

/-! ### Plan addresses (R167, R168) -/

/-- Where a plan address leads. -/
inductive Place where
  | tile (off : Nat)
  | pod (off : Nat)
  | node (addr : Nat)
  | remote (node : Nat) (seg : Nat) (off : Nat)
  | host (result : Bool) (off : Nat)
  | illegal
deriving DecidableEq, Repr

/-- The place of an access of `len` bytes at a plan address, under the request the tile is bound to (R168, R197). -/
def placeOf (s : State) (t : Nat) (addr : Word64) (len : Nat) (write : Bool) : Place :=
  let n := addr.toNat
  let b := boundAdm s (tileOf s t)
  match bitsOf n 61 3 with
  | 0 => if bitsOf n 20 41 = 0 ∧ tileRangeOk s t n len then .tile n else .illegal
  | 1 =>
    let off := bitsOf n 0 24
    if bitsOf n 24 37 = 0 ∧ off + len ≤ podStoreBytes then .pod off else .illegal
  | 2 =>
    if bitsOf n 43 18 ≠ 0 then .illegal
    else
      match b with
      | none => .illegal
      | some a =>
        match segAddr a.segs (bitsOf n 39 4) (bitsOf n 0 39) len write with
        | none => .illegal
        | some x => .node x
  | 3 =>
    if bitsOf n 58 3 ≠ 0 ∨ write = true then .illegal
    else
      match b with
      | none => .illegal
      | some _ => .remote (bitsOf n 43 15) (bitsOf n 39 4) (bitsOf n 0 39)
  | 4 =>
    if bitsOf n 33 28 ≠ 0 then .illegal
    else
      match b with
      | none => .illegal
      | some a =>
        let result := bitOf n 32
        let off := bitsOf n 0 32
        if result ≠ write then .illegal
        else if off + len ≤ (if result then a.req.resLen else a.req.inLen) then .host result off else .illegal
  | _ => .illegal

/-- Whether an address is a TILE or POD address as LDS, STS, LDV and STV need (R201). -/
def isStorePlace : Place → Bool
  | .tile _ => true
  | .pod _ => true
  | _ => false

end Sys2Proof.Machine
end

