-- ==== Sys2Proof/Machine/FabricOps.lean ====
section
/-! DEFINITION. The fabric's shared operations: cell headers (R365, R366), meters (R385 to R387), routes and out queues
(R381 to R383), remote read requests (R388, R391). -/

namespace Sys2Proof.Machine

open Sys2Proof

/-! ### Cells (R365, R366) -/

/-- The header of a cell, but for its CRC. -/
structure CellHead where
  tag : BitVec 16
  tickLo : BitVec 16
  hops : Nat
  slot : Nat
  type : Nat
  void : Bool
  yellow : Bool
  retried : Bool
  src : NodeId
  dest : NodeId
  partition : BitVec 6
  plen : Nat
deriving DecidableEq, Repr

def cellHeadOf (c : List Byte) : CellHead :=
  let n := leAt c 0 16
  { tag := BitVec.ofNat 16 (bitsOf n 80 16), tickLo := BitVec.ofNat 16 (bitsOf n 64 16), hops := bitsOf n 57 7,
    slot := bitsOf n 48 9, type := bitsOf n 44 4, void := bitOf n 43, yellow := bitOf n 42, retried := bitOf n 41,
    src := BitVec.ofNat 15 (bitsOf n 25 15), dest := BitVec.ofNat 15 (bitsOf n 10 15),
    partition := BitVec.ofNat 6 (bitsOf n 4 6), plen := bitsOf n 0 4 }

/-- Bits 95:0 of a header (R365). -/
def cellHeadNat (h : CellHead) : Nat :=
  packFields [(4, h.plen), (6, h.partition.toNat), (15, h.dest.toNat), (15, h.src.toNat), (1, 0), (1, b2n h.retried),
    (1, b2n h.yellow), (1, b2n h.void), (4, h.type), (9, h.slot), (7, h.hops), (16, h.tickLo.toNat), (16, h.tag.toNat)]

/-- The CRC over header bytes 0 to 11 and the payload (R366). -/
def cellCrc (c : List Byte) : BitVec 32 := crc32c (slice c 0 12 ++ slice c 16 240)

/-- A cell of a header and a payload (zero bytes fill it), with its CRC. -/
def mkCell (h : CellHead) (payload : List Byte) : List Byte :=
  let c := leBytes 12 (cellHeadNat h) ++ [0, 0, 0, 0] ++ slice payload 0 240
  slice c 0 12 ++ leBytes 4 (cellCrc c).toNat ++ slice c 16 240

/-- A cell checks when its CRC field is right (R366). -/
def cellOk (c : List Byte) : Bool := leAt c 12 4 == (cellCrc c).toNat

def cellPayload (c : List Byte) : List Byte := slice c 16 240

/-- A cell with its header changed and its CRC made anew. -/
def reHead (f : CellHead → CellHead) (c : List Byte) : List Byte := mkCell (f (cellHeadOf c)) (cellPayload c)

/-- FRAME_IDX and LAST in the SLOT field of a frame's cell (R365). -/
def frameSlot (idx : Nat) (last : Bool) : Nat := idx * 16 + b2n last

/-- Types of cells (R367). -/
def tyStatic : Nat := 0
def tyIdle : Nat := 1
def tyRreq : Nat := 2
def tyRreply : Nat := 3
def tySteward : Nat := 4
def tyReplica : Nat := 5
def tyPool : Nat := 6

/-- The party of the out-port arbiter for a local frame of a type (R383). -/
def partyOfType (ty : Nat) : Nat :=
  match ty with
  | 2 => 6
  | 3 => 7
  | 4 => 8
  | 5 => 9
  | _ => 10

/-- The cells of a frame as the origin queues them: type, destination, and each cell's payload and PLEN. The tick it is
first sent and its CRC are written when it leaves (R384). -/
def mkFrame (s : State) (ty : Nat) (dest : NodeId) (yellow : Bool) (cells : List (Nat × List Byte)) : FrameCells :=
  (List.range cells.length).map (fun i =>
    let (pl, d) := cells.getD i (0, [])
    mkCell { tag := s.fab.frameNo, tickLo := 0, hops := 63, slot := frameSlot i (i + 1 == cells.length), type := ty,
             void := false, yellow := yellow, retried := false, src := s.aon.nodeId, dest := dest,
             partition := s.mach.partition, plen := pl } d)

def onPort (s : State) (p : Fin 6) (f : Port → Port) : State :=
  { s with fab := { s.fab with ports := s.fab.ports.set p (f s.fab.ports[p]) } }

/-! ### Routes (R382) -/

def nodeX (n : NodeId) : Nat := bitsOf n.toNat 0 6
def nodeY (n : NodeId) : Nat := bitsOf n.toNat 6 6
def nodeZ (n : NodeId) : Nat := bitsOf n.toNat 12 3
def nodeAt (x y z : Nat) : NodeId := BitVec.ofNat 15 (x + 64 * y + 4096 * z)

/-- The open positions met going up a ring of `n` positions from position `a` to `b`, `b` included. -/
def ringSteps (open_ : Nat → Bool) (n a b : Nat) : Nat :=
  let len := (b + n - a) % n
  ((List.range len).filter (fun k => open_ ((a + k + 1) % n))).length

/-- The direction on a ring: + when its way is not longer, counted in open positions (R382). -/
def ringPlus (open_ : Nat → Bool) (n a b : Nat) : Bool := decide (ringSteps open_ n a b ≤ ringSteps open_ n b a)

/-- Whether a port can carry frames: up, and its pair open. -/
def portOpen (s : State) (p : Fin 6) : Bool :=
  let x := s.fab.ports[p]
  (x.state == .up || x.state == .degraded) && s.fab.byp[p.val / 2]? == some .open_

/-- A cell put in a slot of a port: it leaves, and the port keeps a copy for retry (R392). A port that is down or fenced
sends nothing (R18). -/
def sendCell (s : State) (port : Fin 6) (tick slot : Nat) (c : List Byte) : State :=
  if portOpen s port then
    onPort { s with io := { s.io with cells := s.io.cells ++ [(port, tick, slot, c)] } } port
      (fun p => { p with sent := p.sent ++ [(tick, slot, c)] })
  else s

/-- The cell that a port sends in a slot of a tick: the one put there, else an IDLE cell (R264, R367, R370), which `io.cells` does not
list (log 136). -/
def slotCell (s : State) (port : Fin 6) (tick slot : Nat) : List Byte :=
  match s.io.cells.find? (fun x => x.1 == port && x.2.1 == tick && x.2.2.1 == slot) with
  | some x => x.2.2.2
  | none =>
    mkCell { tag := 0, tickLo := BitVec.ofNat 16 tick, hops := 0, slot := slot, type := tyIdle, void := false, yellow := false,
             retried := false, src := s.aon.nodeId, dest := 0, partition := s.mach.partition, plen := 0 } []

/-- The port of a pair and direction, or its opposite when that one is down or fenced. -/
def choosePort (s : State) (pair : Fin 3) (plus : Bool) : Fin 6 :=
  let a : Fin 6 := Fin.ofNat 6 (2 * pair.val + (if plus then 0 else 1))
  let b : Fin 6 := Fin.ofNat 6 (2 * pair.val + (if plus then 1 else 0))
  if portOpen s a then a else if portOpen s b then b else a

/-- The port toward a node: X first, then Y, then Z; none for the node itself (R382). -/
def routePort (s : State) (d : NodeId) : Option (Fin 6) :=
  let o := s.aon.nodeId
  let mem (n : NodeId) : Bool := s.mach.members.contains n
  if nodeX d ≠ nodeX o then
    some (choosePort s 0 (ringPlus (fun x => mem (nodeAt x (nodeY o) (nodeZ o))) Config.nx (nodeX o) (nodeX d)))
  else if nodeY d ≠ nodeY o then
    some (choosePort s 1 (ringPlus (fun y => mem (nodeAt (nodeX o) y (nodeZ o))) Config.ny (nodeY o) (nodeY d)))
  else if nodeZ d ≠ nodeZ o then
    some (choosePort s 2 (ringPlus (fun z => mem (nodeAt (nodeX o) (nodeY o) z)) Config.nz (nodeZ o) (nodeZ d)))
  else none

/-- Whether a node is a member of the present epoch (R382, R413). -/
def isMember (s : State) (n : NodeId) : Bool := s.mach.members.contains n

/-- A frame put on its way by its origin (R382): refused when its destination is no member of the epoch, else it waits
at the out port as its party's frame. A frame to the node itself goes to no port and is refused too. -/
def sendFrame (s : State) (ty : Nat) (dest : NodeId) (yellow : Bool) (cells : List (Nat × List Byte)) : State :=
  if isMember s dest then
    match routePort s dest with
    | none => s
    | some p =>
      let fr : OutFrame := ⟨p, partyOfType ty, mkFrame s ty dest yellow cells, false⟩
      { s with fab := { s.fab with out := s.fab.out ++ [fr], frameNo := s.fab.frameNo + 1 } }
  else s

/-- The payload of a message cut into cells: 240 bytes a cell, PLEN in 16-byte units. -/
def cellsOf (d : List Byte) : List (Nat × List Byte) :=
  (chunks (d.length + 1) 240 d).map (fun c => ((c.length + 15) / 16, c))

/-! ### Meters (R385 to R387) -/

inductive Colour where | green | yellow | red
deriving DecidableEq, Repr

/-- The buckets fill at a tick boundary (R386). -/
def fillMeter (m : Meter) : Meter :=
  match m.mode with
  | 1 =>
    let x := min m.cir (m.cbs - m.tc)
    { m with tc := m.tc + x, te := min m.ebs (m.te + m.cir - x) }
  | 2 => { m with te := min m.ebs (m.te + m.pir), tc := min m.cbs (m.tc + m.cir) }
  | _ => m

/-- A load refills every bucket (R385). -/
def refillMeter (m : Meter) : Meter := { m with tc := m.cbs, te := m.ebs }

/-- srTCM (R386). -/
def srTcm (m : Meter) (pre : Colour) (b : Nat) : Colour × Meter :=
  match pre with
  | .red => (.red, m)
  | .yellow => if b ≤ m.te then (.yellow, { m with te := m.te - b }) else (.red, m)
  | .green =>
    if b ≤ m.tc then (.green, { m with tc := m.tc - b })
    else if b ≤ m.te then (.yellow, { m with te := m.te - b })
    else (.red, m)

/-- trTCM (R386): `te` is the peak bucket. -/
def trTcm (m : Meter) (pre : Colour) (b : Nat) : Colour × Meter :=
  if pre = .red ∨ m.te < b then (.red, m)
  else if pre = .yellow ∨ m.tc < b then (.yellow, { m with te := m.te - b })
  else (.green, { m with te := m.te - b, tc := m.tc - b })

/-- The colour of `b` bytes under a meter. -/
def colour (m : Meter) (pre : Colour) (b : Nat) : Colour × Meter :=
  match m.mode with
  | 1 => srTcm m pre b
  | 2 => trTcm m pre b
  | _ => (.green, m)

/-- A frame of a context coloured (R386, R387): a red one is counted and is not sent. -/
def colourCtx (s : State) (c : Nat) (pre : Colour) (b : Nat) : Colour × State :=
  let (k, m) := colour (ctxOf s c).meter pre b
  let s1 := onCtx s c (fun x => { x with meter := m })
  (k, if k = .red then bump s1 .fabRed else s1)

/-! ### Remote read requests (R388, R391) -/

/-- One remote read of at most 256 bytes. -/
structure RRead where
  elem : Nat
  tile : Fin 192
  wait : Fin 64
  node : NodeId
  seg : Nat
  off : Nat
  dst : Nat
  len : Nat
deriving DecidableEq, Repr

/-- The reads of `n` bytes: pieces of 256 bytes (R202). -/
def rreadPieces (r : RRead) : List RRead :=
  (List.range ((r.len + 255) / 256)).map (fun k =>
    { r with off := r.off + 256 * k, dst := r.dst + 256 * k, len := min 256 (r.len - 256 * k) })

/-- A free tag: the first free one from the next (R391). -/
def freeTag (s : State) : Option (BitVec 16) :=
  ((List.range 65536).map (fun k => s.fab.nextTag + BitVec.ofNat 16 k)).find? (fun t =>
    !(s.fab.tags.any (fun x => x.tag == t)))

/-- Whether a read of a context may issue: a tag is free, and the context is below its RR_MAX (R391). -/
def tagFor (s : State) (c : Nat) : Option (BitVec 16) :=
  let m := (ctxOf s c).meter.rrMax
  let fly := (s.fab.tags.filter (fun x => x.ctx.toNat == c)).length
  if m ≠ 0 ∧ m ≤ fly then none else freeTag s

/-- The entry of a read in a request (R388). -/
def rreqEntry (tag : BitVec 16) (issue : Nat) (c : Nat) (r : RRead) : List Byte :=
  leBytes 16 (packFields [(32, 0), (9, r.len), (39, r.off), (4, r.seg), (12, c), (16, issue), (16, tag.toNat)])

/-- A read takes a tag, if it may issue; else it stays out of the request and its element ends LATE. -/
def takeTag (c : Nat) (acc : State × List Byte) (r : RRead) : State × List Byte :=
  let (s, d) := acc
  match tagFor s c with
  | none => acc
  | some t =>
    let e : RTag := ⟨t, BitVec.ofNat 12 c, s.clk.tick, r.tile, r.wait, r.elem, r.dst, r.len⟩
    ({ s with fab := { s.fab with tags := s.fab.tags ++ [e], nextTag := t + 1 } },
     d ++ rreqEntry t (s.clk.tick % 65536) c r)

/-- One request frame of up to 15 reads for one target and one context (R388), coloured by the context's meter (R387): a
red request is not sent, and its reads take no tag. -/
def sendRreq (s : State) (c : Nat) (reads : List RRead) : State :=
  let (s1, d) := reads.foldl (takeTag c) (s, [])
  match reads.head? with
  | none => s
  | some r =>
    if d = [] then s
    else
      let (k, s2) := colourCtx s1 c .green 256
      if k = .red then (colourCtx s c .green 256).2
      else sendFrame s2 tyRreq r.node (k == .yellow) [(d.length / 16, d)]

/-- The reads of one instruction sent (R388): up to 15 in a cell, in order. -/
def sendReads (s : State) (c : Nat) (reads : List RRead) : State :=
  (chunks (reads.length + 1) 15 reads).foldl (fun s g => sendRreq s c g) s

end Sys2Proof.Machine
end

