-- ==== Sys2Proof/Machine/Flags.lean ====
section
/-! DEFINITION. Predicates and flags: status predicates and lane masks (R182), guards (R183), comparison conditions (R192,
R213), candidate flags (R58) and element statuses (R189). -/

namespace Sys2Proof.Machine

open Sys2Proof

/-- A status predicate (R182): all ones on success, zero on failure. -/
def statusPred (ok : Bool) : Word64 := if ok then BitVec.allOnes 64 else 0

/-- P0 always reads all ones, and nothing writes it (R182). -/
def writePred (p : Vector Word64 16) (i : Fin 16) (v : Word64) : Vector Word64 16 :=
  if i = 0 then p else p.set i v

/-- Bit 0 of the guard predicate XOR GN (R183). -/
def guardHolds (p : Vector Word64 16) (g : Guard) : Bool := (p[g.gp]).getLsbD 0 != g.gn

/-- The mask bit of element e of an n-element register (R182). -/
def maskBit (m : Word64) (e n : Nat) : Bool := m.getLsbD (64 * e / n)

/-- The conditions of CMP and CMPI (R193). -/
def cmpHolds (c : CmpCond) (a b : Word64) : Bool :=
  match c with
  | .eq => a == b
  | .ne => a != b
  | .lts => BitVec.slt a b
  | .les => BitVec.sle a b
  | .ltu => BitVec.ult a b
  | .leu => BitVec.ule a b

/-- The conditions of VCMP (R213, R214): false for a NaN, but NE true. -/
def vcmpHolds (c : VCond) (a b : F32) : Bool :=
  match c with
  | .eq => feq a b
  | .ne => !feq a b
  | .lt => flt a b
  | .le => fle a b
  | .gt => flt b a
  | .ge => fle b a

/-- The code of an element status (R189). -/
def statusCode : ElemStatus → Nat
  | .arrived => 0
  | .late => 1
  | .unreadable => 2
  | .absent => 3
  | .refused => 4

/-- FLAGS bits of a candidate entry (R58). -/
def flExact : Nat := 1
def flFromCode : Nat := 2
def flSpill : Nat := 4
def flPartner : Nat := 8
def flGraph : Nat := 16
def flInf : Nat := 32
def flEmpty : Nat := 64

/-- A candidate entry (R58). -/
structure Cand where
  shardLo : Nat
  flags : Nat
  version : BitVec 24
  handle : BitVec 48
  score : F32
deriving DecidableEq, Repr

def candOf (n : Nat) : Cand :=
  { shardLo := bitsOf n 112 16, flags := bitsOf n 104 8, version := BitVec.ofNat 24 (bitsOf n 80 24),
    handle := BitVec.ofNat 48 (bitsOf n 32 48), score := BitVec.ofNat 32 (bitsOf n 0 32) }

def candNat (c : Cand) : Nat :=
  packFields [(32, c.score.toNat), (48, c.handle.toNat), (24, c.version.toNat), (8, c.flags), (16, c.shardLo)]

def candBytes (c : Cand) : List Byte := leBytes 16 (candNat c)

/-- An empty slot (R59). -/
def emptyCand : Cand := ⟨0, flEmpty, 0, BitVec.allOnes 48, f32NegInf⟩

def candIsEmpty (c : Cand) : Bool := bitOf c.flags 6

/-- The item handle of a context and item (R29). -/
def handleOf (ctx : CtxId) (item : BitVec 36) : BitVec 48 := ctx ++ item

end Sys2Proof.Machine
end

