-- ==== Sys2Proof/Machine/SlotWords.lean ====
section
/-! DEFINITION. Slot words (R178 to R180, R192, R200, R213, R215, R217, R218): what the decoder of the plan verifier reads from a
word, and the word of an instruction. -/

namespace Sys2Proof.Machine

open Sys2Proof

/-- The fields of a slot word in format RR (R179, R180). Format RI's IMM47 is `immOf`. -/
structure SlotWord where
  op : Nat
  gp : Nat
  gn : Bool
  d : Nat
  a : Nat
  b : Nat
  c : Nat
  pd : Nat
  x : Nat
deriving DecidableEq, Repr

/-- The fields of a 64-bit word (R179, R180). -/
def slotWordOf (w : Nat) : SlotWord :=
  ⟨bitsOf w 58 6, bitsOf w 54 4, bitOf w 53, bitsOf w 47 6, bitsOf w 41 6, bitsOf w 35 6, bitsOf w 29 6, bitsOf w 25 4,
   bitsOf w 0 25⟩

/-- The word of the fields (R179, R180). -/
def slotWordNat (r : SlotWord) : Nat :=
  r.op * 2 ^ 58 + r.gp * 2 ^ 54 + b2n r.gn * 2 ^ 53 + r.d * 2 ^ 47 + r.a * 2 ^ 41 + r.b * 2 ^ 35 + r.c * 2 ^ 29 +
    r.pd * 2 ^ 25 + r.x

/-- IMM47 of format RI. -/
def immOf (r : SlotWord) : Nat := r.a * 2 ^ 41 + r.b * 2 ^ 35 + r.c * 2 ^ 29 + r.pd * 2 ^ 25 + r.x

/-- The fields of format RI. -/
def immWord (op d imm : Nat) : SlotWord :=
  ⟨op, 0, false, d, bitsOf imm 41 6, bitsOf imm 35 6, bitsOf imm 29 6, bitsOf imm 25 4, bitsOf imm 0 25⟩

/-- An index within its file (R180). -/
def finOf (k n : Nat) : Option (Fin k) := if h : n < k then some ⟨n, h⟩ else none

/-- Every field an instruction does not use is zero (R180). -/
def noneSet (l : List Nat) : Bool := l.all (· == 0)

/-! ### Codes of sub-fields -/

def shiftKindOf (n : Nat) : Option ShiftKind :=
  match n with | 0 => some .shl | 1 => some .shr | 2 => some .sar | _ => none

def shiftKindNat : ShiftKind → Nat | .shl => 0 | .shr => 1 | .sar => 2

def condOf (n : Nat) : Option CmpCond :=
  match n with | 0 => some .eq | 1 => some .ne | 2 => some .lts | 3 => some .les | 4 => some .ltu | 5 => some .leu | _ => none

def condNat : CmpCond → Nat | .eq => 0 | .ne => 1 | .lts => 2 | .les => 3 | .ltu => 4 | .leu => 5

def predOpOf (n : Nat) : Option PredOp :=
  match n with | 0 => some .and | 1 => some .or | 2 => some .xor | 3 => some .andNot | _ => none

def predOpNat : PredOp → Nat | .and => 0 | .or => 1 | .xor => 2 | .andNot => 3

def specialOf (n : Nat) : Option Special :=
  match n with
  | 0 => some .tickNow | 1 => some .phaseTick | 2 => some .cycle | 3 => some .tile | 4 => some .nodeId
  | 5 => some .boundReq | 6 => some .boundCtx | 7 => some .snapshot | 8 => some .cyclesPerTick | _ => none

def specialNat : Special → Nat
  | .tickNow => 0 | .phaseTick => 1 | .cycle => 2 | .tile => 3 | .nodeId => 4
  | .boundReq => 5 | .boundCtx => 6 | .snapshot => 7 | .cyclesPerTick => 8

def elemStatusOf (n : Nat) : Option ElemStatus :=
  match n with
  | 0 => some .arrived | 1 => some .late | 2 => some .unreadable | 3 => some .absent | 4 => some .refused | _ => none

def elemStatusNat : ElemStatus → Nat | .arrived => 0 | .late => 1 | .unreadable => 2 | .absent => 3 | .refused => 4

def laneTyOf (n : Nat) : Option LaneTy := match n with | 0 => some .f32 | 1 => some .i32 | _ => none

def laneTyNat : LaneTy → Nat | .f32 => 0 | .i32 => 1

def vcondOf (n : Nat) : Option VCond :=
  match n with | 0 => some .eq | 1 => some .ne | 2 => some .lt | 3 => some .le | 4 => some .gt | 5 => some .ge | _ => none

def vcondNat : VCond → Nat | .eq => 0 | .ne => 1 | .lt => 2 | .le => 3 | .gt => 4 | .ge => 5

/-- Code and group H of VCVT (R215); H of a conversion without narrow elements is 0. -/
def convOf (code h : Nat) : Option Conv :=
  match code with
  | 0 => (finOf 2 h).map .f16ToF32
  | 1 => (finOf 2 h).map .f32ToF16
  | 2 => (finOf 4 h).map .e8ToF32
  | 3 => (finOf 8 h).map .e4ToF32
  | 4 => (finOf 4 h).map .i32ToE8
  | 5 => (finOf 8 h).map .i32ToE4
  | 6 => if h = 0 then some .f32ToI32 else none
  | 7 => if h = 0 then some .i32ToF32 else none
  | 8 => (finOf 4 h).map .s8ToF32
  | 9 => (finOf 32 h).map .b1ToF32
  | 10 => (finOf 2 h).map .f32ToF16Sat
  | _ => none

def convNat : Conv → Nat × Nat
  | .f16ToF32 h => (0, h.val) | .f32ToF16 h => (1, h.val) | .e8ToF32 h => (2, h.val) | .e4ToF32 h => (3, h.val)
  | .i32ToE8 h => (4, h.val) | .i32ToE4 h => (5, h.val) | .f32ToI32 => (6, 0) | .i32ToF32 => (7, 0)
  | .s8ToF32 h => (8, h.val) | .b1ToF32 h => (9, h.val) | .f32ToF16Sat h => (10, h.val)

def matFmtOf (n : Nat) : Option MatFmt := match n with | 0 => some .e4 | 1 => some .e8 | 2 => some .f16 | _ => none

def matFmtNat : MatFmt → Nat | .e4 => 0 | .e8 => 1 | .f16 => 2

/-! ### Shapes of operands -/

/-- D, A, B in S, and nothing else. -/
def dSss (r : SlotWord) (mk : Fin 32 → Fin 32 → Fin 32 → Instr) : Option Instr :=
  if noneSet [r.c, r.pd, r.x] then do return mk (← finOf 32 r.d) (← finOf 32 r.a) (← finOf 32 r.b) else none

/-- D, A, B in V with the mask C, and X as given. -/
def dVvv (r : SlotWord) (x : Nat) (mk : Fin 64 → Fin 64 → Fin 64 → Fin 16 → Instr) : Option Instr :=
  if noneSet [r.pd] && r.x == x then do
    return mk (← finOf 64 r.d) (← finOf 64 r.a) (← finOf 64 r.b) (← finOf 16 r.c)
  else none

/-- D, A, B in V with the mask C and a lane type. -/
def dVvvT (r : SlotWord) (mk : Fin 64 → Fin 64 → Fin 64 → Fin 16 → LaneTy → Instr) : Option Instr := do
  let ty ← laneTyOf r.x
  if noneSet [r.pd] then return mk (← finOf 64 r.d) (← finOf 64 r.a) (← finOf 64 r.b) (← finOf 16 r.c) ty else none

/-- D, A in V with the mask C, and X as given. -/
def dVv (r : SlotWord) (x : Nat) (mk : Fin 64 → Fin 64 → Fin 16 → Instr) : Option Instr :=
  if noneSet [r.b, r.pd] && r.x == x then do return mk (← finOf 64 r.d) (← finOf 64 r.a) (← finOf 16 r.c) else none

/-- D, A, B, C in S and a constant index in X bits 9:0. -/
def dTurnip (r : SlotWord) (pd : Bool) (mk : Fin 32 → Fin 32 → Fin 32 → Fin 32 → Fin 16 → Fin 1024 → Instr) :
    Option Instr :=
  if pd || r.pd == 0 then do
    return mk (← finOf 32 r.d) (← finOf 32 r.a) (← finOf 32 r.b) (← finOf 32 r.c) (← finOf 16 r.pd) (← finOf 1024 r.x)
  else none

/-- A, B, C in S, a constant index in X bits 15:6 and a wait object in X bits 5:0. -/
def dAsync (r : SlotWord) (mk : Fin 32 → Fin 32 → Fin 32 → Fin 1024 → Fin 64 → Instr) : Option Instr :=
  if noneSet [r.d, r.pd, bitsOf r.x 16 9] then do
    return mk (← finOf 32 r.a) (← finOf 32 r.b) (← finOf 32 r.c) (← finOf 1024 (bitsOf r.x 6 10)) (← finOf 64 (bitsOf r.x 0 6))
  else none

/-- A, B in S, a length in X bits 22:6 and a wait object in X bits 5:0. -/
def dCopy (r : SlotWord) (mk : Fin 32 → Fin 32 → BitVec 17 → Fin 64 → Instr) : Option Instr :=
  if noneSet [r.d, r.c, r.pd, bitsOf r.x 23 2] then do
    return mk (← finOf 32 r.a) (← finOf 32 r.b) (BitVec.ofNat 17 (bitsOf r.x 6 17)) (← finOf 64 (bitsOf r.x 0 6))
  else none

/-! ### The decoder -/

/-- Slot 0 (R192). -/
def decodeSlot0 (t : Fin 192) (g : Guard) (r : SlotWord) : Option Instr :=
  match r.op with
  | 0x01 => do return .seti t g (← finOf 32 r.d) (BitVec.ofNat 47 (immOf r))
  | 0x02 => if immOf r < 2 ^ 32 then do return .seth t g (← finOf 32 r.d) (BitVec.ofNat 32 (immOf r)) else none
  | 0x03 => dSss r (.add t g)
  | 0x04 => if noneSet [r.b, r.c, r.pd] then do return .addi t g (← finOf 32 r.d) (← finOf 32 r.a) (BitVec.ofNat 25 r.x) else none
  | 0x05 => dSss r (.sub t g)
  | 0x06 => dSss r (.mul t g)
  | 0x07 => dSss r (.and t g)
  | 0x08 => dSss r (.or t g)
  | 0x09 => dSss r (.xor t g)
  | 0x0A => dSss r (.shl t g)
  | 0x0B => dSss r (.shr t g)
  | 0x0C => dSss r (.sar t g)
  | 0x0D =>
    if noneSet [r.b, r.c, r.pd] then do
      return .shi t g (← finOf 32 r.d) (← finOf 32 r.a) (← shiftKindOf (r.x / 64)) (BitVec.ofNat 6 (bitsOf r.x 0 6))
    else none
  | 0x0E => dSss r (.mins t g)
  | 0x0F => dSss r (.maxs t g)
  | 0x10 => dSss r (.minu t g)
  | 0x11 => dSss r (.maxu t g)
  | 0x12 =>
    if noneSet [r.d, r.c] then do return .cmp t g (← finOf 16 r.pd) (← finOf 32 r.a) (← finOf 32 r.b) (← condOf r.x) else none
  | 0x13 =>
    if noneSet [r.d, r.b, r.c] then do
      return .cmpi t g (← finOf 16 r.pd) (← finOf 32 r.a) (← condOf (bitsOf r.x 22 3)) (BitVec.ofNat 22 (bitsOf r.x 0 22))
    else none
  | 0x14 =>
    if noneSet [r.pd, r.x] then do
      return .sel t g (← finOf 32 r.d) (← finOf 32 r.a) (← finOf 32 r.b) (← finOf 16 r.c)
    else none
  | 0x15 =>
    if noneSet [r.d, r.c] then do return .plog t g (← finOf 16 r.pd) (← finOf 16 r.a) (← finOf 16 r.b) (← predOpOf r.x) else none
  | 0x16 => if noneSet [r.d, r.b, r.c, r.x] then do return .pfroms t g (← finOf 16 r.pd) (← finOf 32 r.a) else none
  | 0x17 => if noneSet [r.b, r.c, r.pd, r.x] then do return .stop t g (← finOf 32 r.d) (← finOf 16 r.a) else none
  | 0x18 => if noneSet [r.a, r.b, r.c, r.pd] then do return .rdsp t g (← finOf 32 r.d) (← specialOf r.x) else none
  | 0x19 =>
    if noneSet [r.b, r.c] && bitsOf r.x 12 11 != 0 && bitsOf r.x 0 12 != 0 then do
      return .loop t g (← finOf 32 r.d) (← finOf 32 r.a) (← finOf 16 r.pd) (← finOf 4 (bitsOf r.x 23 2))
        (BitVec.ofNat 11 (bitsOf r.x 12 11)) (BitVec.ofNat 12 (bitsOf r.x 0 12))
    else none
  | 0x1A => if noneSet [r.d] then some (.br t g (BitVec.ofNat 47 (immOf r))) else none
  | 0x1B => if noneSet [r.d, r.b, r.c, r.x] then do return .bind t g (← finOf 16 r.pd) (← finOf 32 r.a) else none
  | 0x1C =>
    if noneSet [r.d] then do
      return .arm t g (← finOf 64 (bitsOf (immOf r) 41 6)) (BitVec.ofNat 20 (bitsOf (immOf r) 21 20))
        (BitVec.ofNat 21 (bitsOf (immOf r) 0 21))
    else none
  | 0x1D =>
    if noneSet [r.a, r.b, r.c] then do return .await t g (← finOf 32 r.d) (← finOf 16 r.pd) (← finOf 64 r.x) else none
  | 0x1E =>
    if noneSet [r.a, r.b, r.c, r.pd] then do
      return .wstat t g (← finOf 32 r.d) (← finOf 64 (bitsOf r.x 0 6)) (← elemStatusOf (r.x / 64))
    else none
  | 0x1F =>
    if noneSet [r.d, r.a, r.b, r.c, r.pd, bitsOf r.x 9 16] then some (.wake t g (BitVec.ofNat 8 r.x) (bitOf r.x 8)) else none
  | 0x20 =>
    if noneSet [r.d, r.a, r.b, r.c, r.pd, bitsOf r.x 9 16] then some (.gate t g (BitVec.ofNat 8 r.x) (bitOf r.x 8)) else none
  | 0x21 =>
    if noneSet [r.d, r.x] then do
      return .cplt t g (← finOf 16 r.pd) (← finOf 32 r.a) (← finOf 32 r.b) (← finOf 32 r.c)
    else none
  | 0x22 => if noneSet [r.d, r.a, r.b, r.c, r.pd, r.x] then some (.pend t g) else none
  | _ => none

/-- Slot 1 (R200). -/
def decodeSlot1 (t : Fin 192) (g : Guard) (r : SlotWord) : Option Instr :=
  match r.op with
  | 0x01 =>
    if noneSet [r.b, r.c] then do
      return .lds t g (← finOf 32 r.d) (← finOf 32 r.a) (← finOf 16 r.pd) (BitVec.ofNat 25 r.x)
    else none
  | 0x02 =>
    if noneSet [r.d, r.c] then do
      return .sts t g (← finOf 32 r.a) (← finOf 32 r.b) (← finOf 16 r.pd) (BitVec.ofNat 25 r.x)
    else none
  | 0x03 =>
    if noneSet [r.b, r.c] then do
      return .ldv t g (← finOf 64 r.d) (← finOf 32 r.a) (← finOf 16 r.pd) (BitVec.ofNat 25 r.x)
    else none
  | 0x04 =>
    if noneSet [r.d, r.c] then do
      return .stv t g (← finOf 32 r.a) (← finOf 64 r.b) (← finOf 16 r.pd) (BitVec.ofNat 25 r.x)
    else none
  | 0x05 => dCopy r (.xload t g)
  | 0x06 => dCopy r (.xstore t g)
  | 0x07 => dAsync r (.gather t g)
  | 0x08 => dAsync r (fun a b c i w => .vfetch t g a b c i w [])
  | 0x09 =>
    if noneSet [r.b, r.c, r.x / 2] then do
      return .slst t g (← finOf 32 r.d) (← finOf 32 r.a) (← finOf 16 r.pd) (bitOf r.x 0)
    else none
  | 0x0A =>
    if noneSet [r.d, r.b, r.c, r.pd, bitsOf r.x 8 17] then do
      let a ← finOf 32 r.a
      let w ← finOf 64 (bitsOf r.x 0 6)
      match bitsOf r.x 6 2 with
      | 0 => return .dirwLook t g a w
      | 1 => return .dirwInsert t g a w
      | 2 => return .dirwMap t g a w
      | _ => return .dirwFree t g a w
    else none
  | 0x0B => dAsync r (.bissue t g)
  | 0x0C => dAsync r (.txq t g)
  | _ => none

/-- Slot 2 (R213, R215, R216). -/
def decodeSlot2 (t : Fin 192) (g : Guard) (r : SlotWord) : Option Instr :=
  match r.op with
  | 0x01 => dVvvT r (.vadd t g)
  | 0x02 => dVvvT r (.vsub t g)
  | 0x03 => dVvvT r (.vmul t g)
  | 0x04 => dVvv r 0 (.vfma t g)
  | 0x05 => dVvvT r (.vmax t g)
  | 0x06 => dVvvT r (.vmin t g)
  | 0x07 => do
    let ty ← laneTyOf r.x
    dVv r r.x (fun d a m => .vabs t g d a m ty)
  | 0x08 =>
    if noneSet [r.d, bitsOf r.x 0 3] then do
      return .vcmp t g (← finOf 16 r.pd) (← finOf 64 r.a) (← finOf 64 r.b) (← finOf 16 r.c) (← vcondOf (r.x / 8))
    else none
  | 0x09 => dVvv r 0 (.vsel t g)
  | 0x0A => dVvv r 0 (.vdiv t g)
  | 0x0B => dVv r 0 (.vsqrt t g)
  | 0x0C => dVv r 0 (.vrcp t g)
  | 0x0D => dVv r 0 (.vrsqrt t g)
  | 0x0E => dVv r 0 (.vexp2 t g)
  | 0x0F => do
    let k ← convOf (bitsOf r.x 0 6) (r.x / 64)
    dVv r r.x (fun d a m => .vcvt t g d a m k)
  | 0x10 => if r.x = 0 ∨ r.x = 8 then dVvv r r.x (fun d a b m => .vq t g d a b m (r.x == 8)) else none
  | 0x11 => dVv r 0 (.vf16up t g)
  | 0x12 => dVv r 0 (.vs8up t g)
  | 0x13 =>
    if noneSet [bitsOf r.x 0 3] && decide (1 ≤ r.x / 8) && decide (r.x / 8 ≤ 64) then
      dVv r r.x (fun d a m => .vtree t g d a m (BitVec.ofNat 7 (r.x / 8)))
    else none
  | 0x14 =>
    if noneSet [bitsOf r.x 0 3] && decide (1 ≤ r.x / 8) && decide (r.x / 8 ≤ 64) then
      dVv r r.x (fun d a m => .vhmax t g d a m (BitVec.ofNat 7 (r.x / 8)))
    else none
  | 0x15 => dVvv r 0 (.vperm t g)
  | 0x16 => if noneSet [r.b, r.pd, r.x] then do return .vbcast t g (← finOf 64 r.d) (← finOf 32 r.a) (← finOf 16 r.c) else none
  | 0x17 =>
    if noneSet [r.b, r.c, r.pd, bitsOf r.x 0 3] then do return .vext t g (← finOf 32 r.d) (← finOf 64 r.a) (← finOf 64 (r.x / 8))
    else none
  | 0x18 => dVvv r 0 (.vand t g)
  | 0x19 => dVvv r 0 (.vor t g)
  | 0x1A => dVvv r 0 (.vxor t g)
  | 0x1B => dVvv r 0 (.vpop t g)
  | 0x1C =>
    if noneSet [r.d, r.c, r.pd] && (r.x == 0 || r.x == 8) then do
      return .vamx t g (← finOf 64 r.a) (← finOf 32 r.b) (r.x == 8)
    else none
  | 0x1D => if noneSet [r.b, r.pd, r.x] then do return .vamr t g (← finOf 64 r.d) (← finOf 32 r.a) (← finOf 16 r.c) else none
  | 0x1E => if noneSet [r.d, r.a, r.b, r.c, r.pd, r.x] then some (.vamc t g) else none
  | _ => none

/-- The rows a stationary bank may be loaded with (R218). -/
def rowsOk (f : MatFmt) (n : Nat) : Bool := decide (1 ≤ n) && decide (n ≤ if f = .f16 then 64 else 128)

/-- Slot 3 (R217, R218, R221, R227 to R229). -/
def decodeSlot3 (t : Fin 192) (g : Guard) (r : SlotWord) : Option Instr :=
  match r.op with
  | 0x01 => do
    let f ← matFmtOf (bitsOf r.x 1 2)
    if noneSet [r.d, r.c, r.pd] && rowsOk f (bitsOf r.x 3 8) then
      return .mldw t g (← finOf 32 r.a) (← finOf 32 r.b) (← finOf 2 (bitsOf r.x 0 1)) f (BitVec.ofNat 8 (bitsOf r.x 3 8))
        (BitVec.ofNat 14 (bitsOf r.x 11 14)) []
    else none
  | 0x02 =>
    if noneSet [r.b, r.c, r.pd, r.x / 4] then do
      return .mmac t g (← finOf 8 r.d) (← finOf 64 r.a) (← finOf 2 (bitsOf r.x 0 1)) (bitOf r.x 1)
    else none
  | 0x03 =>
    if noneSet [r.c, r.pd, r.x / 2] then do
      return .mfin t g (← finOf 8 r.d) (← finOf 64 r.a) (← finOf 32 r.b) (bitOf r.x 0)
    else none
  | 0x04 => if noneSet [r.a, r.b, r.c, r.pd, r.x] then do return .mclr t g (← finOf 8 r.d) else none
  | 0x05 =>
    if noneSet [r.b, r.c, r.x, r.d % 2, r.pd % 2] && r.pd != 0 then do
      return .mmov t g (← finOf 64 r.d) (← finOf 8 r.a) (← finOf 16 r.pd)
    else none
  | 0x06 => dTurnip r true (fun d a b c pd i => .tsel t g d a b c pd i)
  | 0x07 => dTurnip r true (fun d a b c pd i => .tmrg t g d a b c pd i)
  | 0x08 => dTurnip r false (fun d a b c _ i => .tthr t g d a b c i)
  | 0x09 =>
    if noneSet [r.d, r.b, r.c, r.pd, r.x / 4096] then do return .csend t g (← finOf 32 r.a) (BitVec.ofNat 12 r.x) else none
  | _ => none

/-- What the word of a slot spells for a tile (R178 to R180): none where verification rejects it. The rest of the
head `h` is of the run, not of the word; a NOP is a word of zeros. -/
def decodeSlot (slot : Fin 4) (t : Fin 192) (h : Guard) (w : Nat) : Option Instr :=
  let r := slotWordOf w
  match finOf 16 r.gp with
  | none => none
  | some gp =>
    let g : Guard := { h with gp := gp, gn := r.gn }
    if r.op = 0 then (if w = 0 then some (.nop t g) else none)
    else
      match slot with
      | 0 => decodeSlot0 t g r
      | 1 => decodeSlot1 t g r
      | 2 => decodeSlot2 t g r
      | _ => decodeSlot3 t g r

/-! ### The encoder -/

def wSss (op : Nat) (d a b : Fin 32) : SlotWord := ⟨op, 0, false, d.val, a.val, b.val, 0, 0, 0⟩
def wVvv (op : Nat) (d a b : Fin 64) (m : Fin 16) (x : Nat) : SlotWord := ⟨op, 0, false, d.val, a.val, b.val, m.val, 0, x⟩
def wVv (op : Nat) (d a : Fin 64) (m : Fin 16) (x : Nat) : SlotWord := ⟨op, 0, false, d.val, a.val, 0, m.val, 0, x⟩
def wAsync (op : Nat) (a b c : Fin 32) (i : Fin 1024) (w : Fin 64) : SlotWord :=
  ⟨op, 0, false, 0, a.val, b.val, c.val, 0, i.val * 64 + w.val⟩
def wCopy (op : Nat) (a b : Fin 32) (n : BitVec 17) (w : Fin 64) : SlotWord :=
  ⟨op, 0, false, 0, a.val, b.val, 0, 0, n.toNat * 64 + w.val⟩
def wTurnip (op : Nat) (d a b c : Fin 32) (pd : Nat) (i : Fin 1024) : SlotWord :=
  ⟨op, 0, false, d.val, a.val, b.val, c.val, pd, i.val⟩
def wX (op x : Nat) : SlotWord := ⟨op, 0, false, 0, 0, 0, 0, 0, x⟩

/-- A wake or gate mask with its bit 8. -/
def wPods (op : Nat) (m : BitVec 8) (b : Bool) : SlotWord := wX op (m.toNat + 256 * b2n b)

/-- Slot, guard and fields of a tile instruction's word, less its guard fields; none for a command that is no tile
instruction. -/
def slotFields (i : Instr) : Option (Fin 4 × Guard × SlotWord) :=
  match i with
  | .nop _ g => some (0, g, wX 0 0)
  | .seti _ g d imm => some (0, g, immWord 0x01 d.val imm.toNat)
  | .seth _ g d imm => some (0, g, immWord 0x02 d.val imm.toNat)
  | .add _ g d a b => some (0, g, wSss 0x03 d a b)
  | .addi _ g d a x => some (0, g, ⟨0x04, 0, false, d.val, a.val, 0, 0, 0, x.toNat⟩)
  | .sub _ g d a b => some (0, g, wSss 0x05 d a b)
  | .mul _ g d a b => some (0, g, wSss 0x06 d a b)
  | .and _ g d a b => some (0, g, wSss 0x07 d a b)
  | .or _ g d a b => some (0, g, wSss 0x08 d a b)
  | .xor _ g d a b => some (0, g, wSss 0x09 d a b)
  | .shl _ g d a b => some (0, g, wSss 0x0A d a b)
  | .shr _ g d a b => some (0, g, wSss 0x0B d a b)
  | .sar _ g d a b => some (0, g, wSss 0x0C d a b)
  | .shi _ g d a k amt => some (0, g, ⟨0x0D, 0, false, d.val, a.val, 0, 0, 0, shiftKindNat k * 64 + amt.toNat⟩)
  | .mins _ g d a b => some (0, g, wSss 0x0E d a b)
  | .maxs _ g d a b => some (0, g, wSss 0x0F d a b)
  | .minu _ g d a b => some (0, g, wSss 0x10 d a b)
  | .maxu _ g d a b => some (0, g, wSss 0x11 d a b)
  | .cmp _ g pd a b c => some (0, g, ⟨0x12, 0, false, 0, a.val, b.val, 0, pd.val, condNat c⟩)
  | .cmpi _ g pd a c imm => some (0, g, ⟨0x13, 0, false, 0, a.val, 0, 0, pd.val, condNat c * 2 ^ 22 + imm.toNat⟩)
  | .sel _ g d a b c => some (0, g, ⟨0x14, 0, false, d.val, a.val, b.val, c.val, 0, 0⟩)
  | .plog _ g pd a b op => some (0, g, ⟨0x15, 0, false, 0, a.val, b.val, 0, pd.val, predOpNat op⟩)
  | .pfroms _ g pd a => some (0, g, ⟨0x16, 0, false, 0, a.val, 0, 0, pd.val, 0⟩)
  | .stop _ g d a => some (0, g, ⟨0x17, 0, false, d.val, a.val, 0, 0, 0, 0⟩)
  | .rdsp _ g d x => some (0, g, ⟨0x18, 0, false, d.val, 0, 0, 0, 0, specialNat x⟩)
  | .loop _ g d a pd level body maxTrip =>
    some (0, g, ⟨0x19, 0, false, d.val, a.val, 0, 0, pd.val, level.val * 2 ^ 23 + body.toNat * 2 ^ 12 + maxTrip.toNat⟩)
  | .br _ g target => some (0, g, immWord 0x1A 0 target.toNat)
  | .bind _ g pd a => some (0, g, ⟨0x1B, 0, false, 0, a.val, 0, 0, pd.val, 0⟩)
  | .arm _ g w dl exp => some (0, g, immWord 0x1C 0 (w.val * 2 ^ 41 + dl.toNat * 2 ^ 21 + exp.toNat))
  | .await _ g d pd w => some (0, g, ⟨0x1D, 0, false, d.val, 0, 0, 0, pd.val, w.val⟩)
  | .wstat _ g d w st => some (0, g, ⟨0x1E, 0, false, d.val, 0, 0, 0, 0, elemStatusNat st * 64 + w.val⟩)
  | .wake _ g pods cold => some (0, g, wPods 0x1F pods cold)
  | .gate _ g pods off => some (0, g, wPods 0x20 pods off)
  | .cplt _ g pd a b c => some (0, g, ⟨0x21, 0, false, 0, a.val, b.val, c.val, pd.val, 0⟩)
  | .pend _ g => some (0, g, wX 0x22 0)
  | .lds _ g d a pd x => some (1, g, ⟨0x01, 0, false, d.val, a.val, 0, 0, pd.val, x.toNat⟩)
  | .sts _ g a b pd x => some (1, g, ⟨0x02, 0, false, 0, a.val, b.val, 0, pd.val, x.toNat⟩)
  | .ldv _ g d a pd x => some (1, g, ⟨0x03, 0, false, d.val, a.val, 0, 0, pd.val, x.toNat⟩)
  | .stv _ g a b pd x => some (1, g, ⟨0x04, 0, false, 0, a.val, b.val, 0, pd.val, x.toNat⟩)
  | .xload _ g a b n w => some (1, g, wCopy 0x05 a b n w)
  | .xstore _ g a b n w => some (1, g, wCopy 0x06 a b n w)
  | .gather _ g a b c i w => some (1, g, wAsync 0x07 a b c i w)
  | .vfetch _ g a b c i w _ => some (1, g, wAsync 0x08 a b c i w)
  | .slst _ g d a pd u => some (1, g, ⟨0x09, 0, false, d.val, a.val, 0, 0, pd.val, b2n u⟩)
  | .dirwLook _ g a w => some (1, g, ⟨0x0A, 0, false, 0, a.val, 0, 0, 0, w.val⟩)
  | .dirwInsert _ g a w => some (1, g, ⟨0x0A, 0, false, 0, a.val, 0, 0, 0, 64 + w.val⟩)
  | .dirwMap _ g a w => some (1, g, ⟨0x0A, 0, false, 0, a.val, 0, 0, 0, 128 + w.val⟩)
  | .dirwFree _ g a w => some (1, g, ⟨0x0A, 0, false, 0, a.val, 0, 0, 0, 192 + w.val⟩)
  | .bissue _ g a b c i w => some (1, g, wAsync 0x0B a b c i w)
  | .txq _ g a b c i w => some (1, g, wAsync 0x0C a b c i w)
  | .vadd _ g d a b m ty => some (2, g, wVvv 0x01 d a b m (laneTyNat ty))
  | .vsub _ g d a b m ty => some (2, g, wVvv 0x02 d a b m (laneTyNat ty))
  | .vmul _ g d a b m ty => some (2, g, wVvv 0x03 d a b m (laneTyNat ty))
  | .vfma _ g d a b m => some (2, g, wVvv 0x04 d a b m 0)
  | .vmax _ g d a b m ty => some (2, g, wVvv 0x05 d a b m (laneTyNat ty))
  | .vmin _ g d a b m ty => some (2, g, wVvv 0x06 d a b m (laneTyNat ty))
  | .vabs _ g d a m ty => some (2, g, wVv 0x07 d a m (laneTyNat ty))
  | .vcmp _ g pd a b m c => some (2, g, ⟨0x08, 0, false, 0, a.val, b.val, m.val, pd.val, vcondNat c * 8⟩)
  | .vsel _ g d a b m => some (2, g, wVvv 0x09 d a b m 0)
  | .vdiv _ g d a b m => some (2, g, wVvv 0x0A d a b m 0)
  | .vsqrt _ g d a m => some (2, g, wVv 0x0B d a m 0)
  | .vrcp _ g d a m => some (2, g, wVv 0x0C d a m 0)
  | .vrsqrt _ g d a m => some (2, g, wVv 0x0D d a m 0)
  | .vexp2 _ g d a m => some (2, g, wVv 0x0E d a m 0)
  | .vcvt _ g d a m k => some (2, g, wVv 0x0F d a m ((convNat k).2 * 64 + (convNat k).1))
  | .vq _ g d a b m e8 => some (2, g, wVvv 0x10 d a b m (8 * b2n e8))
  | .vf16up _ g d a m => some (2, g, wVv 0x11 d a m 0)
  | .vs8up _ g d a m => some (2, g, wVv 0x12 d a m 0)
  | .vtree _ g d a m n => some (2, g, wVv 0x13 d a m (n.toNat * 8))
  | .vhmax _ g d a m n => some (2, g, wVv 0x14 d a m (n.toNat * 8))
  | .vperm _ g d a b m => some (2, g, wVvv 0x15 d a b m 0)
  | .vbcast _ g d a m => some (2, g, ⟨0x16, 0, false, d.val, a.val, 0, m.val, 0, 0⟩)
  | .vext _ g d a lane => some (2, g, ⟨0x17, 0, false, d.val, a.val, 0, 0, 0, lane.val * 8⟩)
  | .vand _ g d a b m => some (2, g, wVvv 0x18 d a b m 0)
  | .vor _ g d a b m => some (2, g, wVvv 0x19 d a b m 0)
  | .vxor _ g d a b m => some (2, g, wVvv 0x1A d a b m 0)
  | .vpop _ g d a b m => some (2, g, wVvv 0x1B d a b m 0)
  | .vamx _ g a b f16 => some (2, g, ⟨0x1C, 0, false, 0, a.val, b.val, 0, 0, 8 * b2n f16⟩)
  | .vamr _ g d a m => some (2, g, ⟨0x1D, 0, false, d.val, a.val, 0, m.val, 0, 0⟩)
  | .vamc _ g => some (2, g, wX 0x1E 0)
  | .mldw _ g a b bank f rows stride _ =>
    some (3, g, ⟨0x01, 0, false, 0, a.val, b.val, 0, 0,
      bank.val + 2 * matFmtNat f + 8 * rows.toNat + 2048 * stride.toNat⟩)
  | .mmac _ g d a bank tree => some (3, g, ⟨0x02, 0, false, d.val, a.val, 0, 0, 0, bank.val + 2 * b2n tree⟩)
  | .mfin _ g d a b ns => some (3, g, ⟨0x03, 0, false, d.val, a.val, b.val, 0, 0, b2n ns⟩)
  | .mclr _ g d => some (3, g, ⟨0x04, 0, false, d.val, 0, 0, 0, 0, 0⟩)
  | .mmov _ g d a pd => some (3, g, ⟨0x05, 0, false, d.val, a.val, 0, 0, pd.val, 0⟩)
  | .tsel _ g d a b c pd i => some (3, g, wTurnip 0x06 d a b c pd.val i)
  | .tmrg _ g d a b c pd i => some (3, g, wTurnip 0x07 d a b c pd.val i)
  | .tthr _ g d a b c i => some (3, g, wTurnip 0x08 d a b c 0 i)
  | .csend _ g a e => some (3, g, ⟨0x09, 0, false, 0, a.val, 0, 0, 0, e.toNat⟩)
  | _ => none

/-- The slot and the 64-bit word of a tile instruction (R179); none for a command that is none. -/
def encodeSlot (i : Instr) : Option (Fin 4 × Nat) :=
  match slotFields i with
  | none => none
  | some (k, g, r) => some (k, slotWordNat { r with gp := g.gp.val, gn := g.gn })

/-- What a slot word does not hold: which reads of an MLDW and a VFETCH are uncorrectable (R205, R220). -/
def bareInstr (i : Instr) : Instr :=
  match i with
  | .vfetch t g a b c i w _ => .vfetch t g a b c i w []
  | .mldw t g a b bank f rows stride _ => .mldw t g a b bank f rows stride []
  | i => i

end Sys2Proof.Machine
end

