-- ==== Sys2Proof/Machine/Uses.lean ====
section
/-! DEFINITION. Which registers a tile instruction reads and writes, and how many fast cycles after its issue each result is visible
(R184, R192, R200, R213, R217). -/

namespace Sys2Proof.Machine

open Sys2Proof

/-- A register or predicate of a tile. -/
inductive RegName where
  | s (i : Nat)
  | v (i : Nat)
  | p (i : Nat)
  | a (i : Nat)
deriving DecidableEq, Repr

/-- What an instruction reads, and what it writes with the earliest and the latest latency of the result. -/
structure Use where
  reads : List RegName
  writes : List (RegName × Nat × Nat)
deriving DecidableEq, Repr

/-- Results of one latency. -/
def lat (n : Nat) (l : List RegName) : List (RegName × Nat × Nat) := l.map (fun r => (r, n, n))

def sss (d a b : Fin 32) (n : Nat) : Use := ⟨[.s a.val, .s b.val], lat n [.s d.val]⟩

/-- A masked write of V[D] keeps the lanes whose mask bit is 0, so it reads V[D] unless its mask is P0. -/
def keeps (m : Fin 16) (r : RegName) : List RegName := if m = 0 then [] else [.p m.val, r]

def vvv (d a b : Fin 64) (m : Fin 16) (n : Nat) : Use :=
  ⟨[.v a.val, .v b.val] ++ keeps m (.v d.val), lat n [.v d.val]⟩

def vv (d a : Fin 64) (m : Fin 16) (n : Nat) : Use := ⟨[.v a.val] ++ keeps m (.v d.val), lat n [.v d.val]⟩

/-- Latency of an F32 or an I32 instruction. -/
def tyLat (ty : LaneTy) (f i : Nat) : Nat := match ty with | .f32 => f | .i32 => i

/-- Latency of a load: by the address space where it is established, else both (R184, R200). -/
def loadLat (space : Option Nat) (pod : Nat) : Nat × Nat :=
  match space with
  | none => (2, pod)
  | some n => if n = 1 then (pod, pod) else (2, 2)

/-- Whether a conversion writes narrow elements, and so keeps the rest of D (R215). -/
def convNarrow : Conv → Bool
  | .f32ToF16 _ | .i32ToE8 _ | .i32ToE4 _ | .f32ToF16Sat _ => true
  | _ => false

/-- Latency of a Turnip instruction (R217). -/
def turnipLat (tthr : Bool) (n : Nat) : Nat := if tthr then 8 + (n + 31) / 32 else 16 + 2 * ((n + 31) / 32)

/-- The registers of one instruction (R192, R200, R213, R217). `stall` is what an AWAIT waits, `nMax` the N_MAX of a selection
descriptor, `space` the established address space of a load. -/
def useOf (stall : Nat) (nMax : Nat → Nat) (space : Option Nat) (i : Instr) : Use :=
  match i with
  | .seti _ _ d _ => ⟨[], lat 1 [.s d.val]⟩
  | .seth _ _ d _ => ⟨[.s d.val], lat 1 [.s d.val]⟩
  | .add _ _ d a b => sss d a b 1
  | .addi _ _ d a _ => ⟨[.s a.val], lat 1 [.s d.val]⟩
  | .sub _ _ d a b => sss d a b 1
  | .mul _ _ d a b => sss d a b 3
  | .and _ _ d a b => sss d a b 1
  | .or _ _ d a b => sss d a b 1
  | .xor _ _ d a b => sss d a b 1
  | .shl _ _ d a b => sss d a b 1
  | .shr _ _ d a b => sss d a b 1
  | .sar _ _ d a b => sss d a b 1
  | .shi _ _ d a _ _ => ⟨[.s a.val], lat 1 [.s d.val]⟩
  | .mins _ _ d a b => sss d a b 1
  | .maxs _ _ d a b => sss d a b 1
  | .minu _ _ d a b => sss d a b 1
  | .maxu _ _ d a b => sss d a b 1
  | .cmp _ _ pd a b _ => ⟨[.s a.val, .s b.val], lat 1 [.p pd.val]⟩
  | .cmpi _ _ pd a _ _ => ⟨[.s a.val], lat 1 [.p pd.val]⟩
  | .sel _ _ d a b c => ⟨[.s a.val, .s b.val, .p c.val], lat 1 [.s d.val]⟩
  | .plog _ _ pd a b _ => ⟨[.p a.val, .p b.val], lat 1 [.p pd.val]⟩
  | .pfroms _ _ pd a => ⟨[.s a.val], lat 1 [.p pd.val]⟩
  | .stop _ _ d a => ⟨[.p a.val], lat 1 [.s d.val]⟩
  | .rdsp _ _ d _ => ⟨[], lat 1 [.s d.val]⟩
  | .loop _ _ d a pd _ _ _ => ⟨[.s a.val], lat 1 [.s d.val, .p pd.val]⟩
  | .bind _ _ pd a => ⟨[.s a.val], lat 1 [.p pd.val]⟩
  | .await _ _ d pd _ => ⟨[], lat stall [.s d.val, .p pd.val]⟩
  | .wstat _ _ d _ _ => ⟨[], lat 1 [.s d.val]⟩
  | .cplt _ _ pd a b c => ⟨[.s a.val, .s b.val, .s c.val], lat 1 [.p pd.val]⟩
  | .lds _ _ d a pd _ => ⟨[.s a.val], [(.s d.val, loadLat space 24), (.p pd.val, loadLat space 24)]⟩
  | .sts _ _ a b pd _ => ⟨[.s a.val, .s b.val], lat 1 [.p pd.val]⟩
  | .ldv _ _ d a pd _ => ⟨[.s a.val], [(.v d.val, loadLat space 25), (.p pd.val, loadLat space 25)]⟩
  | .stv _ _ a b pd _ => ⟨[.s a.val, .v b.val], lat 1 [.p pd.val]⟩
  | .xload _ _ a b _ _ => ⟨[.s a.val, .s b.val], []⟩
  | .xstore _ _ a b _ _ => ⟨[.s a.val, .s b.val], []⟩
  | .gather _ _ a b c _ _ => ⟨[.s a.val, .s b.val, .s c.val], []⟩
  | .vfetch _ _ a b c _ _ _ => ⟨[.s a.val, .s b.val, .s c.val], []⟩
  | .slst _ _ d a pd _ => ⟨[.s a.val], lat 2 [.s d.val, .p pd.val]⟩
  | .dirwLook _ _ a _ => ⟨[.s a.val], []⟩
  | .dirwInsert _ _ a _ => ⟨[.s a.val], []⟩
  | .dirwMap _ _ a _ => ⟨[.s a.val], []⟩
  | .dirwFree _ _ a _ => ⟨[.s a.val], []⟩
  | .bissue _ _ a b c _ _ => ⟨[.s a.val, .s b.val, .s c.val], []⟩
  | .txq _ _ a b c _ _ => ⟨[.s a.val, .s b.val, .s c.val], []⟩
  | .vadd _ _ d a b m ty => vvv d a b m (tyLat ty 4 1)
  | .vsub _ _ d a b m ty => vvv d a b m (tyLat ty 4 1)
  | .vmul _ _ d a b m ty => vvv d a b m (tyLat ty 4 2)
  | .vfma _ _ d a b m => ⟨.v d.val :: (vvv d a b m 4).reads, lat 4 [.v d.val]⟩
  | .vmax _ _ d a b m ty => vvv d a b m (tyLat ty 2 1)
  | .vmin _ _ d a b m ty => vvv d a b m (tyLat ty 2 1)
  | .vabs _ _ d a m _ => vv d a m 1
  | .vcmp _ _ pd a b m _ => ⟨[.v a.val, .v b.val] ++ keeps m (.p pd.val), lat 2 [.p pd.val]⟩
  | .vsel _ _ d a b m => ⟨[.v a.val, .v b.val, .p m.val], lat 1 [.v d.val]⟩
  | .vdiv _ _ d a b m => vvv d a b m 12
  | .vsqrt _ _ d a m => vv d a m 12
  | .vrcp _ _ d a m => vv d a m 8
  | .vrsqrt _ _ d a m => vv d a m 10
  | .vexp2 _ _ d a m => vv d a m 10
  | .vcvt _ _ d a m k => ⟨(vv d a m 3).reads ++ (if convNarrow k then [.v d.val] else []), lat 3 [.v d.val]⟩
  | .vq _ _ d a b m _ => vvv d a b m 14
  | .vf16up _ _ d a m => vv d a m 3
  | .vs8up _ _ d a m => vv d a m 3
  | .vtree _ _ d a m _ => vv d a m 14
  | .vhmax _ _ d a m _ => vv d a m 8
  | .vperm _ _ d a b m => vvv d a b m 3
  | .vbcast _ _ d a m => ⟨.s a.val :: keeps m (.v d.val), lat 1 [.v d.val]⟩
  | .vext _ _ d a _ => ⟨[.v a.val], lat 1 [.s d.val]⟩
  | .vand _ _ d a b m => vvv d a b m 1
  | .vor _ _ d a b m => vvv d a b m 1
  | .vxor _ _ d a b m => vvv d a b m 1
  | .vpop _ _ d a b m => vvv d a b m 1
  | .vamx _ _ a b _ => ⟨[.v a.val, .s b.val], []⟩
  | .vamr _ _ d a m => ⟨.s a.val :: keeps m (.v d.val), lat 2 [.v d.val]⟩
  | .mldw _ _ a b _ _ _ _ _ => ⟨[.s a.val, .s b.val], []⟩
  | .mmac _ _ d a _ _ => ⟨[.v a.val], lat 8 [.a d.val]⟩
  | .mfin _ _ d a b _ => ⟨[.a d.val, .v a.val, .s b.val], lat 10 [.a d.val]⟩
  | .mclr _ _ d => ⟨[], lat 1 [.a d.val]⟩
  | .mmov _ _ d a pd => ⟨[.a a.val], lat 2 [.v d.val, .v (d.val + 1), .p pd.val, .p (pd.val + 1)]⟩
  | .tsel _ _ d a b c pd k =>
    ⟨[.s a.val, .s b.val, .s c.val, .s d.val], lat (turnipLat false (nMax k.val)) [.s d.val, .p pd.val]⟩
  | .tmrg _ _ d a b c pd k =>
    ⟨[.s a.val, .s b.val, .s c.val, .s d.val], lat (turnipLat false (nMax k.val)) [.s d.val, .p pd.val]⟩
  | .tthr _ _ d a b c k => ⟨[.s a.val, .s b.val, .s c.val, .s d.val], lat (turnipLat true (nMax k.val)) [.s d.val]⟩
  | .csend _ _ a _ => ⟨[.s a.val], []⟩
  | _ => ⟨[], []⟩

/-- The head of an instruction of a program, of which no run has said anything. -/
def plainHead (first : Bool) : Guard := ⟨0, false, first, 0, ⟨0, none⟩⟩

/-- The guard of a tile instruction (R179, R183). -/
def guardOf (i : Instr) : Guard :=
  match slotFields i with
  | some (_, g, _) => g
  | none => plainHead false

/-- A guard that may fail (R183): verification does not know guards. -/
def mayFail (g : Guard) : Bool := g.gp != 0 || g.gn

end Sys2Proof.Machine
end

