-- ==== Sys2Proof/Machine/Issue.lean ====
section
/-! DEFINITION. How a tile issues: bundles (R160, R178, R184), guards (R183), loops (R195) and register writes. -/

namespace Sys2Proof.Machine

open Sys2Proof

/-! ### Register writes -/

def setS (x : Tile) (d : Fin 32) (v : Word64) : Tile := { x with regs := { x.regs with s := x.regs.s.set d v } }
def setV (x : Tile) (d : Fin 64) (v : VReg) : Tile := { x with regs := { x.regs with v := x.regs.v.set d v } }
def setP (x : Tile) (d : Fin 16) (v : Word64) : Tile := { x with regs := { x.regs with p := writePred x.regs.p d v } }
def setAcc (x : Tile) (d : Fin 8) (a : Acc) : Tile := { x with acc := x.acc.set d a }
def setWait (x : Tile) (w : Fin 64) (o : WaitObj) : Tile := { x with wait := x.wait.set w o }

/-! ### Beginning a bundle -/

/-- The key of a register in `due` (R181). -/
def regKey : RegName → Nat
  | .s k => k
  | .p k => 32 + k
  | .v k => 48 + k
  | .a k => 112 + k

/-- Tile `y` with a register as it is in `x`. -/
def keepReg (x y : Tile) (r : RegName) : Tile :=
  match r with
  | .s k => { y with regs := { y.regs with s := y.regs.s.set! k (x.regs.s.getD k 0) } }
  | .p k => { y with regs := { y.regs with p := y.regs.p.set! k (x.regs.p.getD k 0) } }
  | .v k => { y with regs := { y.regs with v := y.regs.v.set! k (x.regs.v.getD k 0) } }
  | .a k => { y with acc := y.acc.set! k (x.acc.getD k Acc.reset) }

/-- Whether no result to a register becomes visible after a cycle (R184). -/
def settledBy (x : Tile) (r : RegName) (cyc : Nat) : Bool := decide (tget 0 x.due (regKey r) ≤ cyc)

/-- The loop level's register writes at the first bundle of an iteration (R195), in cycle `cyc`: S[D] := j, and P[PD] all ones while
j < ACT, but for a register to which a result is pending, which stands (R184). A LOOP whose guard was false writes neither. -/
def loopEnter (cyc : Nat) (x : Tile) (l : LoopLevel) : Tile :=
  if l.live && l.on && l.first == x.next then
    let y := if settledBy x (.s l.d.val) cyc then setS x l.d (BitVec.ofNat 64 l.j) else x
    if settledBy x (.p l.pd.val) cyc then setP y l.pd (statusPred (decide (l.j < l.act))) else y
  else x

/-- After bundle `cur`: the innermost live level whose body ends here repeats, or ends and leaves the next level out to
decide (R195). Levels are tried from `k` - 1 down. -/
def loopNext (cur : Nat) : Nat → Vector LoopLevel 4 → Nat × Vector LoopLevel 4
  | 0, ls => (cur + 1, ls)
  | k + 1, ls =>
    match ls[k]? with
    | none => loopNext cur k ls
    | some l =>
      if l.live && l.last == cur then
        if l.j + 1 < l.trip then (l.first, ls.set! k { l with j := l.j + 1 })
        else loopNext cur k (ls.set! k { l with live := false })
      else loopNext cur k ls

/-- Fast cycles per tick of a clock class (R2, R186). -/
def cyclesPerTick (cls : BitVec 2) : Nat := if cls = 0 then 2112 else if cls = 1 then 1792 else 1536

/-- Fast cycles per tick of this node. -/
def tickCycles (s : State) : Nat := cyclesPerTick s.aon.clockClass

/-- The fast cycle in which a tile's next bundle issues (R160): the one after its last, or the first of the present tick when the tile
did not issue to the end of the tick before, or has yet to issue in this phase. -/
def nextCycle (s : State) (x : Tile) : Nat :=
  if x.inBundle then max (x.cyc + 1) (s.clk.tick * tickCycles s) else s.clk.tick * tickCycles s

/-- The next bundle begins in a cycle, with the slot of its first command: loop counters are written, the registers are read as they
then stand and the store as it stands (R163, R184), and the next bundle follows in program order or by the loops (R195). -/
def beginBundle (cyc : Nat) (slot : BitVec 4) (x : Tile) : Tile :=
  let x1 := x.loops.toList.foldl (loopEnter cyc) x
  let (nx, ls) := loopNext x.next 4 x.loops
  { x1 with src := x1.regs, srcBound := x.bound, srcStore := x.store, inBundle := true, slots := slot, cyc := cyc, cur := x.next,
            next := nx, loops := ls }

/-- The four slot words of a bundle of a tile's program (R178): zeros above the last. -/
def bundleWords (s : State) (t k : Nat) : List Word64 := ((tileSec s t).bind (fun x => x.bundles[k]?)).getD []

/-- The word of one slot of a bundle. -/
def slotOf (s : State) (t k slot : Nat) : Nat := ((bundleWords s t k).getD slot 0).toNat

/-- Every slot of the present bundle that holds an instruction has issued (R160). -/
def bundleDone (s : State) (t : Nat) (x : Tile) : Bool :=
  !x.inBundle || (List.range 4).all (fun k => slotOf s t x.cur k == 0 || bit x.slots k)

/-- Whether a tile fetches a bundle now (R160, R166, R190): it runs in a phase, its Pod's clock runs, no bundle fetch has failed, no
AWAIT holds it or has yet to complete, the bundle before has issued, and a cycle of the present tick is left. -/
def mayFetch (s : State) (t : Fin 192) : Bool :=
  let x := tileOf s t.val
  x.run && !x.fetchFail && x.awaiting.isNone && decide (x.stall ≤ s.clk.tick) && podRuns s (podOfTile t.val)
    && bundleDone s t.val x && decide (nextCycle s x < (s.clk.tick + 1) * tickCycles s)

/-- Whether a tile begins a bundle now: one whose four words it can fetch (R166, R178). -/
def mayBegin (s : State) (t : Fin 192) : Bool :=
  mayFetch s t && (badIn (tileOf s t.val).bad (32 * (tileOf s t.val).next) 32).isEmpty

/-- Whether an instruction issues now (R160): the plan's bundle holds it, in a slot that has not issued yet; the first command of a
bundle where one may begin, a further one in the bundle begun. -/
def mayIssue (s : State) (t : Fin 192) (g : Guard) (i : Instr) : Bool :=
  let x := tileOf s t.val
  match encodeSlot i with
  | none => false
  | some (k, w) =>
    if g.first then mayBegin s t && slotOf s t.val x.next k.val == w
    else x.inBundle && podRuns s (podOfTile t.val) && slotOf s t.val x.cur k.val == w && w != 0 && !bit x.slots k.val

/-- The words that a bundle's fetch corrected, at most its four, are counted (R166, R177). -/
def fetchCounted (s : State) (g : Guard) : State := if g.first then bumpBy s .sramCorr (min g.fetched 4) else s

/-- The slot of an instruction, as a mask. -/
def slotMask (i : Instr) : BitVec 4 :=
  match encodeSlot i with
  | none => 0
  | some (k, _) => BitVec.ofNat 4 (2 ^ k.val)

/-- The state in which an instruction that issues reads its operands. -/
def issued (s : State) (t : Fin 192) (g : Guard) (i : Instr) : State :=
  let s1 := fetchCounted s g
  onTile s1 t.val (fun x =>
    if g.first then beginBundle (nextCycle s x) (slotMask i) x else { x with slots := x.slots ||| slotMask i })

/-! ### Results and their latencies (R184) -/

/-- The address space that a store access of a tile names (R167). -/
def spaceOf (s : State) (t : Fin 192) (i : Instr) : Option Nat :=
  let at_ (a : Fin 32) (x : BitVec 25) : Option Nat := some (bitsOf ((tileOf s t.val).src.s[a] + x.signExtend 64).toNat 61 3)
  match i with
  | .lds _ _ _ a _ x => at_ a x
  | .ldv _ _ _ a _ x => at_ a x
  | _ => none

/-- N_MAX of a selection descriptor (R228). -/
def selMax (s : State) (t : Fin 192) (j : Nat) : Nat := bitsOf (constOf s t.val j) 107 21

/-- The results of an instruction as it issues, each with the cycles until it is visible. -/
def resultsOf (s : State) (t : Fin 192) (i : Instr) : List (RegName × Nat) :=
  (useOf 1 (selMax s t) (spaceOf s t i) i).writes.map (fun e => (e.1, e.2.1))

/-- The results that an instruction brings to tile `y`: an AWAIT that holds the tile and a LOOP bring none yet, and a load brings its
destination only when PD says so (R190, R195, R201). -/
def broughtBy (i : Instr) (y : Tile) (l : List (RegName × Nat)) : List (RegName × Nat) :=
  match i with
  | .loop _ _ _ _ _ _ _ _ => []
  | .await _ _ _ _ _ => if y.awaiting.isSome then [] else l
  | .lds _ _ d _ pd _ => if y.regs.p[pd] = 0 then l.filter (fun e => e.1 != .s d.val) else l
  | .ldv _ _ d _ pd _ => if y.regs.p[pd] = 0 then l.filter (fun e => e.1 != .v d.val) else l
  | _ => l

/-- Of two results to one register the one that becomes visible later stands (R184): `y` with the results of `l`, which were issued in
cycle `cyc`, but for those that meet a later one that was pending in `x`. -/
def landed (cyc : Nat) (x y : Tile) (l : List (RegName × Nat)) : Tile :=
  l.foldl (fun y e =>
    if cyc + e.2 < tget 0 x.due (regKey e.1) then keepReg x y e.1
    else { y with due := tput 0 y.due (regKey e.1) (cyc + e.2) }) y

/-- An instruction issues: its effect `f` happens where its guard holds, and nothing of it otherwise (R183). -/
def issue (s : State) (t : Fin 192) (g : Guard) (i : Instr) (f : State → State) : State :=
  if mayIssue s t g i then
    let s1 := issued s t g i
    let x := tileOf s1 t.val
    if guardHolds x.src.p g then
      let l := resultsOf s1 t i
      onTile (f s1) t.val (fun y => landed x.cyc x y (broughtBy i y l))
    else s1
  else s

/-- An instruction that changes only its own tile. -/
def issueTile (s : State) (t : Fin 192) (g : Guard) (i : Instr) (f : Tile → Tile) : State :=
  issue s t g i (fun s1 => onTile s1 t.val f)

/-! ### Instruction shapes -/

/-- S[D] := f(S[A], S[B]). -/
def scalarOp (s : State) (t : Fin 192) (g : Guard) (i : Instr) (d a b : Fin 32) (f : Word64 → Word64 → Word64) : State :=
  issueTile s t g i (fun x => setS x d (f x.src.s[a] x.src.s[b]))

/-- S[D] := f(S[A]). -/
def scalarOp1 (s : State) (t : Fin 192) (g : Guard) (i : Instr) (d a : Fin 32) (f : Word64 → Word64) : State :=
  issueTile s t g i (fun x => setS x d (f x.src.s[a]))

end Sys2Proof.Machine
end

