-- ==== Sys2Proof/Machine/AsyncOps.lean ====
section
/-! DEFINITION. Elements of asynchronous work (R188, R189): how they are added, how they end, and the counters that say
so. -/

namespace Sys2Proof.Machine

open Sys2Proof

/-- The wait object that an element of a tile counts toward. -/
def waitOf (s : State) (t : Fin 192) (w : Fin 64) : WaitObj := (tileOf s t.val).wait[w]

def onWait (s : State) (t : Fin 192) (w : Fin 64) (f : WaitObj → WaitObj) : State :=
  onTile s t.val (fun x => setWait x w (f x.wait[w]))

/-- One more element of a status (R189). -/
def countStatus (o : WaitObj) (st : ElemStatus) : WaitObj :=
  match st with
  | .arrived => { o with arrived := o.arrived + 1 }
  | .late => { o with late := o.late + 1 }
  | .unreadable => { o with unreadable := o.unreadable + 1 }
  | .absent => { o with absent := o.absent + 1 }
  | .refused => { o with refused := o.refused + 1 }

/-- `n` elements more in ISSUED (R188). -/
def addIssued (s : State) (t : Fin 192) (w : Fin 64) (n : Nat) : State :=
  onWait s t w (fun o => { o with issued := o.issued + n })

/-- An element added that ends at once. -/
def addEnded (s : State) (t : Fin 192) (w : Fin 64) (st : ElemStatus) : State :=
  onWait s t w (fun o => countStatus { o with issued := o.issued + 1 } st)

/-- An element added to a wait object, in flight under the next number (R188). -/
def addElem (s : State) (t : Fin 192) (w : Fin 64) (k : ElemKind) : State :=
  let s1 := addIssued s t w 1
  let e : Elem := ⟨s.nextElem, t, w, k, s.clk.tick, (tileOf s t.val).srcBound⟩
  { s1 with elems := s1.elems ++ [e], nextElem := s.nextElem + 1 }

def elemOf (s : State) (id : Nat) : Option Elem := s.elems.find? (fun e => e.id == id)
def dropElem (s : State) (id : Nat) : State := { s with elems := s.elems.filter (fun e => e.id != id) }
def setElemKind (s : State) (id : Nat) (k : ElemKind) : State :=
  { s with elems := s.elems.map (fun e => if e.id == id then { e with kind := k } else e) }

/-- The status of a slot of a window. -/
def setSlot (w : Option Window) (i : Nat) (st : ElemStatus) : Option Window :=
  w.map (fun x => { x with slots := x.slots.modify i (fun sl => { sl with status := some st }) })

def setGatherSlot (s : State) (t : Fin 192) (i : Nat) (st : ElemStatus) : State :=
  bumpIf (st == .late) (onTile s t.val (fun x => { x with gwin := setSlot x.gwin i st })) .gatherLate

def setFetchSlot (s : State) (t : Fin 192) (i : Nat) (st : ElemStatus) : State :=
  bumpIf (st == .absent) (bumpIf (st == .late) (onTile s t.val (fun x => { x with fwin := setSlot x.fwin i st })) .fetchLate)
    .fetchAbsent

/-- The staging slot of an element's kind takes its final status (R174, R206), and LATE and ABSENT slots are counted
(R177, R231). -/
def endSlot (s : State) (t : Fin 192) (k : ElemKind) (st : ElemStatus) : State :=
  match k with
  | .gather i _ _ _ => setGatherSlot s t i st
  | .gatherRemote i _ _ _ => setGatherSlot s t i st
  | .fetch i _ _ _ _ => setFetchSlot s t i st
  | .fetchFlash i _ _ => setFetchSlot s t i st
  | _ => s

/-- An element ends in its one status (R188, R189). -/
def endElem (s : State) (e : Elem) (st : ElemStatus) : State :=
  endSlot (onWait (dropElem s e.id) e.tile e.wait (fun o => countStatus o st)) e.tile e.kind st

/-- Whether the deadline tick of an element's wait object has ended (R162, R189, R258). -/
def elemLate (s : State) (e : Elem) : Bool := decide ((waitOf s e.tile e.wait).dl < s.clk.tick)

/-- Data of an element land: before the end of the deadline tick they are written and the element is ARRIVED; later they
are discarded and it ends LATE (R162, R258). -/
def landData (s : State) (e : Elem) (dst : Nat) (d : List Byte) (st : ElemStatus) : State :=
  if elemLate s e then endElem s e .late else endElem (tileWrite s e.tile.val dst d) e st

/-- A request's completion will carry a status (R84, R431). -/
def failRequest (s : State) (slot : Option (Fin 1024)) (st : BitVec 8) : State :=
  match slot with
  | none => s
  | some k => onAdm s k.val (fun a => { a with fault := a.fault.or (some st) })

/-- A plan's read of host memory failed twice (R431): the element is UNREADABLE and the request ends with MEDIA_ERROR. -/
def hostReadFailed (s : State) (e : Elem) : State :=
  failRequest (endElem s e (if elemLate s e then .late else .unreadable)) e.slot stMediaError

/-- The context a tile's bundle works for. -/
def boundCtxOf (s : State) (t : Fin 192) : Option (Adm × Ctx) :=
  (boundAdm s (tileOf s t.val)).map (fun a => (a, ctxOf s a.req.ctx.toNat))

end Sys2Proof.Machine
end

