-- ==== Sys2Proof/Machine/Changes.lean ====
section
/-! DEFINITION. The change table and what a snapshot sees (R284, R285, R293 to R296), and the address map of the Beans
(R114). -/

namespace Sys2Proof.Machine

open Sys2Proof

/-! ### Rows and Beans (R114) -/

/-- The Bean of a node memory row. -/
def beanOfRow (n : Nat) : Nat := n / 32 % 6144

/-- A row as its Bean numbers it. -/
def pairRowOf (n : Nat) : Nat := n / 32 / 6144 * 32 + n % 32

/-- The node memory row of a Bean's pair row. -/
def rowOfPair (bean pairRow : Nat) : Nat := (pairRow / 32 * 6144 + bean) * 32 + pairRow % 32

/-- Stack, die, channel, pseudo-channel and pair of a Bean (R114). -/
def beanStack (b : Nat) : Nat := b % 8
def beanDie (b : Nat) : Nat := b / 8 % 12
def beanCh (b : Nat) : Nat := b / 96 % 16
def beanPc (b : Nat) : Nat := b / 1536 % 2
def beanPair (b : Nat) : Nat := b / 3072

/-- The memory die of a Bean among the 96 of the node. -/
def dieOfBean (b : Nat) : Nat := beanStack b * 12 + beanDie b

/-- The pseudo-channel of a Bean among the 256 of the node. -/
def pcOfBean (b : Nat) : Nat := beanStack b * 32 + beanCh b * 2 + beanPc b

/-- The bank of a pair row within its pseudo-channel (R114). -/
def bankOfRow (bean pairRow : Nat) : Nat := beanDie bean * 4 + beanPair bean * 2 + pairRow % 2

/-! ### Change entries (R284) -/

def chgOf (s : State) (e : Nat) : Chg := tget Chg.reset s.upd.chg e
def putChg (s : State) (e : Nat) (x : Chg) : State := { s with upd := { s.upd with chg := tput Chg.reset s.upd.chg e x } }
def onChg (s : State) (e : Nat) (f : Chg → Chg) : State := putChg s e (f (chgOf s e))

/-- The open entries (STATE not FREE), ascending. -/
def openChgs (s : State) : List (Nat × Chg) := s.upd.chg.filter (fun kv => kv.2.state != .free)

/-- The lowest free entry. -/
def freeChg (s : State) : Option Nat := (List.range 4096).find? (fun e => (chgOf s e).state == .free)

/-- The open entries of one item of one shard copy, oldest first. -/
def itemChgs (s : State) (c : CtxId) (sh : BitVec 20) (item : BitVec 36) : List (Nat × Chg) :=
  sortBy (fun a b => decide (a.2.commitTick < b.2.commitTick))
    ((openChgs s).filter (fun kv => kv.2.ctx == c && kv.2.shard == sh && kv.2.item == item))

/-- Whether a change is visible to a snapshot (R293). -/
def chgVisible (e : Chg) (t : Nat) : Bool := e.state == .committed && decide (e.commitTick < t)

/-- A shard copy with an UNSURE entry (R291). -/
def copyUnsure (s : State) (c : CtxId) (sh : BitVec 20) : Bool :=
  (openChgs s).any (fun kv => kv.2.state == .unsure && kv.2.ctx == c && kv.2.shard == sh)

/-- The slot reference value that names no slot (R284). -/
def noSlot : BitVec 28 := BitVec.allOnes 28

/-- The node memory row of a slot reference of an entry. -/
def chgRow (s : State) (e : Chg) (loc : BitVec 28) : Nat :=
  match copyOf s e.ctx.toNat e.shard.toNat with
  | some c => c.recBase + loc.toNat / 32
  | none => 0

/-- The slot references of an entry (R285). -/
def chgRefs (e : Chg) : List (BitVec 28) :=
  [e.newHome, e.newSpill, e.oldHome, e.oldSpill].filter (fun l => l != noSlot)

/-- The references held on a Bean by all open entries (R285). -/
def beanRefs (s : State) (b : Nat) : Nat :=
  ((openChgs s).map (fun kv => ((chgRefs kv.2).filter (fun l => beanOfRow (chgRow s kv.2 l) == b)).length)).foldl (· + ·) 0

/-- The exclusion list of a Bean under a snapshot (R294), as (pair row, slot). -/
def exclusionsFor (s : State) (b t : Nat) : List (Nat × Nat) :=
  (openChgs s).flatMap (fun kv =>
    let e := kv.2
    if e.state == .unsure then []
    else
      let ls := if chgVisible e t then [e.oldHome, e.oldSpill] else [e.newHome, e.newSpill]
      ((ls.filter (fun l => l != noSlot)).filter (fun l => beanOfRow (chgRow s e l) == b)).map
        (fun l => (pairRowOf (chgRow s e l), l.toNat % 32)))

/-- Whether a BLDX for a snapshot must wait for a decision (R295). -/
def decisionPending (s : State) (b t : Nat) : Bool :=
  (openChgs s).any (fun kv => kv.2.state == .applied && decide (kv.2.commitTick < t)
    && (chgRefs kv.2).any (fun l => beanOfRow (chgRow s kv.2 l) == b))

/-! ### The state a snapshot sees (R296) -/

/-- An item's state: its directory entry, and the version a change entry gives it, if one does. -/
structure Seen where
  ent : Option DirEnt
  version : Option (BitVec 24)
deriving DecidableEq, Repr

/-- OLD_ENTRY as a state: all zero when the item had none. -/
def oldSeen (e : Chg) : Seen := ⟨if e.oldEntry = 0 then none else some (dirEntOf e.oldEntry.toNat), none⟩

/-- The state visible at a snapshot (R296). -/
def seenAt (s : State) (c : ShardCopy) (item : BitVec 36) (t : Nat) : Seen :=
  let l := itemChgs s c.ctx c.shard item
  match l with
  | [] => ⟨dirLook s c item, none⟩
  | (_, oldest) :: _ =>
    match firstIdx (fun kv => chgVisible kv.2 t) l.reverse with
    | none => oldSeen oldest
    | some k =>
      -- k entries are newer than the newest visible one
      let vis := (l.reverse.getD k (0, oldest)).2
      if k = 0 then ⟨dirLook s c item, some vis.version⟩
      else { oldSeen (l.reverse.getD (k - 1) (0, oldest)).2 with version := some vis.version }

/-- A state that a read takes as present (R296): an entry, not DELETED. -/
def seenPresent (v : Seen) : Option DirEnt :=
  match v.ent with
  | some e => if e.deleted then none else some e
  | none => none

/-- The record size of a context's records on this node, from any loaded partition (R41). -/
def ctxRecSize (s : State) (c : Nat) : Nat :=
  match (copiesOf s c).find? (fun x => !x.loaded.isEmpty) with
  | some x => (readPart s x (x.loaded.headD 0)).recSize
  | none => 0

/-- The version in the header of the record that a REC_LOC names. -/
def recVersion (s : State) (c : ShardCopy) (loc : BitVec 28) : BitVec 24 :=
  (headerOf (memRead s (locAddr c (ctxRecSize s c.ctx.toNat) loc) 16)).version

/-- The version a state carries (R205 step 5): the change entry's, else the record header's; none for an item without a
record. -/
def seenVersion (s : State) (c : ShardCopy) (v : Seen) : Option (BitVec 24) :=
  match v.version with
  | some x => some x
  | none =>
    match v.ent with
    | none => none
    | some e => if e.recLoc = noRec then none else some (recVersion s c e.recLoc)

end Sys2Proof.Machine
end

