-- ==== Sys2Proof/Machine/EventOps.lean ====
section
/-! DEFINITION. Raising events (R474, R475, R477) and what a store's uncorrectable word brings about (R166). -/

namespace Sys2Proof.Machine

open Sys2Proof

/-- A source is asserted (R477): it becomes pending, or the assertion is lost in the one already pending. -/
def raiseEvent (s : State) (source : Nat) (payload : Nat) : State :=
  let n : Fin 512 := Fin.ofNat 512 source
  if s.evt.pending.any (fun p => p.source == n) then bump s .evtCoalesce
  else
    let e : PendEvt := ⟨n, s.clk.tick, BitVec.ofNat 192 payload⟩
    { s with evt := { s.evt with pending := s.evt.pending ++ [e] } }

/-- Event sources (R474). -/
def evTickResync : Nat := 0
def evDropped : Nat := 1
def evPlan : Nat := 2
def evMemClass : Nat := 3
def evShed : Nat := 4
def evTempWarn : Nat := 5
def evRowRemap (stack : Nat) : Nat := 16 + stack
def evRemapFull (stack : Nat) : Nat := 24 + stack
def evBeanOut (stack : Nat) : Nat := 32 + stack
def evTileFault (pod : Nat) : Nat := 40 + pod
def evPortState (port : Nat) : Nat := 48 + port
def evLaneRetrain (port : Nat) : Nat := 54 + port
def evBlockRetire (ch : Nat) : Nat := 64 + ch
def evFlashPart : Nat := 96
def evReplicaFail : Nat := 97
def evCressFull : Nat := 98
def evLostShard : Nat := 128
def evUnsure : Nat := 129
def evSteward : Nat := 130
def evRehearsal : Nat := 131
def evHostFault : Nat := 132
def evTextFailed : Nat := 133
def evUncorr : Nat := 134

/-- The UNCORR event (R474, R475): the unit, the location field and the context of the access, where one was bound. -/
def raiseUncorr (s : State) (unit loc : Nat) (ctx : Option CtxId) : State :=
  raiseEvent s evUncorr (packFields [(4, unit), (4, 0), (64, loc), (12, (ctx.getD 0).toNat), (1, b2n ctx.isSome)])

/-- One uncorrectable access to node memory (R84, R85): counted and raised; unit 0 ordinary access, 1 a Bean's operand. -/
def uncorrMem (s : State) (unit addr : Nat) (ctx : Option CtxId) : State :=
  raiseUncorr (bump s .uncorrMem) unit (addr / 64 * 64) ctx

/-- The location field of a store's word (R475): tile and offset, or Pod and offset. -/
def sramLoc (u : SramUnit) (off : Nat) : Nat × Nat :=
  match u with
  | .tile t => (2, t.val + 256 * (off % 1048576))
  | .pod p => (3, p.val + 256 * (off % 16777216))

/-- A word joins its store's scrubber (R166). -/
def addScrub (s : State) (u : SramUnit) (off : Nat) : State :=
  match u with
  | .tile t => onTile s t.val (fun x => { x with scrub := x.scrub ++ [off / 8 * 8] })
  | .pod p => onPod s p.val (fun x => { x with scrub := x.scrub ++ [off / 8 * 8] })

/-! ### Reads of stores (R166) -/

/-- The words of a store whose error is lasting. -/
def lastingWords (s : State) (u : SramUnit) : List Nat :=
  match u with
  | .tile t => (tileOf s t.val).bad
  | .pod p => (podOf s p.val).writes.foldl (fun l w => keptBad l w.off w.data.length) (podOf s p.val).bad

/-- Where byte `k` of the data of some ranges lies, range after range; none past their end. -/
def rangeByte : List (Nat × Nat) → Nat → Option Nat
  | [], _ => none
  | (off, n) :: l, k => if k < n then some (off + k) else rangeByte l (k - n)

/-- The 64-bit words that some ranges touch. -/
def rangeWords (rs : List (Nat × Nat)) : Nat :=
  (rs.map (fun r => if r.2 = 0 then 0 else (r.1 + r.2 - 1) / 8 - r.1 / 8 + 1)).foldl (· + ·) 0

/-- The uncorrectable word that a read of some ranges meets: the one reported, else one with a lasting error. -/
def badWordAt (s : State) (u : SramUnit) (rs : List (Nat × Nat)) (e : Ecc) : Option Nat :=
  match e.bad.bind (rangeByte rs) with
  | some a => some a
  | none => (rs.flatMap (fun r => badIn (lastingWords s u) r.1 r.2)).head?

/-- The context of the request a tile's bundle is bound to. -/
def boundCtxId (s : State) (t : Fin 192) : Option CtxId := (boundAdm s (tileOf s t.val)).map (·.req.ctx)

/-- One access that met an uncorrectable word of a store (R166, R177): counted once and raised, and the scrubber reads the word
again, but for one whose error is known to last (log 16). -/
def storeUncorr (s : State) (u : SramUnit) (a : Nat) (ctx : Option CtxId) : State :=
  let (unit, loc) := sramLoc u a
  let s1 := raiseUncorr (bump s .uncorrSram) unit loc ctx
  if (lastingWords s u).contains (a / 8 * 8) then s1 else addScrub s1 u a

/-- One data read of some ranges of a store by a tile's instruction (R166): corrected words are counted, and an uncorrectable one is
reported. The answer says whether every word was read. -/
def storeReport (s : State) (t : Fin 192) (u : SramUnit) (rs : List (Nat × Nat)) (e : Ecc) : State × Bool :=
  let s1 := bumpBy s .sramCorr (min e.corrected (rangeWords rs))
  match badWordAt s u rs e with
  | none => (s1, true)
  | some a => (storeUncorr s1 u a (boundCtxId s t), false)

/-- A read of the tile's own store. -/
def tileReport (s : State) (t : Fin 192) (rs : List (Nat × Nat)) (e : Ecc) : State × Bool := storeReport s t (.tile t) rs e

/-- The TILE_FAULT event of a Pod (R474, R475). -/
def raiseTileFault (s : State) (p : Nat) : State :=
  raiseEvent s (evTileFault p) (bitsOf s.tileFault.toNat (24 * p) 24 + 16777216 * b2n (bit s.podFault p))

/-- A tile or Pod met a lasting fault (R166, R176): its bit is set and the event raised. -/
def setTileFault (s : State) (u : SramUnit) : State :=
  match u with
  | .tile t => raiseTileFault { s with tileFault := setBit s.tileFault t.val true } (podOfTile t.val)
  | .pod p => raiseTileFault { s with podFault := setBit s.podFault p.val true } p.val

end Sys2Proof.Machine
end

