-- ==== Sys2Proof/Machine/MemAccess.lean ====
section
/-! DEFINITION. Ordinary access to node memory: the outer decoder (R117 to R119), partial writes (R120), busy banks and the
access gap (R142), and REMAP (R150, R151, R156). -/

namespace Sys2Proof.Machine

open Sys2Proof

/-- Computing commands (R124). -/
def opComputes (op : BeanOp) : Bool :=
  match op with
  | .bscan => true
  | .bput => true
  | .bzero => true
  | .bcopy => true
  | _ => false

/-! ### The outer decoder (R119) -/

/-- Whether the die reported the word of byte `j` of the 68 as corrected or uncorrectable; the metadata lie in none of its words
(log 116). -/
def wordReported (b : Burst) (j : Nat) : Bool := ((burstWords b).map (·.1)).getD (j / 16) .clean != .clean

/-- What the outer decoder makes of a burst: its 64 bytes, or uncorrectable; and whether it corrected (R119). -/
def decodeBurst (b : Burst) : Option (List Byte) × Bool :=
  let w := burstInner b ++ slice b.check 0 4
  match rsSolve w with
  | none => (none, false)
  | some [] => (some (w.take 64), false)
  | some l =>
    if l.all (fun p => wordReported b p.1) then
      (some ((l.foldl (fun v p => v.set p.1 (v.getD p.1 0 ^^^ p.2)) w).take 64), true)
    else (none, false)

/-- Inner corrections that a read of a burst shows (R119). -/
def innerCount (b : Burst) : Nat := ((burstWords b).filter (fun w => w.1 == .corrected)).length

/-- The burst of node memory at address `a` as it is stored (R117, R118). -/
def storedBurst (s : State) (a : Nat) : Burst :=
  (tget none s.raw (a / 64)).getD (freshBurst (memRead s (a / 64 * 64) 64))

/-- One read of a burst: counted (R119). -/
def readBurst (s : State) (b : Burst) : State × Option (List Byte) :=
  let (d, fixed) := decodeBurst b
  (bumpIf fixed (bumpBy s .innerCorr (innerCount b)) .outerCorr, d)

/-- A burst that did not read back clean: read, and read once more when it does not decode (R119, R422). -/
def readTwice (s : State) (o : Nat × Burst × Burst) : State × Option (List Byte) :=
  let (s1, d) := readBurst s o.2.1
  match d with
  | some x => (s1, some x)
  | none => readBurst s1 o.2.2

/-- The listed bursts of a range, read (R119): the corrected bytes of those that decode, and the addresses of those that do not. -/
def readOdd (s : State) (odd : List (Nat × Burst × Burst)) : State × List (Nat × List Byte) × List Nat :=
  odd.foldl (fun acc o =>
    let (s1, l, bad) := acc
    let (s2, d) := readTwice s1 o
    match d with
    | some x => (s2, l ++ [(o.1 / 64 * 64, x)], bad)
    | none => (s2, l, bad ++ [o.1 / 64 * 64])) (s, [], [])

/-- The bursts with symbols of their own that a byte range touches. -/
def rawIn (s : State) (a n : Nat) : List (Nat × Burst) :=
  s.raw.filterMap (fun kv =>
    match kv.2 with
    | some b => if overlap (64 * kv.1, 64) (a, n) then some (64 * kv.1, b) else none
    | none => none)

/-- The bursts that a byte range touches and that do not read as the fresh codes of their bytes: those an access lists, and those
stored so. -/
def oddIn (s : State) (odd : List (Nat × Burst × Burst)) (a n : Nat) : List (Nat × Burst × Burst) :=
  let l := odd.filter (fun o => overlap (o.1 / 64 * 64, 64) (a, n))
  l ++ ((rawIn s a n).filter (fun r => !l.any (fun o => o.1 / 64 * 64 == r.1))).map (fun r => (r.1, r.2, r.2))

/-- The Beans whose pairs a byte range touches. -/
def beansOfRange (a n : Nat) : List Nat :=
  if n = 0 then [] else uniq ((List.range ((a + n - 1) / 1024 + 1 - a / 1024)).map (fun k => beanOfRow (a / 1024 + k)))

/-- A pseudo-channel's training state (R502). -/
def pcTrainOf (s : State) (pc : Nat) : PcTrain := tget PcTrain.reset s.stk.pcs pc

/-- A Bean whose pseudo-channel is held for retraining (R502). -/
def beanHeld (s : State) (b : Nat) : Bool := (pcTrainOf s (pcOfBean b)).held

/-- A byte range some of whose data lie on a pseudo-channel with a failed lane and none left to stand in (R502): it reads
as uncorrectable. -/
def rangeDead (s : State) (a n : Nat) : Bool :=
  s.stk.pcs.any (fun kv => kv.2.dead) && (beansOfRange a n).any (fun b => (pcTrainOf s (pcOfBean b)).dead)

/-- The first burst that cannot be corrected in one of some ranges (R83, R502). -/
def deadAt (s : State) (rs : List (Nat × Nat)) : Option Nat :=
  (rs.flatMap (fun r => if rangeDead s r.1 r.2 then [r.1] else (rawIn s r.1 r.2).map (·.1))).head?

/-- A row is queued for remapping, once (R148, R150). -/
def queueRemap (s : State) (q : Nat × BitVec 16) : State :=
  if s.stk.remapQ.contains q then s else { s with stk := { s.stk with remapQ := s.stk.remapQ ++ [q] } }

/-- An ordinary access that is still uncorrectable after its retry (R84, R85, R150): counted and raised, and the row of the burst,
whose fault is lasting, is queued for remapping. Data behind a failed lane are lost without a row's being at fault (R502). -/
def lastingMem (s : State) (a : Nat) (ctx : Option CtxId) : State :=
  let s1 := uncorrMem s 0 a ctx
  if rangeDead s a 1 then s1 else queueRemap s1 (beanOfRow (a / 1024), BitVec.ofNat 16 (pairRowOf (a / 1024)))

/-- An ordinary read of `n` bytes (R119, R422, R502): its bytes, or uncorrectable, which is counted once (R85). -/
def nodeRead (s : State) (a n : Nat) (odd : List (Nat × Burst × Burst)) (ctx : Option CtxId) : State × Option (List Byte) :=
  let (s1, l, bad) := readOdd s (oddIn s odd a n)
  if bad.isEmpty && !rangeDead s a n then
    let base := a / 64 * 64
    let whole := memRead s base ((a + n + 63) / 64 * 64 - base)
    (s1, some (slice (l.foldl (fun d x => splice d (x.1 - base) x.2) whole) (a - base) n))
  else (lastingMem s1 (bad.headD a) ctx, none)

/-- The bursts that a write covers in part: its first and its last, where it does not cover them whole (R120). -/
def partialBursts (a n : Nat) : List Nat :=
  let f := a / 64 * 64
  let l := (a + n - 1) / 64 * 64
  (if a % 64 = 0 ∧ (f ≠ l ∨ (a + n) % 64 = 0) then [] else [f])
  ++ (if f = l ∨ (a + n) % 64 = 0 then [] else [l])

/-- The partial bursts of a write, read before any byte of it is written (R120): the state, the corrected bytes of those that did
not read as fresh codes, and the first that stays uncorrectable. -/
def readPartial (s : State) (a n : Nat) (odd : List (Nat × Burst × Burst)) : State × List (Nat × List Byte) × Option Nat :=
  let ps := partialBursts a n
  let (s1, l, bad) := readOdd s ((oddIn s odd a n).filter (fun o => ps.contains (o.1 / 64 * 64)))
  (s1, l, (bad ++ ps.filter (fun x => rangeDead s x 64)).head?)

/-- An ordinary write (R120): partial bursts are read first, and when one stays uncorrectable nothing of the write is
written. Answers whether it was written. -/
def nodeWrite (s : State) (a : Nat) (d : List Byte) (odd : List (Nat × Burst × Burst)) (ctx : Option CtxId) : State × Bool :=
  if d = [] then (s, true)
  else
    match readPartial s a d.length odd with
    | (s1, l, none) => (memWrite (l.foldl (fun s x => memWrite s x.1 x.2) s1) a d, true)
    | (s1, _, some x) => (lastingMem s1 x ctx, false)

/-! ### Beans, banks and held accesses (R142) -/

def beanOf (s : State) (b : Nat) : Bean := tget Bean.reset s.stk.beans b
def putBean (s : State) (b : Nat) (x : Bean) : State := { s with stk := { s.stk with beans := tput Bean.reset s.stk.beans b x } }
def onBean (s : State) (b : Nat) (f : Bean → Bean) : State := putBean s b (f (beanOf s b))

/-- A computing command occupies the Bean and both banks of its pair (R124, R142). -/
def beanBusy (s : State) (b : Nat) : Bool :=
  match (beanOf s b).run with
  | some r => !r.retryDue
  | none => false

/-- The key of a bank of a pair. -/
def bankKey (b bank : Nat) : Nat := 2 * b + bank % 2

/-- The banks, as keys, that a byte range touches. -/
def banksOfRange (a n : Nat) : List Nat :=
  if n = 0 then []
  else uniq ((List.range ((a + n - 1) / 1024 + 1 - a / 1024)).map (fun k =>
    bankKey (beanOfRow (a / 1024 + k)) (pairRowOf (a / 1024 + k))))

/-- `n` activations more on a bank (R116). -/
def addActs (s : State) (k n : Nat) : State := { s with stk := { s.stk with acts := tmod 0 s.stk.acts k (· + n) } }

/-- An ordinary access served (R142): a write is made, a debug-window read answers with its bytes; a debug-window read that
stays uncorrectable completes with Completer Abort (R437). A tile's data are those of its issue tick (R170), and land with its
element. -/
def serveAccess (s : State) (a : Access) : State :=
  let s0 := (banksOfRange a.addr a.len).foldl (fun s k => addActs s k 1) s
  match a.who with
  | .tile _ => s0
  | .debug =>
    let (s1, d) := nodeRead s0 a.addr a.len a.odd none
    match d with
    | some x => { s1 with io := { s1.io with readData := BitVec.ofNat 512 (leNat x), readAbort := false } }
    | none => { s1 with io := { s1.io with readAbort := true } }
  | _ => if a.write then (nodeWrite s0 a.addr a.data a.odd none).1 else (nodeRead s0 a.addr a.len a.odd none).1

/-- Held accesses in the order a bank serves them in the access gap: debug-window reads first, else oldest first. -/
def heldOrder (l : List Access) : List Access := l.filter (fun a => a.who == .debug) ++ l.filter (fun a => a.who != .debug)

/-- Whether every pair an access touches is free of compute, every stack awake and no pseudo-channel held (R502). -/
def accessFree (s : State) (a : Access) : Bool :=
  (beansOfRange a.addr a.len).all (fun b => !beanBusy s b && !bit s.stk.selfRef (beanStack b) && !beanHeld s b)

def debtOf (s : State) (k : Nat) : Nat := tget 0 s.stk.debt k

/-- Whether an access may be served after the gap (R144): a refresh owed to a bank whose debt is 4 or more goes ahead of it. -/
def accessDue (s : State) (a : Access) : Bool :=
  accessFree s a && (banksOfRange a.addr a.len).all (fun k => decide (debtOf s k < 4))

/-- The held accesses that a test picks are served, oldest first (R142, R144). -/
def serveHeld (s : State) (pick : Access → Bool) : State :=
  let go := s.stk.held.filter (fun a => pick a && accessDue s a)
  let s1 : State := { s with stk := { s.stk with held := s.stk.held.filter (fun a => !(pick a && accessDue s a)) } }
  go.foldl serveAccess s1

/-- The access gap after a computing command on a Bean (R142): the oldest held access of each bank of the pair. -/
def accessGap (s : State) (b : Nat) : State :=
  let first (k : Nat) : Option Access :=
    (heldOrder s.stk.held).find? (fun a => (banksOfRange a.addr a.len).contains k && accessFree s a)
  let l := uniq ([first (bankKey b 0), first (bankKey b 1)].filterMap id)
  let s1 := onBean { s with stk := { s.stk with held := s.stk.held.filter (fun a => !l.contains a) } } b
    (fun x => { x with gap := true })
  l.foldl serveAccess s1

/-- After the gap, held accesses of an idle pair are served, oldest first (R142, R144). -/
def idlePair (s : State) (b : Nat) : State :=
  if beanBusy s b then s
  else onBean (serveHeld s (fun a => (beansOfRange a.addr a.len).contains b)) b (fun x => { x with gap := false })

/-- An access joins its controller's queue. -/
def holdAccess (s : State) (a : Access) : State := { s with stk := { s.stk with held := s.stk.held ++ [a] } }

/-- An ordinary access reaches its controller (R142, R144): held while a pair it touches computes (each held access is counted
once), else served behind those held before it; it waits while its stack is in self refresh, its pseudo-channel held, or a
refresh is owed that goes ahead of it. -/
def ordinaryAccess (s : State) (a : Access) : State :=
  let bs := beansOfRange a.addr a.len
  if bs.any (beanBusy s) then bump (holdAccess s a) .readHeld
  else
    let s1 := bs.foldl idlePair s
    if accessDue s1 a then serveAccess s1 a else holdAccess s1 a

/-- A tile's access to node memory (R142, R202): `id` is its element. -/
def tileAccess (s : State) (id a n : Nat) (write : Bool) : State := ordinaryAccess s ⟨.tile id, write, a, n, [], []⟩

/-- Whether an element's access still waits behind compute. -/
def elemHeld (s : State) (id : Nat) : Bool := s.stk.held.any (fun a => a.who == .tile id)

/-- ORDINARY_ACCESS (R142). -/
def execOrdinaryAccess (a : Access) (s : State) : Host.Outcome State Fault Refusal :=
  .next (if inMemory (a.addr, a.len) then ordinaryAccess s a else s)

/-! ### Refresh (R144, R145) -/

/-- REFRESH_DEBT_ACCRUE (R144): one more refresh owed to a bank; at 8 the pair's commands wait and CNT_REFRESH_URGENT
counts. -/
def execRefreshDebtAccrue (b : Fin 6144) (bank : Fin 2) (s : State) : Host.Outcome State Fault Refusal :=
  .next (
    let k := bankKey b.val bank.val
    let n := debtOf s k + 1
    let s1 : State := { s with stk := { s.stk with debt := tput 0 s.stk.debt k n } }
    if n = 8 then bump { s1 with stk := { s1.stk with urgent := setBit s1.stk.urgent b.val true } } .refreshUrgent else s1)

/-- REFPB_ISSUE (R144): both banks of an idle pair are refreshed, after the held accesses, except that a bank whose debt is
4 or more goes ahead of them; a debt of 4 or less ends the urgency. -/
def execRefpbIssue (b : Fin 6144) (s : State) : Host.Outcome State Fault Refusal :=
  .next (
    if beanBusy s b.val || bit s.stk.selfRef (beanStack b.val) then s
    else
      let k0 := bankKey b.val 0
      let k1 := bankKey b.val 1
      let late := decide (4 ≤ debtOf s k0) || decide (4 ≤ debtOf s k1)
      let s0 := if late then s else idlePair s b.val
      let d0 := debtOf s0 k0 - 1
      let d1 := debtOf s0 k1 - 1
      let u := if d0 ≤ 4 ∧ d1 ≤ 4 then setBit s0.stk.urgent b.val false else s0.stk.urgent
      let s1 : State := { s0 with stk := { s0.stk with debt := tput 0 (tput 0 s0.stk.debt k0 d0) k1 d1, urgent := u } }
      if late then idlePair s1 b.val else s1)

/-- RFMPB_ISSUE (R116): refresh management for a bank whose activation count has passed the stack's threshold. -/
def execRfmpbIssue (b : Fin 6144) (bank : Fin 2) (s : State) : Host.Outcome State Fault Refusal :=
  .next (
    let k := bankKey b.val bank.val
    if !beanBusy s b.val && decide (Config.rfmThreshold < tget 0 s.stk.acts k) then
      { s with stk := { s.stk with acts := tput 0 s.stk.acts k 0 } }
    else s)

/-- When a queued command is booked, in ns: its list starts with its start tick, and ISSUE counts in units of 2 ns (R154, R208). -/
def bookedAt (q : QueuedBean) : Nat := q.start * 640 + 2 * q.issue

/-- The present tick's start in ns. -/
def nowNs (s : State) : Nat := s.clk.tick * 640

/-- SELF_REFRESH_ENTRY (R147): a stack on which nothing computes or waits, and no booked command starts within 2 ticks. -/
def execSelfRefreshEntry (stack : Fin 8) (s : State) : Host.Outcome State Fault Refusal :=
  .next (
    let on (b : Nat) : Bool := beanStack b == stack.val
    if s.stk.beans.any (fun kv => on kv.1 && kv.2.run.isSome)
      || s.stk.extraWait.any (fun e => on e.bean.val)
      || s.stk.queue.any (fun q => on q.bean.val && decide (bookedAt q < nowNs s + 1920))
      || s.stk.held.any (fun a => (beansOfRange a.addr a.len).any on) then s
    else { s with stk := { s.stk with selfRef := setBit s.stk.selfRef stack.val true } })

/-- At a boundary the controllers take out of self refresh the stacks on which a command is booked before the boundary after the
next, and those that hold an access (R143, R147). -/
def wakeStacks (s : State) : State :=
  let wakes (k : Nat) : Bool :=
    s.stk.queue.any (fun q => beanStack q.bean.val == k && decide (bookedAt q < nowNs s + 1280))
    || s.stk.held.any (fun a => (beansOfRange a.addr a.len).any (fun b => beanStack b == k))
  let v := (List.range 8).foldl (fun v k => if wakes k then setBit v k false else v) s.stk.selfRef
  { s with stk := { s.stk with selfRef := v } }

/-- SELF_REFRESH_EXIT (R147): accesses that found the stack in self refresh are served. -/
def execSelfRefreshExit (stack : Fin 8) (s : State) : Host.Outcome State Fault Refusal :=
  .next (
    if bit s.stk.selfRef stack.val then
      serveHeld { s with stk := { s.stk with selfRef := setBit s.stk.selfRef stack.val false } }
        (fun a => (beansOfRange a.addr a.len).any (fun b => beanStack b == stack.val))
    else s)

/-! ### Row remapping (R150, R151, R156) -/

/-- A REMAP entry as its register reads (R156). -/
def remapNat (r : Remap) : Nat :=
  packFields [(14, 0), (6, r.spare.toNat), (15, r.row.toNat), (6, r.bank.toNat), (1, b2n r.pc), (4, r.ch.toNat), (15, 0),
    (1, 0), (1, b2n r.factory), (1, b2n r.valid)]

def remapAt (s : State) (n : Nat) : Remap := tget Remap.reset s.stk.remap n

/-- The number of a bank of the node: stack, channel, pseudo-channel, bank. -/
def bankNumber (stack ch pc bank : Nat) : Nat := ((stack * 16 + ch) * 2 + pc) * 48 + bank

/-- The place of a pair row for its REMAP entry: channel, pseudo-channel, bank, row (R114). -/
def rowPlace (b : Nat) (pr : Nat) : Nat × Nat × Nat × Nat := (beanCh b, beanPc b, bankOfRow b pr, pr / 2)

/-- The entry that already remaps a row of a stack. -/
def remapFind (s : State) (stack : Nat) (p : Nat × Nat × Nat × Nat) : Option Nat :=
  (List.range 4096).find? (fun k =>
    let r := remapAt s (stack * 4096 + k)
    r.valid && r.ch.toNat == p.1 && b2n r.pc == p.2.1 && r.bank.toNat == p.2.2.1 && r.row.toNat == p.2.2.2)

def remapFree (s : State) (stack : Nat) : Option Nat :=
  (List.range 4096).find? (fun k => !(remapAt s (stack * 4096 + k)).valid)

/-- The lowest spare of a bank that nothing has used since the last reset (R150). -/
def freeSpare (s : State) (bank : Nat) : Option Nat :=
  (List.range 64).find? (fun x => !s.stk.spareUsed.contains (bank, x))

/-- A row fault that cannot be remapped (R150). -/
def remapFull (s : State) (stack : Nat) (p : Nat × Nat × Nat × Nat) : State :=
  raiseEvent (bump s .remapFull) (evRemapFull stack)
    (packFields [(3, stack), (4, p.1), (1, p.2.1), (6, p.2.2.1), (15, p.2.2.2)])

/-- A burst is stored with symbols of its own (R151). -/
def putRaw (s : State) (b : Burst) (a : Nat) : State :=
  let s1 := memWrite s a b.bytes
  { s1 with raw := tput none s1.raw (a / 64) (some b) }

/-- The row is read through the outer decoder and its spare written (R151): a burst that decodes as corrected data with fresh
symbols, one that does not as it was read, check bytes included. -/
def remapCopy (s : State) (base : Nat) (odd : List (Nat × Burst × Burst)) : State :=
  (oddIn s odd base 1024).foldl (fun s o =>
    let (s1, d) := readTwice s o
    match d with
    | some x => memWrite s1 (o.1 / 64 * 64) x
    | none => putRaw s1 o.2.2 (o.1 / 64 * 64)) s

/-- A queued remap of a stack is made (R150, R151): the row is copied, and the entry names its spare. -/
def remapRow (s : State) (stack : Nat) (b : Nat) (pr : Nat) (odd : List (Nat × Burst × Burst)) : State :=
  let p := rowPlace b pr
  let bank := bankNumber stack p.1 p.2.1 p.2.2.1
  let slot := (remapFind s stack p).or (remapFree s stack)
  match slot, freeSpare s bank with
  | some k, some x =>
    let r : Remap := ⟨true, false, BitVec.ofNat 4 p.1, p.2.1 == 1, BitVec.ofNat 6 p.2.2.1, BitVec.ofNat 15 p.2.2.2,
      BitVec.ofNat 6 x⟩
    let s1 := remapCopy s (rowOfPair b pr * 1024) odd
    let s2 : State :=
      { s1 with stk := { s1.stk with remap := tput Remap.reset s1.stk.remap (stack * 4096 + k) r,
                                     spareUsed := s1.stk.spareUsed ++ [(bank, x)] } }
    raiseEvent (bump s2 .rowRemap) (evRowRemap stack) (remapNat r + stack * 18446744073709551616)
  | _, _ => remapFull s stack p

/-- Whether no booked computing command and no BRDL of a Bean is issued before an instant in ns (R141, R151). -/
def bookedClear (s : State) (b until_ : Nat) : Bool :=
  s.stk.queue.all (fun q =>
    !(q.bean.val == b && (opComputes q.op || q.op == .brdl)) || decide (until_ ≤ bookedAt q))

/-- Whether an ordinary access is queued for a Bean's pair. -/
def pairAwaited (s : State) (b : Nat) : Bool := s.stk.held.any (fun a => (beansOfRange a.addr a.len).contains b)

/-- When an idle pair's access gap has ended, at the earliest in the present tick, in ns. -/
def idleFrom (s : State) (b : Nat) : Nat := max (nowNs s) (beanOf s b).gapEnd

/-- Whether a remap may take a pair's idle stretch (R144, R151): after the held accesses and the refreshes owed, with 328 ns to
spare before the Bean's next booked command or BRDL. -/
def remapMay (s : State) (b : Nat) : Bool :=
  (beanOf s b).run.isNone && !bit s.stk.selfRef (beanStack b) && !beanHeld s b && !pairAwaited s b
  && decide (debtOf s (bankKey b 0) = 0) && decide (debtOf s (bankKey b 1) = 0) && bookedClear s b (idleFrom s b + 328)

/-- ROW_REMAP (R151): due for a stack with a queued remap whose pair's idle stretch has come to it. -/
def execRowRemap (stack : Fin 8) (odd : List (Nat × Burst × Burst)) (s : State) : Host.Outcome State Fault Refusal :=
  .next (
    match s.stk.remapQ.find? (fun q => beanStack q.1 == stack.val && remapMay s q.1) with
    | none => s
    | some q => remapRow { s with stk := { s.stk with remapQ := s.stk.remapQ.erase q } } stack.val q.1 q.2.toNat odd)

end Sys2Proof.Machine
end

