-- ==== Sys2Proof/Machine/Select.lean ====
section
/-! DEFINITION. Turnip: the selection key and the rank order (R232 to R235), de-duplication (R237), and TSEL, TMRG and TTHR
(R228, R236 to R242, R530). -/

namespace Sys2Proof.Machine

open Sys2Proof

/-! ### The rank order -/

/-- The score transform u (R232). -/
def scoreKey (b : F32) : BitVec 32 :=
  if fisNaN b then 0
  else
    let b := if b = 0x80000000#32 then 0 else b
    if b.getLsbD 31 then ~~~b else b ^^^ 0x80000000#32

/-- The 64-bit selection key (R233). -/
def selKey (c : Cand) : Nat := (scoreKey c.score).toNat * 4294967296 + (4294967295 - c.handle.toNat % 4294967296)

/-- Whether entry a ranks ahead of b (R234); identical entries do not. -/
def ranksAhead (a b : Cand) : Bool :=
  if selKey a ≠ selKey b then decide (selKey b < selKey a)
  else if a.handle ≠ b.handle then decide (a.handle < b.handle)
  else if a.version ≠ b.version then (versionNewer a.version b.version).1
  else if a.flags ≠ b.flags then decide (a.flags < b.flags)
  else if a.shardLo ≠ b.shardLo then decide (a.shardLo < b.shardLo)
  else decide (a.score < b.score)

/-- A list in rank order. -/
def rankSort (l : List Cand) : List Cand := sortBy ranksAhead l

/-- A valid entry (R235). -/
def candValid (c : Cand) : Bool :=
  !candIsEmpty c && !bitOf c.flags 7 && c.handle.toNat % 68719476736 != 68719476735

/-- An entry with EMPTY clear that is treated as empty (R235). -/
def candBadEntry (c : Cand) : Bool := !candIsEmpty c && !candValid c

/-! ### De-duplication (R237) -/

/-- Version a is newer than or equal to b (R32). -/
def versionGe (a b : BitVec 24) : Bool := a == b || (versionNewer a b).1

/-- The newest version of a group (R237). -/
def newestVersion (vs : List (BitVec 24)) : BitVec 24 :=
  match vs.find? (fun v => vs.all (versionGe v)) with
  | some v => v
  | none => vs.foldl (fun m v => if m < v then v else m) 0

/-- A group that CNT_VERSION_AMBIGUOUS counts (R32, R237). -/
def groupAmbiguous (vs : List (BitVec 24)) : Bool :=
  vs.any (fun a => vs.any (fun b => a - b == 0x800000)) || !vs.any (fun v => vs.all (versionGe v))

/-- The handles of a list, each once. -/
def handlesOf (l : List Cand) : List (BitVec 48) := uniq (l.map (·.handle))

/-- The entries of one handle. -/
def groupOf (l : List Cand) (h : BitVec 48) : List Cand := l.filter (fun c => c.handle == h)

/-- The entries of a group that carry its newest version. -/
def newestOf (gr : List Cand) : List Cand :=
  let v := newestVersion (gr.map (·.version))
  gr.filter (fun c => c.version == v)

/-- DEDUP (R237): from each group, the first in rank order of the newest. -/
def dedup (l : List Cand) : List Cand := (handlesOf l).filterMap (fun h => (rankSort (newestOf (groupOf l h))).head?)

/-- A group whose newest copies differ in score bits, -0 read as +0 (R237). -/
def groupDiverges (gr : List Cand) : Bool :=
  let sc := (newestOf gr).map (fun c => fposZero c.score)
  sc.any (fun a => sc.any (fun b => a != b))

/-- A group that held an older version (R237). -/
def groupStale (gr : List Cand) : Bool := decide ((newestOf gr).length < gr.length)

/-- The groups of a list that a test holds of. -/
def countGroups (l : List Cand) (p : List Cand → Bool) : Nat := ((handlesOf l).filter (fun h => p (groupOf l h))).length

/-! ### The selection descriptor (R228) -/

structure SelDesc where
  nMax : Nat
  k : Nat
  budget : Nat
deriving DecidableEq, Repr

def selDescOf (n : Nat) : SelDesc := ⟨bitsOf n 107 21, bitsOf n 100 7, bitsOf n 87 13⟩

/-- Candidate entries at a tile-store offset. -/
def readCands (s : State) (t off n : Nat) : List Cand :=
  (List.range n).map (fun i => candOf (leNat (srcRead s t (off + 16 * i) 16)))

/-- The cursor that S[D] gives (R239): none, an entry, or an illegal word
(a bit outside bit 63 and bits 19:0 set). -/
inductive Cursor where
  | none_
  | entry (c : Cand)
  | illegal
deriving DecidableEq, Repr

def cursorOf (s : State) (t : Nat) (w : Word64) : Cursor :=
  let n := w.toNat
  if bitOf n 63 = false then .none_
  else if bitsOf n 20 43 ≠ 0 ∨ !tileRangeOk s t (bitsOf n 0 20) 16 then .illegal
  else .entry (candOf (leNat (srcRead s t (bitsOf n 0 20) 16)))

/-- What is left after the cursor (R239). -/
def afterCursor (cur : Cursor) (l : List Cand) : List Cand :=
  match cur with
  | .none_ => l
  | .illegal => []
  | .entry c => if candIsEmpty c then [] else l.filter (fun e => ranksAhead c e)

/-- TIE_CUT (R236): more than k remained, and the scores at positions k - 1 and k have equal u. -/
def tieCut (l : List Cand) (k : Nat) : Bool :=
  match l[k - 1]?, l[k]? with
  | some a, some b => scoreKey a.score == scoreKey b.score
  | _, _ => false

/-- The k entries a selection writes (R236, R241). -/
def selectOut (l : List Cand) (k : Nat) : List Cand :=
  let o := l.take k
  o ++ List.replicate (k - o.length) emptyCand

/-- The operands of a Turnip instruction at issue (R228, R530). -/
structure TurnipIn where
  desc : SelDesc
  src : Nat
  count : Nat
  out : Nat
  word : Word64
  len : Nat
deriving DecidableEq, Repr

def turnipIn (s : State) (t : Nat) (d a b c : Fin 32) (i : Nat) : TurnipIn :=
  let r := (tileOf s t).src.s
  let ds := selDescOf (constOf s t i)
  { desc := ds, src := (r[a]).toNat, count := (r[b]).toNat, out := (r[c]).toNat, word := r[d],
    len := min (r[b]).toNat ds.nMax }

/-- The counts of the entries an instruction read (R32, R235). -/
def countRead (s : State) (l : List Cand) : State :=
  bumpBy (bumpBy s .selectBadentry (l.filter candBadEntry).length) .versionAmbiguous
    (countGroups (l.filter candValid) (fun gr => groupAmbiguous (gr.map (·.version))))

/-- The counts of DEDUP (R237). -/
def countDedup (s : State) (v : List Cand) : State :=
  bumpBy (bumpBy (bumpBy s .scoreDivergence (countGroups v groupDiverges)) .mergeStale (countGroups v groupStale)) .mergeDup
    (v.length - (dedup v).length)

/-- The bytes that a selection reads: its input list, and the cursor's entry (R228, R239). -/
def selectReads (x : TurnipIn) (cur : Cursor) : List (Nat × Nat) :=
  (x.src, 16 * x.len) :: (match cur with | .entry _ => [(bitsOf x.word.toNat 0 20, 16)] | _ => [])

/-- TSEL and TMRG (R228, R236, R239, R530). An input that holds an uncorrectable word selects nothing, as an illegal one (R83, R166,
log 16). -/
def selectEffect (merge : Bool) (s : State) (tile : Fin 192) (ecc : Ecc) (d a b c : Fin 32) (pd : Fin 16) (i : Nat) : State :=
  let t := tile.val
  let x := turnipIn s t d a b c i
  let s1 := bumpIf (decide (x.desc.nMax < x.count)) s .selectTrunc
  let k := x.desc.k
  let finish (s : State) (n : Nat) (tie : Bool) : State :=
    onTile s t (fun y => setP (setS y d (BitVec.ofNat 64 n)) pd (statusPred tie))
  let empties := (List.replicate k emptyCand).flatMap candBytes
  let cur := cursorOf s t x.word
  if !spanOk s t x.out (16 * k) then finish (bump s1 .addrFault) 0 false
  else if !spanOk s t x.src (16 * x.len) || cur == .illegal then
    finish (tileWrite (bump s1 .addrFault) t x.out empties) 0 false
  else
    let (s2, ok) := tileReport s1 tile (selectReads x cur) ecc
    if ok then
      let all := readCands s t x.src x.len
      let valid := all.filter candValid
      let s3 := countRead s2 all
      let s4 := if merge then countDedup s3 valid else s3
      let v := rankSort (afterCursor cur (if merge then dedup valid else valid))
      finish (tileWrite s4 t x.out ((selectOut v k).flatMap candBytes)) (min v.length k) (tieCut v k)
    else finish (tileWrite s2 t x.out empties) 0 false

/-- TTHR (R105, R106, R242, R530). An input that holds an uncorrectable word keeps nothing, as an illegal one (R83, R166, log 16). -/
def thresholdEffect (s : State) (tile : Fin 192) (ecc : Ecc) (d a b c : Fin 32) (i : Nat) : State :=
  let t := tile.val
  let x := turnipIn s t d a b c i
  let s1 := bumpIf (decide (x.desc.nMax < x.count)) s .selectTrunc
  let finish (s : State) (n : Nat) : State := onTile s t (fun y => setS y d (BitVec.ofNat 64 n))
  if !spanOk s t x.out (16 * x.desc.budget) || !spanOk s t x.src (16 * x.len) then finish (bump s1 .addrFault) 0
  else
    let (s2, ok) := tileReport s1 tile [(x.src, 16 * x.len)] ecc
    if ok then
      let all := readCands s t x.src x.len
      let theta : F32 := x.word.truncate 32
      let kept := (rankSort (all.filter candValid)).filter (fun e => fle theta e.score)
      let out := kept.take x.desc.budget
      let s3 := bumpBy (countRead s2 all) .pruneBudget (kept.length - out.length)
      finish (tileWrite s3 t x.out (out.flatMap candBytes)) out.length
    else finish s2 0

/-- TSEL (R228, R236). -/
def execTsel (t : Fin 192) (g : Guard) (d a b c : Fin 32) (pd : Fin 16) (i : Fin 1024) (s : State) :
    Host.Outcome State Fault Refusal :=
  .next (issue s t g (.tsel t g d a b c pd i) (fun s1 => selectEffect false s1 t g.ecc d a b c pd i.val))

/-- TMRG (R228, R236, R237). -/
def execTmrg (t : Fin 192) (g : Guard) (d a b c : Fin 32) (pd : Fin 16) (i : Fin 1024) (s : State) :
    Host.Outcome State Fault Refusal :=
  .next (issue s t g (.tmrg t g d a b c pd i) (fun s1 => selectEffect true s1 t g.ecc d a b c pd i.val))

/-- TTHR (R228, R242). -/
def execTthr (t : Fin 192) (g : Guard) (d a b c : Fin 32) (i : Fin 1024) (s : State) : Host.Outcome State Fault Refusal :=
  .next (issue s t g (.tthr t g d a b c i) (fun s1 => thresholdEffect s1 t g.ecc d a b c i.val))

end Sys2Proof.Machine
end

