-- ==== Sys2Proof/Machine/Lists.lean ====
section
/-! DEFINITION. List messages of a search's merge tree (R245 to R248, R425): the summary, what a parent asks of a child's list, and what
a node adds to the lists it sends. -/

namespace Sys2Proof.Machine

open Sys2Proof

/-! ### The summary (R246) -/

/-- The fields of a list summary that the node itself looks at. -/
structure ListSummary where
  snapLo : Nat
  ctx : Nat
  count : Nat
  rehearsal : Bool
  reserved : Nat
deriving DecidableEq, Repr

def listSummaryOf (n : Nat) : ListSummary :=
  { snapLo := bitsOf n 112 16, ctx := bitsOf n 100 12, count := bitsOf n 87 13, rehearsal := bitOf n 83,
    reserved := bitsOf n 84 3 + bitsOf n 61 21 }

/-- A summary of the search that an admitted request or a member's visit is (R247). -/
def summaryFor (a : Adm) (x : ListSummary) : Bool :=
  x.snapLo == a.t % 65536 && x.ctx == a.req.ctx.toNat && x.reserved == 0

/-- An admitted search, or a member's part of one. -/
def searching (a : Adm) : Bool := isSearch a.req || a.entry.isSome

/-- Whether a payload begins a list message of a search: the node knows its summary by its fields (log 135). -/
def beginsList (a : Adm) (d : List Byte) : Bool :=
  let x := listSummaryOf (leAt d 0 16)
  searching a && summaryFor a x && decide (x.count ≤ 4096)

/-- Whether the node says REHEARSAL for a search (R248, R425): a window has met its span, or a child's list said so. -/
def rehearsed (s : State) (a : Adm) : Bool := a.reh || inRehearsal s a.t s.clk.tick

/-- A list message's first payload with REHEARSAL set where the node says so; any other payload as it is. -/
def listPayload (s : State) (b : Option Adm) (d : List Byte) : List Byte :=
  match b with
  | none => d
  | some a => if beginsList a d && rehearsed s a then d.take 10 ++ [d.getD 10 0 ||| 8] ++ d.drop 11 else d

/-! ### A child's list (R247) -/

/-- Cells of a list message (R245). -/
def listCells (k : Nat) : Nat := (k + 1 + 14) / 15

/-- A cell of a child's list as it stands in a tile's store: none where it did not land since the search's opportunity by its deadline,
or carries the void flag. -/
def childCell (s : State) (t : Nat) (a : Adm) (off : Nat) : Option (List Byte) :=
  let c := readBytes (tileOf s t).store off 256
  if tget 0 (tileOf s t).cellAt off ≤ a.opp ∨ (cellHeadOf c).void = true then none else some (cellPayload c)

/-- The payloads of a child's list, if every one is there. -/
def childPayload (s : State) (t : Nat) (a : Adm) (offs : List Nat) : Option (List Byte) :=
  let l := offs.map (childCell s t a)
  if l.all (·.isSome) then some ((l.filterMap id).flatten) else none

/-- Entries in rank order (R234). -/
def inRankOrder : List Cand → Bool
  | a :: b :: l => !ranksAhead b a && inRankOrder (b :: l)
  | _ => true

/-- What a parent asks of a list whose cells are all there (R247). -/
def childGood (a : Adm) (k : Nat) (d : List Byte) : Bool :=
  let x := listSummaryOf (leAt d 0 16)
  let l := (List.range (d.length / 16 - 1)).map (fun i => candOf (leAt d (16 * (i + 1)) 16))
  summaryFor a x && decide (x.count ≤ k) && (l.take x.count).all candValid && inRankOrder (l.take x.count) &&
    (l.drop x.count).all candIsEmpty

/-- One child's list judged (R247): discarded and counted, or accepted, and what it says of REHEARSAL kept. -/
def judgeChild (s : State) (x : ChildList) : State :=
  match admOf s x.slot.val with
  | none => s
  | some a =>
    if searching a && x.offs.length == listCells x.k.toNat then
      match childPayload s x.tile.val a (x.offs.map (·.toNat)) with
      | none => bump s .mergeMiss
      | some d =>
        if childGood a x.k.toNat d then
          onAdm s x.slot.val (fun y => { y with reh := y.reh || (listSummaryOf (leAt d 0 16)).rehearsal })
        else bump s .mergeStray
    else s

end Sys2Proof.Machine
end

