-- ==== Sys2Proof/Machine/Move.lean ====
section
/-! DEFINITION. The memory and move slot but for gathers, fetches, directory access, Bean lists and text requests: LDS,
STS, LDV, STV, XLOAD, XSTORE (R200 to R202, R530), and CSEND (R229). -/

namespace Sys2Proof.Machine

open Sys2Proof

/-! ### LDS, LDV, STS, STV (R201) -/

/-- S[A] + sext25(X). -/
def moveAddr (x : Tile) (a : Fin 32) (off : BitVec 25) : Word64 := x.src.s[a] + off.signExtend 64

/-- A suppressed access (R164, R168, R201): PD is cleared and CNT_ADDR_FAULT counts it. -/
def suppressed (s : State) (t : Fin 192) (pd : Fin 16) : State :=
  bump (onTile s t.val (fun x => setP x pd 0)) .addrFault

/-- A read of a Pod's store through the port (R165, R201): the bytes beyond the first 128 a cycle later. -/
def podHalves (s : State) (t off n : Nat) : List Byte :=
  let e := podEff s t
  podRead s (podOfTile t) e off (min n 128) ++ podRead s (podOfTile t) (e + 1) (off + 128) (n - 128)

/-- A write to a Pod's store through the port, in the same two halves. -/
def podStore (s : State) (t off : Nat) (d : List Byte) : State :=
  let e := podEff s t
  let s1 := podWrite s (podOfTile t) e t off (d.take 128)
  if d.length ≤ 128 then s1 else podWrite s1 (podOfTile t) (e + 1) t (off + 128) (d.drop 128)

/-- A load of `n` bytes from the tile's or its Pod's store (R166, R201): corrected words are counted; an uncorrectable
word clears PD and the destination keeps its value (log 13); else `f` writes the destination and PD is set. -/
def storeLoad (s : State) (t : Fin 192) (a : Fin 32) (x : BitVec 25) (pd : Fin 16) (ecc : Ecc) (n : Nat)
    (f : Tile → List Byte → Tile) : State :=
  let land (u : SramUnit) (off : Nat) (d : List Byte) : State :=
    let (s1, ok) := storeReport s t u [(off, n)] ecc
    onTile s1 t.val (fun y => if ok then setP (f y d) pd (BitVec.allOnes 64) else setP y pd 0)
  match placeOf s t.val (moveAddr (tileOf s t.val) a x) n false with
  | .tile off => land (.tile t) off (srcRead s t.val off n)
  | .pod off => land (.pod (Fin.ofNat 8 (podOfTile t.val))) off (podHalves s t.val off n)
  | _ => suppressed s t pd

/-- A store of bytes to the tile's or its Pod's store (R201). -/
def storeStore (s : State) (t : Fin 192) (a : Fin 32) (x : BitVec 25) (pd : Fin 16) (d : List Byte) : State :=
  let ok (s1 : State) : State := onTile s1 t.val (fun y => setP y pd (BitVec.allOnes 64))
  match placeOf s t.val (moveAddr (tileOf s t.val) a x) d.length true with
  | .tile off => ok (tileWrite s t.val off d)
  | .pod off => ok (podStore s t.val off d)
  | _ => suppressed s t pd

/-- LDS (R200, R201): 8 bytes into S[D]. -/
def execLds (t : Fin 192) (g : Guard) (d a : Fin 32) (pd : Fin 16) (x : BitVec 25) (s : State) :
    Host.Outcome State Fault Refusal :=
  .next (issue s t g (.lds t g d a pd x) (fun s1 => storeLoad s1 t a x pd g.ecc 8 (fun y b => setS y d (BitVec.ofNat 64 (leNat b)))))

/-- STS (R200, R201). -/
def execSts (t : Fin 192) (g : Guard) (a b : Fin 32) (pd : Fin 16) (x : BitVec 25) (s : State) :
    Host.Outcome State Fault Refusal :=
  .next (issue s t g (.sts t g a b pd x) (fun s1 => storeStore s1 t a x pd (leBytes 8 ((tileOf s1 t.val).src.s[b]).toNat)))

/-- LDV (R200, R201): 256 bytes into V[D]. -/
def execLdv (t : Fin 192) (g : Guard) (d : Fin 64) (a : Fin 32) (pd : Fin 16) (x : BitVec 25) (s : State) :
    Host.Outcome State Fault Refusal :=
  .next (issue s t g (.ldv t g d a pd x) (fun s1 => storeLoad s1 t a x pd g.ecc 256 (fun y b => setV y d (BitVec.ofNat 2048 (leNat b)))))

/-- STV (R200, R201). -/
def execStv (t : Fin 192) (g : Guard) (a : Fin 32) (b : Fin 64) (pd : Fin 16) (x : BitVec 25) (s : State) :
    Host.Outcome State Fault Refusal :=
  .next (issue s t g (.stv t g a b pd x) (fun s1 => storeStore s1 t a x pd (leBytes 256 ((tileOf s1 t.val).src.v[b]).toNat)))

/-! ### XLOAD and XSTORE (R202) -/

/-- An asynchronous instruction with an illegal range or address (R202, R530): its element ends REFUSED. -/
def refusedElem (s : State) (t : Fin 192) (w : Fin 64) : State := bump (addEnded s t w .refused) .addrFault

/-- A REMOTE copy of an XLOAD (R202, R382, R388): ABSENT in local-hot mode and for a node that is no other member of the
epoch; else remote reads go out. -/
def xloadRemote (s : State) (t : Fin 192) (w : Fin 64) (node seg off dst len : Nat) : State :=
  match boundCtxOf s t with
  | none => refusedElem s t w
  | some (a, c) =>
    let n : NodeId := BitVec.ofNat 15 node
    if c.tier.localHot ∨ isMember s n = false ∨ n = s.aon.nodeId then addEnded s t w .absent
    else
      let r : RRead := ⟨s.nextElem, t, w, n, seg, off, dst, len⟩
      let ps := rreadPieces r
      sendReads (addElem s t w (.loadRemote dst ps.length)) a.req.ctx.toNat ps

/-- XLOAD from where its plan address leads (R202). Bytes of the node's own stores and memory are those of the issue tick
(R170). -/
def xloadAt (s : State) (t : Fin 192) (addr : Word64) (dst len : Nat) (w : Fin 64) : State :=
  if tileRangeOk s t.val dst len then
    match placeOf s t.val addr len false with
    | .pod off => addElem s t w (.load dst (podRead s (podOfTile t.val) (podEff s t.val) off len) (.pod off))
    | .node a => tileAccess (addElem s t w (.load dst (memRead s a len) (.node a))) s.nextElem a len false
    | .remote n g off => xloadRemote s t w n g off dst len
    | .host _ off => addElem s t w (.loadHost dst len off)
    | _ => refusedElem s t w
  else refusedElem s t w

/-- XLOAD (R202). -/
def execXload (t : Fin 192) (g : Guard) (a b : Fin 32) (lenM1 : BitVec 17) (w : Fin 64) (s : State) :
    Host.Outcome State Fault Refusal :=
  .next (issue s t g (.xload t g a b lenM1 w) (fun s1 =>
    let x := (tileOf s1 t.val).src.s
    xloadAt s1 t x[a] (x[b]).toNat (lenM1.toNat + 1) w))

/-- The bytes of an XSTORE on their way to where its plan address leads (R202): a write to node memory waits for the boundary (R170),
a write to the result buffer takes its place on the ordered path at issue (R199, R430). -/
def xstoreSend (s : State) (t : Fin 192) (w : Fin 64) (d : List Byte) (place : Place) : State :=
  match place with
  | .pod off => podWrite (addElem s t w .storePod) (podOfTile t.val) (podEff s t.val) t.val off d
  | .node a =>
    let s1 := addElem s t w .storeNode
    let q : TileWrite := ⟨t.val, s.nextElem, a, d⟩
    { s1 with memWrites := s1.memWrites ++ [q] }
  | .host _ off =>
    let s1 := addElem s t w .storeHost
    match boundAdm s (tileOf s t.val) with
    | none => s1
    | some m => { s1 with io := { s1.io with hostWrites := s1.io.hostWrites ++ [(m.req.resAddr + off, d)] } }
  | _ => refusedElem s t w

/-- Whether an XSTORE may write a place (R202). -/
def isStoreTarget : Place → Bool
  | .pod _ => true
  | .node _ => true
  | .host _ _ => true
  | _ => false

/-- XSTORE (R202): an uncorrectable word in what it reads makes the element UNREADABLE, and nothing is written (R83, log 16). -/
def xstoreAt (s : State) (t : Fin 192) (addr : Word64) (src len : Nat) (w : Fin 64) (ecc : Ecc) : State :=
  let place := placeOf s t.val addr len true
  if tileRangeOk s t.val src len && isStoreTarget place then
    let (s1, ok) := tileReport s t [(src, len)] ecc
    if ok then xstoreSend s1 t w (srcRead s t.val src len) place else addEnded s1 t w .unreadable
  else refusedElem s t w

/-- XSTORE (R202). -/
def execXstore (t : Fin 192) (g : Guard) (a b : Fin 32) (lenM1 : BitVec 17) (w : Fin 64) (s : State) :
    Host.Outcome State Fault Refusal :=
  .next (issue s t g (.xstore t g a b lenM1 w) (fun s1 =>
    let x := (tileOf s1 t.val).src.s
    xstoreAt s1 t x[a] (x[b]).toNat (lenM1.toNat + 1) w g.ecc))

/-! ### CSEND (R229, R370) -/

/-- A send-list entry (R370). -/
structure SendEnt where
  port : Nat
  tickMod : Nat
  slot : Nat
  dest : NodeId
  hops : Nat
  tag : BitVec 16
  repeat_ : Nat
deriving DecidableEq, Repr

def sendEntOf (n : Nat) : SendEnt :=
  { port := bitsOf n 61 3, tickMod := bitsOf n 55 6, slot := bitsOf n 46 9, dest := BitVec.ofNat 15 (bitsOf n 31 15),
    hops := bitsOf n 24 7, tag := BitVec.ofNat 16 (bitsOf n 8 16), repeat_ := bitsOf n 5 3 }

/-- The cell of a CSEND issued in tick t fills the slot of tick t + 1 (R229, R370): its header comes from the send-list
entry and the node; an illegal payload range sends it void and zero, and is counted, and so is sent a payload that holds an
uncorrectable word (R83, R166, log 16). In a place that no request took it is sent as an IDLE cell (R264, R367, log 136), and the
summary of a list message takes REHEARSAL from the node (R248, R425). -/
def csendEff (s : State) (t : Fin 192) (ecc : Ecc) (off : Nat) (n : Nat) : State :=
  let e := sendEntOf n
  let inRange := tileRangeOk s t.val off 240
  let (s1, ok) := if inRange then tileReport s t [(off, 240)] ecc else (bump s .addrFault, false)
  let tick := s.clk.tick + 1
  let x := tileOf s t.val
  let used := x.phaseUsed || placeTaken s x.phasePipe x.phaseT
  let h : CellHead :=
    { tag := e.tag, tickLo := BitVec.ofNat 16 tick, hops := e.hops, slot := e.slot, type := if used then tyStatic else tyIdle,
      void := used && !ok, yellow := false, retried := false, src := s.aon.nodeId, dest := e.dest, partition := s.mach.partition,
      plen := if used then 15 else 0 }
  let d := if ok && used then listPayload s (boundAdm s x) (srcRead s t.val off 240) else []
  sendCell s1 (Fin.ofNat 6 e.port) tick e.slot (mkCell h d)

/-- CSEND (R229): send entry `e` of the tile's send list; verification has bounded it. -/
def execCsend (t : Fin 192) (g : Guard) (a : Fin 32) (e : BitVec 12) (s : State) : Host.Outcome State Fault Refusal :=
  .next (issue s t g (.csend t g a e) (fun s1 =>
    match (tileSec s1 t.val).bind (fun x => x.sends[e.toNat]?) with
    | none => s1
    | some n => csendEff s1 t g.ecc ((tileOf s1 t.val).src.s[a]).toNat n.toNat))

end Sys2Proof.Machine
end

