-- ==== Sys2Proof/Machine/Vector.lean ====
section
/-! DEFINITION. The vector slot (R213 to R216) and the absmax unit (R74): one meaning per instruction. -/

namespace Sys2Proof.Machine

open Sys2Proof

/-! ### Lanes (R159, R181) -/

/-- Element e of a register of elements of `w` bits. -/
def elemAt (v : VReg) (w e : Nat) : BitVec w := v.extractLsb' (w * e) w

/-- 32-bit lane i. -/
def laneAt (v : VReg) (i : Nat) : BitVec 32 := elemAt v 32 i

/-- A register from its 64 lanes. -/
def vregOf (f : Nat → BitVec 32) : VReg :=
  BitVec.ofNat 2048 (packFields ((List.range 64).map (fun i => (32, (f i).toNat))))

/-- New lanes where the mask bit is 1, old ones elsewhere (R213). -/
def maskLanes (m : Word64) (old : VReg) (f : Nat → BitVec 32) : VReg :=
  vregOf (fun i => if m.getLsbD i then f i else laneAt old i)

/-- The lanes a mask writes. -/
def lanesWritten (m : Word64) : List Nat := (List.range 64).filter (fun i => m.getLsbD i)

/-- V[D] lane i := f (lane i of V[A]) (lane i of V[B]), under the mask. -/
def vecOp (s : State) (t : Fin 192) (g : Guard) (i : Instr) (d a b : Fin 64) (m : Fin 16)
    (f : BitVec 32 → BitVec 32 → BitVec 32) : State :=
  issueTile s t g i (fun x =>
    setV x d (maskLanes x.src.p[m] x.src.v[d] (fun i => f (laneAt x.src.v[a] i) (laneAt x.src.v[b] i))))

/-- V[D] lane i := f (lane i of V[A]), under the mask. -/
def vecOp1 (s : State) (t : Fin 192) (g : Guard) (i : Instr) (d a : Fin 64) (m : Fin 16) (f : BitVec 32 → BitVec 32) : State :=
  issueTile s t g i (fun x => setV x d (maskLanes x.src.p[m] x.src.v[d] (fun i => f (laneAt x.src.v[a] i))))

/-- An operation by lane type. -/
def byType (ty : LaneTy) (f i : BitVec 32 → BitVec 32 → BitVec 32) : BitVec 32 → BitVec 32 → BitVec 32 :=
  match ty with
  | .f32 => f
  | .i32 => i

/-- VADD (R213). -/
def execVadd (t : Fin 192) (g : Guard) (d a b : Fin 64) (m : Fin 16) (ty : LaneTy) (s : State) :
    Host.Outcome State Fault Refusal :=
  .next (vecOp s t g (.vadd t g d a b m ty) d a b m (byType ty fadd (· + ·)))

/-- VSUB (R213). -/
def execVsub (t : Fin 192) (g : Guard) (d a b : Fin 64) (m : Fin 16) (ty : LaneTy) (s : State) :
    Host.Outcome State Fault Refusal :=
  .next (vecOp s t g (.vsub t g d a b m ty) d a b m (byType ty fsub (· - ·)))

/-- VMUL (R213): I32 keeps the low 32 bits. -/
def execVmul (t : Fin 192) (g : Guard) (d a b : Fin 64) (m : Fin 16) (ty : LaneTy) (s : State) :
    Host.Outcome State Fault Refusal :=
  .next (vecOp s t g (.vmul t g d a b m ty) d a b m (byType ty fmul (· * ·)))

/-- VFMA (R213): D := A × B + D with one rounding. -/
def execVfma (t : Fin 192) (g : Guard) (d a b : Fin 64) (m : Fin 16) (s : State) : Host.Outcome State Fault Refusal :=
  .next (issueTile s t g (.vfma t g d a b m) (fun x =>
    setV x d (maskLanes x.src.p[m] x.src.v[d] (fun i =>
      ffma (laneAt x.src.v[a] i) (laneAt x.src.v[b] i) (laneAt x.src.v[d] i)))))

/-- VMAX (R213, R214). -/
def execVmax (t : Fin 192) (g : Guard) (d a b : Fin 64) (m : Fin 16) (ty : LaneTy) (s : State) :
    Host.Outcome State Fault Refusal :=
  .next (vecOp s t g (.vmax t g d a b m ty) d a b m (byType ty fmaxv (fun x y => if BitVec.slt x y then y else x)))

/-- VMIN (R213, R214). -/
def execVmin (t : Fin 192) (g : Guard) (d a b : Fin 64) (m : Fin 16) (ty : LaneTy) (s : State) :
    Host.Outcome State Fault Refusal :=
  .next (vecOp s t g (.vmin t g d a b m ty) d a b m (byType ty fminv (fun x y => if BitVec.slt y x then y else x)))

/-- VABS on one lane (R213, R214). -/
def absLane (ty : LaneTy) (x : BitVec 32) : BitVec 32 :=
  match ty with
  | .f32 => if fisNaN x then f32NaN else fabs x
  | .i32 => if x.getLsbD 31 then 0 - x else x

/-- VABS (R213). -/
def execVabs (t : Fin 192) (g : Guard) (d a : Fin 64) (m : Fin 16) (ty : LaneTy) (s : State) :
    Host.Outcome State Fault Refusal :=
  .next (vecOp1 s t g (.vabs t g d a m ty) d a m (absLane ty))

/-- The 64 bits of a lane-wise test. -/
def laneBits (f : Nat → Bool) : Word64 :=
  BitVec.ofNat 64 (packFields ((List.range 64).map (fun i => (1, b2n (f i)))))

/-- VCMP (R213, R214): bits of P[PD] whose bit in P[C] is 0 keep their old value. -/
def execVcmp (t : Fin 192) (g : Guard) (pd : Fin 16) (a b : Fin 64) (m : Fin 16) (c : VCond) (s : State) :
    Host.Outcome State Fault Refusal :=
  .next (issueTile s t g (.vcmp t g pd a b m c) (fun x =>
    let r := laneBits (fun i => vcmpHolds c (laneAt x.src.v[a] i) (laneAt x.src.v[b] i))
    let k := x.src.p[m]
    setP x pd ((r &&& k) ||| (x.src.p[pd] &&& ~~~k))))

/-- VSEL (R213): C selects A or B for every lane. -/
def execVsel (t : Fin 192) (g : Guard) (d a b : Fin 64) (m : Fin 16) (s : State) : Host.Outcome State Fault Refusal :=
  .next (issueTile s t g (.vsel t g d a b m) (fun x =>
    setV x d (vregOf (fun i => if (x.src.p[m]).getLsbD i then laneAt x.src.v[a] i else laneAt x.src.v[b] i))))

/-- VDIV (R213). -/
def execVdiv (t : Fin 192) (g : Guard) (d a b : Fin 64) (m : Fin 16) (s : State) : Host.Outcome State Fault Refusal :=
  .next (vecOp s t g (.vdiv t g d a b m) d a b m fdiv)

/-- VSQRT (R213). -/
def execVsqrt (t : Fin 192) (g : Guard) (d a : Fin 64) (m : Fin 16) (s : State) : Host.Outcome State Fault Refusal :=
  .next (vecOp1 s t g (.vsqrt t g d a m) d a m fsqrt)

/-- VRCP (R213). -/
def execVrcp (t : Fin 192) (g : Guard) (d a : Fin 64) (m : Fin 16) (s : State) : Host.Outcome State Fault Refusal :=
  .next (vecOp1 s t g (.vrcp t g d a m) d a m frcp)

/-- VRSQRT (R213). -/
def execVrsqrt (t : Fin 192) (g : Guard) (d a : Fin 64) (m : Fin 16) (s : State) : Host.Outcome State Fault Refusal :=
  .next (vecOp1 s t g (.vrsqrt t g d a m) d a m frsqrt)

/-- VEXP2 (R213, R214). -/
def execVexp2 (t : Fin 192) (g : Guard) (d a : Fin 64) (m : Fin 16) (s : State) : Host.Outcome State Fault Refusal :=
  .next (vecOp1 s t g (.vexp2 t g d a m) d a m fexp2)

/-! ### Conversions (R215) -/

/-- Narrow elements of width `w` written in group h of a register (R215): element 64h + i := f i where its mask bit is 1. -/
def writeNarrow (v : VReg) (m : Word64) (w h : Nat) (f : Nat → BitVec w) : VReg :=
  (List.range 64).foldl (fun v i =>
    let e := 64 * h + i
    if maskBit m e (2048 / w) then
      (v &&& ~~~((BitVec.allOnes w).zeroExtend 2048 <<< (w * e))) ||| ((f i).zeroExtend 2048 <<< (w * e))
    else v) v

/-- A narrow integer clamped from an I32 lane. -/
def clampLane (w : Nat) (lo hi : Int) (x : BitVec 32) : BitVec w := BitVec.ofInt w (clampInt lo hi x.toInt)

/-- The result of VCVT on registers A and the old D, under a mask (R215). -/
def convert (k : Conv) (a old : VReg) (m : Word64) : VReg :=
  match k with
  | .f16ToF32 h => maskLanes m old (fun i => f16ToF32 (elemAt a 16 (64 * h.val + i)))
  | .f32ToF16 h => writeNarrow old m 16 h.val (fun i => f32ToF16 (laneAt a i))
  | .e8ToF32 h => maskLanes m old (fun i => intToF32 (elemAt a 8 (64 * h.val + i)).toInt)
  | .e4ToF32 h => maskLanes m old (fun i => intToF32 (elemAt a 4 (64 * h.val + i)).toInt)
  | .i32ToE8 h => writeNarrow old m 8 h.val (fun i => clampLane 8 (-128) 127 (laneAt a i))
  | .i32ToE4 h => writeNarrow old m 4 h.val (fun i => clampLane 4 (-8) 7 (laneAt a i))
  | .f32ToI32 => maskLanes m old (fun i => f32ToI32 (laneAt a i))
  | .i32ToF32 => maskLanes m old (fun i => intToF32 (laneAt a i).toInt)
  | .s8ToF32 h => maskLanes m old (fun i => s8ToF32 (elemAt a 8 (64 * h.val + i)))
  | .b1ToF32 h => maskLanes m old (fun i => if elemAt a 1 (64 * h.val + i) = 1#1 then 0xBF800000#32 else 0x3F800000#32)
  | .f32ToF16Sat h => writeNarrow old m 16 h.val (fun i => (f32ToF16Sat (laneAt a i)).1)

/-- The clips a VCVT counts, in lanes it writes only (R71, R215). -/
def convertClips (k : Conv) (a : VReg) (m : Word64) : Nat :=
  match k with
  | .f32ToF16Sat h =>
    ((List.range 64).filter (fun i => maskBit m (64 * h.val + i) 128 && (f32ToF16Sat (laneAt a i)).2)).length
  | _ => 0

/-- VCVT (R215). -/
def execVcvt (t : Fin 192) (g : Guard) (d a : Fin 64) (m : Fin 16) (k : Conv) (s : State) :
    Host.Outcome State Fault Refusal :=
  .next (issue s t g (.vcvt t g d a m k) (fun s1 =>
    let r := (tileOf s1 t.val).src
    bumpBy (onTile s1 t.val (fun x => setV x d (convert k r.v[a] r.v[d] r.p[m]))) .quantClip
      (convertClips k r.v[a] r.p[m])))

/-! ### The quantiser's steps (R216) -/

def qmaxOf (e8 : Bool) : Int := if e8 then 127 else 7

/-- One lane of VQ: the code, and whether it is counted as a clip (R216): when the quotient lies outside -QMAX to QMAX, also one
that rounds to ±QMAX (log 30). -/
def quantLane (e8 : Bool) (a b : F32) : BitVec 32 × Bool :=
  if fisZero b then (0, !fisZero a)
  else
    match roundEven (f32Val (fdiv a b)) with
    | none => (0, false)
    | some q =>
      let c := clampInt (-(qmaxOf e8)) (qmaxOf e8) q
      (BitVec.ofInt 32 c, flt (intToF32 (qmaxOf e8)) (fabs (fdiv a b)))

/-- VQ (R216). -/
def execVq (t : Fin 192) (g : Guard) (d a b : Fin 64) (m : Fin 16) (e8 : Bool) (s : State) :
    Host.Outcome State Fault Refusal :=
  .next (issue s t g (.vq t g d a b m e8) (fun s1 =>
    let r := (tileOf s1 t.val).src
    let q (i : Nat) := quantLane e8 (laneAt r.v[a] i) (laneAt r.v[b] i)
    bumpBy (onTile s1 t.val (fun x => setV x d (maskLanes r.p[m] r.v[d] (fun i => (q i).1)))) .quantClip
      ((lanesWritten r.p[m]).filter (fun i => (q i).2)).length))

/-- VF16UP (R216). -/
def execVf16up (t : Fin 192) (g : Guard) (d a : Fin 64) (m : Fin 16) (s : State) : Host.Outcome State Fault Refusal :=
  .next (issue s t g (.vf16up t g d a m) (fun s1 =>
    let r := (tileOf s1 t.val).src
    let q (i : Nat) := f16Up (laneAt r.v[a] i)
    bumpBy (onTile s1 t.val (fun x => setV x d (maskLanes r.p[m] r.v[d] (fun i => (q i).1.zeroExtend 32)))) .quantClip
      ((lanesWritten r.p[m]).filter (fun i => (q i).2)).length))

/-- VS8UP (R216): a NaN lane gives 0. -/
def execVs8up (t : Fin 192) (g : Guard) (d a : Fin 64) (m : Fin 16) (s : State) : Host.Outcome State Fault Refusal :=
  .next (vecOp1 s t g (.vs8up t g d a m) d a m (fun x => if fisNaN x then 0 else (s8Up x).zeroExtend 32))

/-! ### Reductions and moves -/

/-- A NaN as the canonical one (R63, R214). -/
def fcanon (x : F32) : F32 := if fisNaN x then f32NaN else x

/-- The first n lanes of a register. -/
def firstLanes (v : VReg) (n : Nat) : List (BitVec 32) := (List.range n).map (laneAt v)

/-- VTREE (R213, R91). -/
def execVtree (t : Fin 192) (g : Guard) (d a : Fin 64) (m : Fin 16) (n : BitVec 7) (s : State) :
    Host.Outcome State Fault Refusal :=
  .next (issueTile s t g (.vtree t g d a m n) (fun x =>
    let r := fcanon (fsum (firstLanes x.src.v[a] n.toNat))
    setV x d (maskLanes x.src.p[m] x.src.v[d] (fun i => if i = 0 then r else 0))))

/-- The maximum of lanes under R214; +0 of none. -/
def lanesMax : List F32 → F32
  | [] => 0
  | v :: r => r.foldl fmaxv (fmaxv v v)

/-- VHMAX (R213, R214). -/
def execVhmax (t : Fin 192) (g : Guard) (d a : Fin 64) (m : Fin 16) (n : BitVec 7) (s : State) :
    Host.Outcome State Fault Refusal :=
  .next (issueTile s t g (.vhmax t g d a m n) (fun x =>
    let r := lanesMax (firstLanes x.src.v[a] n.toNat)
    setV x d (maskLanes x.src.p[m] x.src.v[d] (fun i => if i = 0 then r else 0))))

/-- VPERM (R213): D lane i := A lane (B lane i bits 5:0). -/
def execVperm (t : Fin 192) (g : Guard) (d a b : Fin 64) (m : Fin 16) (s : State) : Host.Outcome State Fault Refusal :=
  .next (issueTile s t g (.vperm t g d a b m) (fun x =>
    setV x d (maskLanes x.src.p[m] x.src.v[d] (fun i => laneAt x.src.v[a] ((laneAt x.src.v[b] i).toNat % 64)))))

/-- VBCAST (R213): every lane := bits 31:0 of S[A]. -/
def execVbcast (t : Fin 192) (g : Guard) (d : Fin 64) (a : Fin 32) (m : Fin 16) (s : State) :
    Host.Outcome State Fault Refusal :=
  .next (issueTile s t g (.vbcast t g d a m) (fun x =>
    setV x d (maskLanes x.src.p[m] x.src.v[d] (fun _ => (x.src.s[a]).truncate 32))))

/-- VEXT (R213): S[D] := the lane of V[A], zero-extended. -/
def execVext (t : Fin 192) (g : Guard) (d : Fin 32) (a : Fin 64) (lane : Fin 64) (s : State) :
    Host.Outcome State Fault Refusal :=
  .next (issueTile s t g (.vext t g d a lane) (fun x => setS x d ((laneAt x.src.v[a] lane.val).zeroExtend 64)))

/-- VAND (R213). -/
def execVand (t : Fin 192) (g : Guard) (d a b : Fin 64) (m : Fin 16) (s : State) : Host.Outcome State Fault Refusal :=
  .next (vecOp s t g (.vand t g d a b m) d a b m (· &&& ·))

/-- VOR (R213). -/
def execVor (t : Fin 192) (g : Guard) (d a b : Fin 64) (m : Fin 16) (s : State) : Host.Outcome State Fault Refusal :=
  .next (vecOp s t g (.vor t g d a b m) d a b m (· ||| ·))

/-- VXOR (R213). -/
def execVxor (t : Fin 192) (g : Guard) (d a b : Fin 64) (m : Fin 16) (s : State) : Host.Outcome State Fault Refusal :=
  .next (vecOp s t g (.vxor t g d a b m) d a b m (· ^^^ ·))

/-- VPOP (R213): the population count of A XOR B in each lane. -/
def execVpop (t : Fin 192) (g : Guard) (d a b : Fin 64) (m : Fin 16) (s : State) : Host.Outcome State Fault Refusal :=
  .next (vecOp s t g (.vpop t g d a b m) d a b m (fun x y => BitVec.ofNat 32 (popCount 32 (x ^^^ y).toNat)))

/-! ### The absmax unit (R74) -/

def absmaxOf (x : Tile) (c : Nat) : F32 := tget 0 x.absmax c

/-- One channel's update (R74): its new maximum, and whether a NaN was counted. -/
def absmaxStep (old v : F32) : F32 × Bool :=
  if fisNaN v then (old, true)
  else if fisInf v then (f32PosInf, false)
  else (if flt old (fabs v) then fabs v else old, false)

/-- The values of a register as F32: 64 lanes, or 128 F16 elements (R213). -/
def absmaxValues (v : VReg) (f16 : Bool) : List F32 :=
  if f16 then (List.range 128).map (fun i => f16ToF32 (elemAt v 16 i)) else firstLanes v 64

/-- Maxima updated from the first channel on. -/
def absmaxUpdate (m : Tab F32) (first : Nat) (vals : List F32) : Tab F32 :=
  vals.zipIdx.foldl (fun m vi => tput 0 m (first + vi.2) (absmaxStep (tget 0 m (first + vi.2)) vi.1).1) m

/-- VAMX (R213, R74). -/
def execVamx (t : Fin 192) (g : Guard) (a : Fin 64) (b : Fin 32) (f16 : Bool) (s : State) :
    Host.Outcome State Fault Refusal :=
  .next (issue s t g (.vamx t g a b f16) (fun s1 =>
    let x := tileOf s1 t.val
    let n := if f16 then 128 else 64
    let first := (x.src.s[b]).toNat
    let vals := absmaxValues x.src.v[a] f16
    if first % n = 0 ∧ first + n ≤ 4096 then
      bumpBy (onTile s1 t.val (fun y => { y with absmax := absmaxUpdate y.absmax first vals })) .absmaxNan
        (vals.filter fisNaN).length
    else bump s1 .addrFault))

/-- VAMR (R213). -/
def execVamr (t : Fin 192) (g : Guard) (d : Fin 64) (a : Fin 32) (m : Fin 16) (s : State) :
    Host.Outcome State Fault Refusal :=
  .next (issue s t g (.vamr t g d a m) (fun s1 =>
    let x := tileOf s1 t.val
    let first := (x.src.s[a]).toNat
    if first % 64 = 0 ∧ first < 4096 then
      onTile s1 t.val (fun y => setV y d (maskLanes x.src.p[m] x.src.v[d] (fun i => absmaxOf x (first + i))))
    else
      bump (onTile s1 t.val (fun y => setV y d (maskLanes x.src.p[m] x.src.v[d] (fun _ => 0)))) .addrFault))

/-- VAMC (R213): all 4,096 maxima to +0. -/
def execVamc (t : Fin 192) (g : Guard) (s : State) : Host.Outcome State Fault Refusal :=
  .next (issueTile s t g (.vamc t g) (fun x => { x with absmax := [] }))

end Sys2Proof.Machine
end

