-- ==== Sys2Proof/Machine/Matrix.lean ====
section
/-! DEFINITION. The matrix unit (R217 to R227): stationary banks, accumulators and their summation trees, row faults. -/

namespace Sys2Proof.Machine

open Sys2Proof

/-- Code bytes and S8 bytes of one row of a format (R219): E4 128 and 8, E8 128 and 4, F16 128 and none. -/
def fmtS8 (f : MatFmt) : Nat :=
  match f with
  | .e4 => 8
  | .e8 => 4
  | .f16 => 0

/-- The neutral row: codes of zero and S8 0x00 (R219, R220). -/
def neutralRow (f : MatFmt) : List Byte × List Byte := (List.replicate 128 0, List.replicate (fmtS8 f) 0)

/-- One row of a bank from tile store, or the neutral row where it met an uncorrectable word (R220) or an illegal range
(R164; log 14). -/
def loadRow (s : State) (t : Nat) (f : MatFmt) (codes scales : Nat) (bad : Bool) : (List Byte × List Byte) × Bool :=
  if bad || !tileRangeOk s t codes 128 || (fmtS8 f != 0 && !tileRangeOk s t scales (fmtS8 f)) then (neutralRow f, true)
  else ((srcRead s t codes 128, srcRead s t scales (fmtS8 f)), false)

/-- The rows of an MLDW with their fault bits (R219). -/
def loadRows (s : State) (t : Nat) (f : MatFmt) (a b rows stride : Nat) (bad : List Nat) :
    List ((List Byte × List Byte) × Bool) :=
  (List.range rows).map (fun r => loadRow s t f (a + 32 * stride * r) (b + 32 * stride * r) (bad.contains r))

/-- A 128-bit mask of the rows whose test holds. -/
def rowMask (l : List Bool) : BitVec 128 := BitVec.ofNat 128 (packFields (l.map (fun b => (1, b2n b))))

/-- The bytes that row `r` of an MLDW reads (R219). -/
def rowReads (f : MatFmt) (a b stride r : Nat) : List (Nat × Nat) :=
  [(a + 32 * stride * r, 128), (b + 32 * stride * r, fmtS8 f)]

/-- A row whose bytes all lie in the tile's data region (R164). -/
def rowLegal (s : State) (t : Nat) (f : MatFmt) (a b stride r : Nat) : Bool :=
  (rowReads f a b stride r).all (fun p => spanOk s t p.1 p.2)

/-- What the store reports for a row. -/
def rowEcc (bad : List Nat) (r : Nat) : Ecc := ⟨0, if bad.contains r then some 0 else none⟩

/-- The rows of an MLDW that meet an uncorrectable word (R166, R220): those reported, and those with a word whose error is lasting. -/
def badRows (s : State) (t : Fin 192) (f : MatFmt) (a b rows stride : Nat) (bad : List Nat) : List Nat :=
  (List.range rows).filter (fun r => rowLegal s t.val f a b stride r
    && (badWordAt s (.tile t) (rowReads f a b stride r) (rowEcc bad r)).isSome)

/-- MLDW (R218 to R220). `bad` lists the rows that met an uncorrectable word; the head's report gives the corrected ones. -/
def execMldw (t : Fin 192) (g : Guard) (a b : Fin 32) (bank : Fin 2) (fmt : MatFmt) (rows : BitVec 8) (stride : BitVec 14)
    (bad : List Nat) (s : State) : Host.Outcome State Fault Refusal :=
  .next (issue s t g (.mldw t g a b bank fmt rows stride bad) (fun s1 =>
    let x := tileOf s1 t.val
    let sa := (x.src.s[a]).toNat
    let sb := (x.src.s[b]).toNat
    let hit := badRows s1 t fmt sa sb rows.toNat stride.toNat bad
    let l := loadRows s1 t.val fmt sa sb rows.toNat stride.toNat hit
    let nb : Bank := ⟨fmt, l.map (·.1), rowMask (l.map (·.2))⟩
    let illegal := ((List.range rows.toNat).filter (fun r => !rowLegal s1 t.val fmt sa sb stride.toNat r)).length
    let s2 := onTile s1 t.val (fun y => { y with banks := y.banks.set bank nb })
    let s3 := hit.foldl (fun s r => (tileReport s t (rowReads fmt sa sb stride.toNat r) (rowEcc bad r)).1) s2
    let words := (List.range rows.toNat).map (fun r => rangeWords (rowReads fmt sa sb stride.toNat r))
    bumpBy (bumpBy s3 .sramCorr (min g.ecc.corrected (words.foldl (· + ·) 0))) .addrFault illegal))

/-! ### Products (R221) -/

/-- Row r of a bank (R219). -/
def bankRow (b : Bank) (r : Nat) : List Byte × List Byte := b.rows.getD r (neutralRow b.fmt)

/-- The integer products' sum over elements [first, first + n) of two code areas (R89). -/
def intDot (e4 : Bool) (q x : List Byte) (first n : Nat) : Int :=
  ((List.range n).map (fun i => codeAt e4 q (first + i) * codeAt e4 x (first + i))).foldl (· + ·) 0

/-- The term of one block (R90). -/
def blockTerm (i : Int) (s8q s8x : Byte) : F32 :=
  if s8q = 0 ∨ s8x = 0 then 0 else fmul (intToF32 i) (fmul (s8ToF32 s8q) (s8ToF32 s8x))

/-- The F16 value at element i of a byte area. -/
def f16At (l : List Byte) (i : Nat) : F16 := BitVec.ofNat 16 (leAt l (2 * i) 2)

/-- The term of one F16 block (R94): SUM of 32 products. -/
def f16Term (q x : List Byte) (blk : Nat) : F32 :=
  fsum ((List.range 32).map (fun i => fmul (f16ToF32 (f16At q (32 * blk + i))) (f16ToF32 (f16At x (32 * blk + i)))))

/-- Elements per row of a format. -/
def fmtElems (f : MatFmt) : Nat :=
  match f with
  | .e4 => 256
  | .e8 => 128
  | .f16 => 64

/-- Lanes that a format drives (R226). -/
def fmtLanes (f : MatFmt) : Nat :=
  match f with
  | .f16 => 64
  | _ => 128

/-- The block terms of one row against the operand, in ascending block order (R221). -/
def rowTerms (f : MatFmt) (q : List Byte) (row : List Byte × List Byte) : List F32 :=
  (List.range (fmtElems f / 32)).map (fun blk =>
    match f with
    | .f16 => f16Term q row.1 blk
    | .e4 => blockTerm (intDot true q row.1 (32 * blk) 32) (q.getD (128 + blk) 0) (row.2.getD blk 0)
    | .e8 => blockTerm (intDot false q row.1 (32 * blk) 32) (q.getD (128 + blk) 0) (row.2.getD blk 0))

/-- The bytes of a V register. -/
def vregBytes (v : VReg) : List Byte := leBytes 256 v.toNat

/-- A V register from 256 bytes. -/
def vregOfBytes (l : List Byte) : VReg := BitVec.ofNat 2048 (leNat (slice l 0 256))

/-- A[D] after an MMAC (R220, R221, R226). -/
def macAcc (acc : Acc) (b : Bank) (q : List Byte) (tree : Bool) : Acc :=
  let lanes := List.range (fmtLanes b.fmt)
  if tree then
    let terms := lanes.map (fun r => rowTerms b.fmt q (bankRow b r))
    { acc with
      pushes := acc.pushes ++ (List.range (fmtElems b.fmt / 32)).map (fun k => terms.map (fun l => l.getD k 0)),
      fault := acc.fault ||| b.fault }
  else
    let e4 := b.fmt == .e4
    let add (r : Nat) : BitVec 32 := BitVec.ofInt 32 (intDot e4 q (bankRow b r).1 0 (fmtElems b.fmt))
    { acc with
      lanes := Vector.ofFn (fun r : Fin 128 => acc.lanes[r] + (if b.fmt = .f16 then 0 else add r.val)),
      fault := acc.fault ||| b.fault }

/-- MMAC (R221). -/
def execMmac (t : Fin 192) (g : Guard) (d : Fin 8) (a : Fin 64) (bank : Fin 2) (tree : Bool) (s : State) :
    Host.Outcome State Fault Refusal :=
  .next (issueTile s t g (.mmac t g d a bank tree) (fun x => setAcc x d (macAcc x.acc[d] x.banks[bank] (vregBytes x.src.v[a]) tree)))

/-- The terms pushed for one lane, in push order (R222). -/
def laneTerms (acc : Acc) (r : Nat) : List F32 := acc.pushes.filterMap (fun p => p[r]?)

/-- A lane at MFIN (R227): SUM of its terms, scaled by F32(VSq) × F32(VSx); -0 is written +0, and no terms give +0. -/
def finLane (acc : Acc) (r : Nat) (vsq vsx : F16) (noscale : Bool) : F32 :=
  match laneTerms acc r with
  | [] => 0
  | ts =>
    let m := fsum ts
    fposZero (fcanon (if noscale then m else fmul m (fmul (f16ToF32 vsq) (f16ToF32 vsx))))

/-- MFIN (R227): closes the tree of every lane. -/
def execMfin (t : Fin 192) (g : Guard) (d : Fin 8) (a : Fin 64) (b : Fin 32) (noscale : Bool) (s : State) :
    Host.Outcome State Fault Refusal :=
  .next (issueTile s t g (.mfin t g d a b noscale) (fun x =>
    let acc := x.acc[d]
    let vsq : F16 := (x.src.s[b]).truncate 16
    setAcc x d { acc with
      lanes := Vector.ofFn (fun r : Fin 128 => finLane acc r.val vsq (elemAt x.src.v[a] 16 r.val) noscale),
      pushes := [] }))

/-- MCLR (R217, R220): zero lanes, an empty tree, a clear lane-fault mask. -/
def execMclr (t : Fin 192) (g : Guard) (d : Fin 8) (s : State) : Host.Outcome State Fault Refusal :=
  .next (issueTile s t g (.mclr t g d) (fun x => setAcc x d Acc.reset))

/-- MMOV (R217, R220): V[D] and V[D+1] take the lanes; P[PD] and P[PD+1] mark the clean ones. -/
def execMmov (t : Fin 192) (g : Guard) (d : Fin 64) (a : Fin 8) (pd : Fin 16) (s : State) :
    Host.Outcome State Fault Refusal :=
  .next (issueTile s t g (.mmov t g d a pd) (fun x =>
    let acc := x.acc[a]
    let lane (i : Nat) : BitVec 32 := acc.lanes.toList.getD i 0
    let x1 := setV (setV x d (vregOf lane)) (d + 1) (vregOf (fun i => lane (64 + i)))
    setP (setP x1 pd (laneBits (fun i => !acc.fault.getLsbD i))) (pd + 1) (laneBits (fun i => !acc.fault.getLsbD (64 + i)))))

end Sys2Proof.Machine
end

