-- ==== Sys2Proof/Machine/Score.lean ====
section
/-! DEFINITION. The code score of a record as a Bean forms it (R89 to R99), and a Bean's parameter block (R127, R130). -/

namespace Sys2Proof.Machine

open Sys2Proof

/-- A parameter block's column 0 (R127). -/
structure Param where
  theta : F32
  qnorm : F32
  qvs : F16
  qout : Nat
  metric : Nat
  fmt : Nat
  dim : Nat
  recSize : Nat
  tailCap : Nat
  ctx : CtxId
  shardLo : Nat
  partner : Bool
  reserved : Nat
deriving DecidableEq, Repr

def paramOf (b : List Byte) : Param :=
  let n := leAt b 0 32
  { theta := BitVec.ofNat 32 (bitsOf n 224 32), qnorm := BitVec.ofNat 32 (bitsOf n 192 32),
    qvs := BitVec.ofNat 16 (bitsOf n 176 16), qout := bitsOf n 168 8, metric := bitsOf n 165 3, fmt := bitsOf n 162 3,
    dim := bitsOf n 150 12, recSize := bitsOf n 145 5, tailCap := bitsOf n 143 2,
    ctx := BitVec.ofNat 12 (bitsOf n 131 12), shardLo := bitsOf n 115 16, partner := bitOf n 114,
    reserved := bitsOf n 0 114 }

/-- A code format, dimension, tail capacity and record size that R40 allows. -/
def codeLayoutOk (fmt dim tailCap recSize : Nat) : Bool :=
  let cl := codeLen fmt dim
  decide (fmt ≤ 4) && decide (tailCap ≤ 2) && dim % 32 == 0 && decide (32 ≤ cl) && decide (cl ≤ 256)
  && recSize == 1 + cl / 16 + tailCap

/-- An illegal parameter block (R130): Hamming scores are of B1 codes only (R86). -/
def paramBad (p : Param) : Bool :=
  !codeLayoutOk p.fmt p.dim p.tailCap p.recSize || decide (3 < p.metric) || (p.metric == 3 && p.fmt != 0)
  || decide (4 * p.tailCap < p.qout) || p.reserved != 0

/-! ### Scores -/

/-- A zero that an operation of a score forms is +0 (R99). -/
def sadd (a b : F32) : F32 := fposZero (fadd a b)
def smul (a b : F32) : F32 := fposZero (fmul a b)
def ssub (a b : F32) : F32 := fposZero (fsub a b)

/-- One operand of a code score: codes with the S8 bytes of their blocks, the vector scale and the outlier tail. -/
structure Operand where
  e4 : Bool
  codes : List Byte
  scales : List Byte
  vs : F16
  tail : List (Nat × F16)
deriving DecidableEq, Repr

/-- The value of an element (R66). -/
def rebuilt (o : Operand) (i : Nat) : F32 :=
  match o.tail.find? (fun e => e.1 == i) with
  | some e => f16ToF32 e.2
  | none =>
    let b := o.scales.getD (i / 32) 0
    if b = 0 then 0 else smul (smul (intToF32 (codeAt o.e4 o.codes i)) (s8ToF32 b)) (f16ToF32 o.vs)

/-- The channels of both tails, ascending, each once (R95). -/
def outlierUnion (q x : Operand) : List Nat :=
  sortBy (fun a b => decide (a < b)) (uniq (q.tail.map (·.1) ++ x.tail.map (·.1)))

/-- The inner product of E4 or E8 codes (R89 to R92, R95). -/
def innerProduct (dim : Nat) (q x : Operand) : F32 :=
  let term (b : Nat) : F32 := blockTerm (intDot q.e4 q.codes x.codes (32 * b) 32) (q.scales.getD b 0) (x.scales.getD b 0)
  let main := smul (fsum ((List.range (dim / 32)).map term)) (smul (f16ToF32 q.vs) (f16ToF32 x.vs))
  (outlierUnion q x).foldl (fun ip c => sadd ip (smul (rebuilt q c) (rebuilt x c))) main

/-- The number of positions at which two B1 codes differ (R93). -/
def hamming (dim : Nat) (a b : List Byte) : Nat :=
  (List.range dim).foldl (fun n i => n + b2n (bit (a.getD (i / 8) 0) (i % 8) != bit (b.getD (i / 8) 0) (i % 8))) 0

/-- A score from the inner product and the norms (R97), with whether squared L2 was clamped from -∞ (R101). -/
def scoreOf (metric : Nat) (ip qn xn : F32) (h : Nat) : F32 × Bool :=
  match metric with
  | 0 => (fposZero ip, false)
  | 1 =>
    let a := fposZero (fsqrt qn)
    let b := fposZero (fsqrt xn)
    (if a = 0 ∨ b = 0 then 0 else fposZero (fdiv (fposZero (fdiv ip a)) b), false)
  | 2 =>
    let dd := ssub (sadd qn xn) (smul 0x40000000#32 ip)
    if fle dd 0 then (0, dd == f32NegInf) else (if fisNaN dd then f32NaN else fposZero (dd ^^^ 0x80000000#32), false)
  | _ => (if h = 0 then 0 else intToF32 (-(h : Int)), false)

/-- The query of a scan (R128): code in the own-scales layout of its element format, tail in column 9. -/
def queryOperand (p : Param) (qbuf : List Byte) : Operand :=
  let e4 := codeIsE4 p.fmt
  let n := if e4 then p.dim / 2 else p.dim
  { e4 := e4, codes := slice qbuf 0 n, scales := slice qbuf n (p.dim / 32), vs := p.qvs,
    tail := tailEntries (slice qbuf 288 32) p.qout }

/-- A record's operand: shared scales come with the parameter block, own scales follow the codes (R45, R67). -/
def recordOperand (p : Param) (shared rec : List Byte) : Operand :=
  let e4 := codeIsE4 p.fmt
  let n := if e4 then p.dim / 2 else p.dim
  let h := headerOf rec
  { e4 := e4, codes := slice rec 16 n,
    scales := if p.fmt = 1 ∨ p.fmt = 2 then slice shared 0 (p.dim / 32) else slice rec (16 + n) (p.dim / 32),
    vs := h.vecScale, tail := tailEntries (slice rec (16 + codeLen p.fmt p.dim) (16 * p.tailCap)) h.outliers }

/-- The code score of a record (R89 to R97), and whether it was clamped from -∞ (R101). -/
def codeScore (p : Param) (qbuf shared rec : List Byte) : F32 × Bool :=
  let xn := (headerOf rec).sqNorm
  if p.fmt = 0 then
    let h := hamming p.dim qbuf (rec.drop 16)
    let ip := smul (intToF32 ((p.dim : Int) - 2 * (h : Int))) (smul (f16ToF32 p.qvs) (f16ToF32 (headerOf rec).vecScale))
    scoreOf p.metric ip p.qnorm xn h
  else scoreOf p.metric (innerProduct p.dim (queryOperand p qbuf) (recordOperand p shared rec)) p.qnorm xn 0

end Sys2Proof.Machine
end

