-- ==== Sys2Proof/Machine/BeanOps.lean ====
section
/-! DEFINITION. What Beans do with their commands (R123 to R141, R148 to R152): shared operations. -/

namespace Sys2Proof.Machine

open Sys2Proof

/-! ### Command words (R123, R124) -/

/-- Commands whose NROWS is 1 to 32; the others' is 0 (R123). -/
def opHasRows (op : BeanOp) : Bool :=
  match op with
  | .bscan => true
  | .bzero => true
  | .bcopy => true
  | _ => false

def beanOpCode (op : BeanOp) : Nat :=
  match op with
  | .bldq => 1
  | .bldw => 2
  | .bldp => 3
  | .bldx => 4
  | .brdl => 5
  | .bclr => 6
  | .brrd => 7
  | .bscan => 8
  | .bput => 9
  | .bzero => 10
  | .bcopy => 11

def beanOpOf (n : Nat) : Option BeanOp :=
  match n with
  | 1 => some .bldq
  | 2 => some .bldw
  | 3 => some .bldp
  | 4 => some .bldx
  | 5 => some .brdl
  | 6 => some .bclr
  | 7 => some .brrd
  | 8 => some .bscan
  | 9 => some .bput
  | 10 => some .bzero
  | 11 => some .bcopy
  | _ => none

/-- The fields of a command word (R123). -/
def beanWordOf (n : Nat) : BeanWord :=
  { tag := BitVec.ofNat 8 (bitsOf n 52 8), pairRow := BitVec.ofNat 16 (bitsOf n 36 16), nrows := BitVec.ofNat 6 (bitsOf n 30 6),
    dest := BitVec.ofNat 16 (bitsOf n 14 16), off := BitVec.ofNat 6 (bitsOf n 8 6), len := BitVec.ofNat 5 (bitsOf n 3 5),
    new := bitOf n 2 }

/-- A row range stays in one stripe (R123). -/
def inStripe (r n : Nat) : Bool := decide (r % 32 + n ≤ 32)

/-- The rules of R123 for a command word. -/
def beanWordOk (op : BeanOp) (w : BeanWord) : Bool :=
  let n := w.nrows.toNat
  let r := w.pairRow.toNat
  let d := w.dest.toNat
  let l := w.len.toNat
  (if opHasRows op then decide (1 ≤ n) && inStripe r n else n == 0)
  && (if op = .bcopy then inStripe d n && (decide (d + n ≤ r) || decide (r + n ≤ d)) else d == 0)
  && (if op = .bput then decide (1 ≤ l) && decide (l ≤ 20) && decide (w.off.toNat + l ≤ 64)
      else w.off.toNat == 0 && (if op = .bldq ∨ op = .bldw then decide (1 ≤ l) && decide (l ≤ 10) else l == 0))
  && (op == .bscan || !w.new)

/-- The byte address of a pair row of a Bean. -/
def rowAddr (b pr : Nat) : Nat := rowOfPair b pr * 1024

/-! ### Scans (R129 to R132) -/

/-- The valid entries of an exclusion list (R129): pair row and slot. -/
def exclusionOf (l : List Byte) : List (Nat × Nat) :=
  ((List.range 16).map (fun k => leAt l (4 * k) 4)).filterMap (fun n =>
    if bitOf n 31 then some (bitsOf n 5 16, bitsOf n 0 5) else none)

/-- The bytes of an exclusion list (R129). -/
def exclusionBytes (l : List (Nat × Nat)) : List Byte :=
  slice ((l.take 16).flatMap (fun e => leBytes 4 (2147483648 + e.1 * 32 + e.2))) 0 64

/-- An entry enters a Bean's list (R131 step 7). -/
def listInsert (l : List (BitVec 128)) (c : Cand) : List (BitVec 128) :=
  let e : BitVec 128 := BitVec.ofNat 128 (candNat c)
  (insertBy (fun a b => decide (selKey (candOf b.toNat) < selKey (candOf a.toNat))) e l).take 8

/-- The candidate entry of a kept record (R131 step 6). -/
def scanCand (p : Param) (h : Header) (sc : F32) : Cand :=
  { shardLo := p.shardLo, flags := flSpill * b2n h.spill + flPartner * b2n p.partner + flInf * b2n (fisInf sc),
    version := h.version, handle := handleOf p.ctx h.item, score := sc }

/-- One slot of a scan (R131 steps 3 to 7). -/
def scanSlot (p : Param) (shared : List Byte) (excl : List (Nat × Nat)) (x : Bean) (pr slot : Nat) (rec : List Byte) : Bean :=
  let h := headerOf rec
  if h.live = false ∨ excl.contains (pr, slot) = true then x
  else if recordBad p.fmt p.dim p.tailCap rec then { x with malformed := x.malformed + 1 }
  else
    let (sc, clamped) := codeScore p x.qbuf shared rec
    let x1 := { x with nan := x.nan + b2n (fisNaN sc), inf := x.inf + b2n (fisInf sc || clamped) }
    if fle p.theta sc then { x1 with pass := x1.pass + 1, list := listInsert x1.list (scanCand p h sc) } else x1

/-! ### What a Bean reads (R117, R121) -/

/-- The bursts of a byte range that do not read as the fresh codes of their bytes: those that the command lists, and those stored
so; ascending. -/
def beanBursts (s : State) (odd : List (Nat × Burst)) (a n : Nat) : List (Nat × Burst) :=
  let l := (odd.filter (fun o => overlap (o.1 / 64 * 64, 64) (a, n))).map (fun o => (o.1 / 64 * 64, o.2))
  sortBy (fun x y => decide (x.1 < y.1)) (l ++ (rawIn s a n).filter (fun r => !l.any (fun o => o.1 == r.1)))

/-- A byte range as a Bean reads it, after inner correction. -/
def beanRead (s : State) (odd : List (Nat × Burst)) (a n : Nat) : List Byte :=
  (beanBursts s odd a n).foldl (fun d o => overlay a d o.1 (burstInner o.2)) (memRead s a n)

/-- The first word of a burst that is an uncorrectable operand (R121): of the words that a test keeps, one whose inner code fails,
or, where the outer code is compared, any when the stored check bytes are not those of the bytes read. -/
def badWord (b : Burst) (kept : Nat → Bool) (outer : Bool) : Option Nat :=
  let ks := (List.range 4).filter kept
  match ks.find? (fun k => ((burstWords b).map (·.1)).getD k .clean == .uncorrectable) with
  | some k => some k
  | none => if outer && slice b.check 0 4 != rsCheck (burstInner b) then ks.head? else none

/-- The bytes that a command reads: address and length. -/
def readSpan (b : Nat) (op : BeanOp) (w : BeanWord) : Nat × Nat :=
  match op with
  | .bput => (rowAddr b w.pairRow.toNat + 16 * w.off.toNat, 16 * w.len.toNat)
  | _ => (rowAddr b w.pairRow.toNat, 1024 * w.nrows.toNat)

/-- Whether a command keeps word `k` of the burst at address `a` as an operand: a BPUT keeps what it does not replace (R121, R136). -/
def keepsWord (b : Nat) (op : BeanOp) (w : BeanWord) (a k : Nat) : Bool :=
  let r := readSpan b op w
  op != .bput || decide (a + 16 * k < r.1) || decide (r.1 + r.2 ≤ a + 16 * k)

/-- Whether a BSCAN is refused for its parameter block, and so reads no row (R130). -/
def scanRefused (s : State) (b : Nat) (op : BeanOp) : Bool := op == .bscan && paramBad (paramOf (beanOf s b).param)

/-- The words that a computing command's operands hold, burst by burst: a BZERO reads none (R137), nor does a refused BSCAN. -/
def operandBursts (s : State) (b : Nat) (op : BeanOp) (w : BeanWord) (odd : List (Nat × Burst)) : List (Nat × Burst) :=
  if op = .bzero ∨ scanRefused s b op = true then []
  else let r := readSpan b op w
       beanBursts s odd r.1 r.2

/-- The address of the first uncorrectable operand of a command (R121): scans check the inner code only. -/
def operandBad (s : State) (b : Nat) (op : BeanOp) (w : BeanWord) (odd : List (Nat × Burst)) : Option Nat :=
  (operandBursts s b op w odd).findSome? (fun o =>
    (badWord o.2 (keepsWord b op w o.1) (op != .bscan)).map (fun k => o.1 + 16 * k))

/-- Inner corrections that a command sees in its operands before address `stop` (R119). -/
def operandCorrected (s : State) (b : Nat) (op : BeanOp) (w : BeanWord) (odd : List (Nat × Burst)) (stop : Nat) : Nat :=
  ((operandBursts s b op w odd).map (fun o =>
    ((List.range 4).filter (fun k => keepsWord b op w o.1 k && decide (o.1 + 16 * k < stop) &&
      ((burstWords o.2).map (·.1)).getD k .clean == .corrected)).length)).foldl (· + ·) 0

/-- One row of a scan, slots ascending. -/
def scanRow (s : State) (b : Nat) (odd : List (Nat × Burst)) (p : Param) (shared : List Byte) (excl : List (Nat × Nat)) (x : Bean)
    (pr : Nat) : Bean :=
  (List.range (slotsPerRow p.recSize)).foldl (fun y j =>
    scanSlot p shared excl y pr j (beanRead s odd (rowAddr b pr + 16 * p.recSize * j) (16 * p.recSize))) x

/-- The list and completion word cleared (R124, R126). -/
def clearGroup (x : Bean) : Bean :=
  { x with list := [], tag := 0, status := 0, pass := 0, malformed := 0, rowsLost := 0, failRow := 0, failed := false, nan := 0,
           inf := 0 }

/-- STATUS takes the higher condition (R135). -/
def raiseStatus (x : Bean) (st : Nat) : Bean := { x with status := max x.status st }

/-- A BSCAN that runs to its end (R130, R131). -/
def scanEffect (s : State) (b : Nat) (w : BeanWord) (odd : List (Nat × Burst)) : State :=
  let x := beanOf s b
  let x0 := if w.new then { clearGroup x with tag := w.tag } else x
  let p := paramOf x0.param
  let n := w.nrows.toNat
  if paramBad p then
    bump (putBean s b (raiseStatus { x0 with rowsLost := x0.rowsLost + n } 4)) .badParam
  else
    let excl := exclusionOf x0.excl
    let shared := slice x0.param 32 32
    putBean s b ((List.range n).foldl (fun y i => scanRow s b odd p shared excl y (w.pairRow.toNat + i)) x0)

/-! ### Durations (R125, R139) -/

/-- Bursts that a BPUT touches (R125). -/
def putBursts (w : BeanWord) : Nat :=
  (16 * (w.off.toNat + w.len.toNat) - 1) / 64 - 16 * w.off.toNat / 64 + 1

/-- A command's duration in ns (R125). -/
def beanNs (op : BeanOp) (w : BeanWord) : Nat :=
  match op with
  | .bldq => 4 + 2 * w.len.toNat
  | .bldw => 4 + 2 * w.len.toNat
  | .bldp => 8
  | .bldx => 8
  | .brdl => 14
  | .brrd => 14
  | .bclr => 4
  | .bscan => 8 + 64 * w.nrows.toNat
  | .bput => 8 + 8 * putBursts w
  | .bzero => 8 + 64 * w.nrows.toNat
  | .bcopy => 8 + 128 * w.nrows.toNat

/-- The booked span of a plan's computing command (R139). -/
def bookedNs (op : BeanOp) (w : BeanWord) : Nat :=
  match op with
  | .bput => 2 * beanNs op w + 68
  | .bzero => 2 * beanNs op w + 68
  | _ => beanNs op w

/-- How long after its issue, in ns, a command is abandoned for the operand at an address (R125, R136): a scan as it reads the column,
a BPUT at the end of the read of the burst. A BCOPY reads a row as a scan does, and takes as long to write it (log 117). -/
def abandonNs (b : Nat) (op : BeanOp) (w : BeanWord) (addr : Nat) : Nat :=
  let r := readSpan b op w
  let off := addr - r.1
  match op with
  | .bput => 4 + 4 * (addr / 64 - r.1 / 64 + 1)
  | .bcopy => 4 + 128 * (off / 1024) + 2 * (off % 1024 / 32 + 1)
  | _ => 4 + 64 * (off / 1024) + 2 * (off % 1024 / 32 + 1)

/-! ### The extra place of a die (R140) -/

def extraOnDie (s : State) (die : Nat) : Option (Fin 6144) := tget none s.stk.extraOn die
def setExtra (s : State) (die : Nat) (b : Option (Fin 6144)) : State :=
  { s with stk := { s.stk with extraOn := tput none s.stk.extraOn die b } }

/-- A Bean leaves its die's extra place at an instant in ns. -/
def freeExtra (s : State) (b at_ : Nat) : State :=
  if extraOnDie s (dieOfBean b) = some (Fin.ofNat 6144 b) then
    let s1 := setExtra s (dieOfBean b) none
    { s1 with stk := { s1.stk with extraFree := tput 0 s1.stk.extraFree (dieOfBean b) at_ } }
  else s

/-! ### Computing commands (R136 to R138, R148) -/

/-- Rows a command activates in each bank of its pair (R116); a refused BSCAN reads none (R130). -/
def activations (s : State) (b : Nat) (op : BeanOp) (w : BeanWord) : State :=
  if scanRefused s b op then s
  else (List.range (max 1 w.nrows.toNat)).foldl (fun s i => addActs s (bankKey b (w.pairRow.toNat + i)) 1) s

/-- `n` rows of a BCOPY copied (R138). -/
def copyRows (s : State) (b : Nat) (w : BeanWord) (odd : List (Nat × Burst)) (n : Nat) : State :=
  (List.range n).foldl (fun s i =>
    memWrite s (rowAddr b (w.dest.toNat + i)) (beanRead s odd (rowAddr b (w.pairRow.toNat + i)) 1024)) s

/-- A BPUT (R136): the kept words of the bursts that do not read as fresh codes are merged as they were read. -/
def putEffect (s : State) (b : Nat) (w : BeanWord) (odd : List (Nat × Burst)) : State :=
  let r := readSpan b .bput w
  memWrite ((beanBursts s odd r.1 r.2).foldl (fun s o => memWrite s o.1 (burstInner o.2)) s) r.1
    (slice (beanOf s b).wbuf 0 (16 * w.len.toNat))

/-- A command that meets no uncorrectable operand takes effect (R131, R136 to R138). -/
def commandEffect (s : State) (b : Nat) (op : BeanOp) (w : BeanWord) (odd : List (Nat × Burst)) : State :=
  match op with
  | .bscan => scanEffect s b w odd
  | .bput => putEffect s b w odd
  | .bzero => memWrite s (rowAddr b w.pairRow.toNat) (List.replicate (1024 * w.nrows.toNat) 0)
  | .bcopy => copyRows s b w odd w.nrows.toNat
  | _ => s

/-- What stands of a command that a Bean abandons at its row `i` (R137, R138, R148): the rows of a BCOPY before it. -/
def abandonedEffect (s : State) (b : Nat) (op : BeanOp) (w : BeanWord) (odd : List (Nat × Burst)) (i : Nat) : State :=
  match op with
  | .bcopy => copyRows s b w odd i
  | _ => s

/-- FAIL_ROW names the first failing word of the group (R134). -/
def noteFail (x : Bean) (r : BitVec 16) : Bean := if x.failed then x else { x with failRow := r, failed := true }

/-- A second failure is lasting (R148): `r` is the row of the first, `addr` the operand that failed now, and the Bean is free at
`stop`. The row that FAIL_ROW names is queued for remapping. -/
def lastingFail (s : State) (b : Nat) (op : BeanOp) (w : BeanWord) (r : BitVec 16) (addr stop : Nat) : State :=
  let s1 := onBean s b (fun x =>
    let y := raiseStatus (noteFail x r) 2
    { y with run := none, gapEnd := stop + 64, rowsLost := if op = .bscan then y.rowsLost + w.nrows.toNat else y.rowsLost })
  let s2 := queueRemap (uncorrMem (bump s1 .beanAbandon) 1 addr none) (b, (beanOf s1 b).failRow)
  accessGap (freeExtra s2 b stop) b

/-- A MEM_UNCORR rehearsal: a BSCAN's operands on the Bean fail once (R424). -/
def rehOperand (s : State) (b : Nat) (op : BeanOp) (isRetry : Bool) : Bool :=
  s.mach.rehActive && s.mach.rehKind == 5 && s.mach.rehTarget.toNat == b && op == .bscan && !isRetry

/-- The address of the operand at which a command fails (R121, R130, R137, R424). -/
def operandErr (s : State) (b : Nat) (op : BeanOp) (w : BeanWord) (isRetry : Bool) (odd : List (Nat × Burst)) : Option Nat :=
  if rehOperand s b op isRetry && !scanRefused s b op then some ((operandBad s b op w odd).getD (rowAddr b w.pairRow.toNat))
  else operandBad s b op w odd

/-- When a computing command starts and until when it is booked, in ns (R125, R139), and whether it is an extra or a retry. -/
structure RunAt where
  start : Nat
  bookEnd : Nat
  extra : Bool
  isRetry : Bool
deriving DecidableEq, Repr

/-- A computing command runs on a Bean (R125, R148): with no uncorrectable operand it takes effect and keeps the Bean busy;
else the Bean abandons it, and its one retry is due after the access gap, or it has failed for good. -/
def runCommand (s : State) (b : Nat) (op : BeanOp) (w : BeanWord) (k : RunAt) (odd : List (Nat × Burst)) : State :=
  let first := (((beanOf s b).run).map (·.failRow)).getD 0
  let s0 := activations (onBean s b (fun x =>
    { x with tag := w.tag, lastTag := w.tag, gap := false,
             saved := if op = .bscan then some (x.list, x.pass, x.malformed, x.nan, x.inf, x.rowsLost) else none })) b op w
  match operandErr s b op w k.isRetry odd with
  | none =>
    let s1 := bumpBy s0 .innerCorr (operandCorrected s b op w odd memBytes)
    let s2 := onBean (commandEffect s1 b op w odd) b (fun x =>
      { x with run := some ⟨op, w, k.extra, false, false, k.isRetry, first, k.start + beanNs op w, k.bookEnd⟩ })
    if k.extra then setExtra s2 (dieOfBean b) (some (Fin.ofNat 6144 b)) else s2
  | some a =>
    let i := (a - (readSpan b op w).1) / 1024
    let stop := k.start + abandonNs b op w a + 4
    let s1 := abandonedEffect (bumpBy s0 .innerCorr (operandCorrected s b op w odd a)) b op w odd i
    if k.isRetry then lastingFail s1 b op w first a stop
    else
      let r := w.pairRow + BitVec.ofNat 16 i
      accessGap (freeExtra (onBean s1 b (fun x =>
        { x with run := some ⟨op, w, k.extra, true, false, false, r, stop, k.bookEnd⟩, gapEnd := stop + 64 })) b stop) b

/-! ### Commands taken from the controllers' queues (R208) -/

/-- The command a Bean is due from its lists: the first queued for it. -/
def queuedFor (s : State) (b : Nat) (op : BeanOp) : Option QueuedBean :=
  match s.stk.queue.find? (fun q => q.bean.val == b) with
  | none => none
  | some q => if q.op = op ∧ q.start ≤ s.clk.tick then some q else none

def dropQueued (s : State) (q : QueuedBean) : State := { s with stk := { s.stk with queue := s.stk.queue.erase q } }

/-- A Bean whose stack is in self refresh (R147), or whose pseudo-channel is held for retraining (R502), receives no
command. -/
def beanReached (s : State) (b : Nat) : Bool := !bit s.stk.selfRef (beanStack b) && !beanHeld s b

/-- A register load: the queued command's LEN and data, else those of the command itself. -/
def loadCommand (s : State) (b : Fin 6144) (op : BeanOp) (w : BeanWord) (data : List Byte)
    (f : Bean → BeanWord → List Byte → Bean) : State :=
  if beanReached s b.val then
    match queuedFor s b.val op with
    | some q => onBean (dropQueued s q) b.val (fun x => f x q.w q.data)
    | none => onBean s b.val (fun x => f x w data)
  else s

/-! ### BSCANs that never reach the Bean -/

/-- A BSCAN withheld or refused (R134, R152): its rows count as lost. -/
def loseRows (s : State) (b : Nat) (w : BeanWord) (st : Nat) : State :=
  onBean s b (fun x => raiseStatus { x with rowsLost := x.rowsLost + w.nrows.toNat, tag := w.tag, lastTag := w.tag } st)

/-- Whether a BSCAN scans a row of a copy with an UNSURE entry (R291). -/
def scansUnsure (s : State) (b : Nat) (w : BeanWord) : Bool :=
  (allCopies s).any (fun c =>
    copyUnsure s c.ctx c.shard
    && (List.range w.nrows.toNat).any (fun i =>
      let n := rowOfPair b (w.pairRow.toNat + i)
      decide (c.recBase ≤ n) && (partOfRow s c (n - c.recBase)).isSome))

/-- Whether a search list's BSCAN is withheld for want of its exclusion list (R294, R295). -/
def scanWithheld (s : State) (b : Nat) (q : Option QueuedBean) : Bool :=
  match q with
  | none => false
  | some q =>
    q.snap.isSome
    && (let x := beanOf s b
        x.withheld || (match x.exclFor with | some (l, _) => l != q.list | none => true))

/-- A BSCAN's rows count into its group (R152), which a BSCAN with NEW begins (R134). -/
def countRows (x : Bean) (w : BeanWord) : Bean :=
  { x with groupRows := (if w.new then 0 else x.groupRows) + w.nrows.toNat }

/-- A plan's computing command (R140, R144, R152, R271, R291), booked at `at_` ns: sent to a marked-out Bean it is counted FENCED; a
withheld BSCAN loses its rows; one whose Bean computes, waits for a retry, is in its access gap or is urgent is held as an extra;
else it runs in its booking. -/
def planCommand (s : State) (b : Fin 6144) (op : BeanOp) (w : BeanWord) (q : Option QueuedBean) (odd : List (Nat × Burst)) :
    State :=
  let s0 := if op = .bscan then onBean s b.val (countRows · w) else s
  let withheld := (q.map (·.refused)).getD false
  let at_ := (q.map bookedAt).getD (nowNs s)
  if bit s.stk.beanOut b.val then
    (if op = .bscan then loseRows s0 b.val w 5
     else onBean s0 b.val (fun x => raiseStatus { x with tag := w.tag, lastTag := w.tag } 5))
  else if op = .bscan ∧ (scansUnsure s b.val w = true ∨ scanWithheld s b.val q = true) then
    bump (loseRows s0 b.val w 0) .exclWithheld
  else if withheld then (if op = .bscan then loseRows s0 b.val w 0 else s0)
  else if (beanOf s b.val).run.isSome ∨ bit s.stk.urgent b.val = true ∨ at_ < (beanOf s b.val).gapEnd then
    let e : Extra := ⟨1, b, op, w, at_⟩
    { s0 with stk := { s0.stk with extraWait := s0.stk.extraWait ++ [e] } }
  else runCommand s0 b.val op w ⟨at_, at_ + bookedNs op w, false, false⟩ odd

/-- A BSCAN that becomes due while its pseudo-channel is held is cancelled, and its rows are lost (R149, R502); the group
counts once in CNT_BEAN_LATE. -/
def scanHeld (s : State) (b : Fin 6144) (w : BeanWord) : State :=
  match queuedFor s b.val .bscan with
  | some q =>
    let s1 := dropQueued s q
    let s2 := onBean s1 b.val (countRows · q.w)
    bumpIf (decide ((beanOf s b.val).status < 3)) (loseRows s2 b.val q.w 3) .beanLate
  | none =>
    let s2 := onBean s b.val (countRows · w)
    bumpIf (decide ((beanOf s b.val).status < 3)) (loseRows s2 b.val w 3) .beanLate

/-- A computing command as it is booked: from the Bean's queue, or as given. -/
def bookedCommand (s : State) (b : Fin 6144) (op : BeanOp) (w : BeanWord) (odd : List (Nat × Burst)) : State :=
  if beanReached s b.val then
    match queuedFor s b.val op with
    | some q => planCommand (dropQueued s q) b op q.w (some q) odd
    | none => planCommand s b op w none odd
  else if beanHeld s b.val && op == .bscan then scanHeld s b w
  else s

/-! ### Returning a list (R133, R149, R152) -/

/-- Even parity over bits 63:1 (R134). -/
def wordParity (n : Nat) : Nat := popCount 64 (n / 2 * 2) % 2

/-- The completion word (R134). -/
def completionWord (x : Bean) : Nat :=
  let n := packFields [(1, 0), (16, x.failRow.toNat), (4, 0), (10, min 1023 x.rowsLost), (7, min 127 x.malformed),
    (11, min 2047 x.pass), (4, x.list.length), (3, x.status), (8, x.tag.toNat)]
  n + wordParity n

/-- The 5 columns of a completion word, the counts and the list (R133). -/
def brdlColumns (word nan inf : Nat) (l : List (BitVec 128)) : List Byte :=
  leBytes 8 word ++ leBytes 2 (min 65535 nan) ++ leBytes 2 (min 65535 inf) ++ List.replicate 20 0
  ++ l.flatMap (fun e => leBytes 16 e.toNat) ++ (List.replicate (8 - l.length) (candBytes emptyCand)).flatten

/-- The columns of a group whose read was unsound twice (R152). -/
def fencedColumns (x : Bean) : List Byte :=
  let n := packFields [(1, 0), (20, 0), (10, min 1023 x.groupRows), (18, 0), (4, 0), (3, 5), (8, x.lastTag.toNat)]
  brdlColumns (n + wordParity n) 0 0 []

/-- The counts of columns read soundly go to the node's counters (R101, R133, R134). Only scores that Beans form are counted: a
tile's vector instructions count nothing (R214, log 115). -/
def countColumns (s : State) (cols : List Byte) : State :=
  bumpBy (bumpBy (bumpBy s .recordMalformed (bitsOf (leAt cols 0 8) 31 7)) .scoreNan (leAt cols 8 2)) .scoreInf
    (leAt cols 10 2)

/-- Columns land in the results area (R209). -/
def landColumns (s : State) (where_ : Option (Nat × Nat)) (cols : List Byte) : State :=
  match where_ with
  | none => s
  | some (id, dst) =>
    match elemOf s id with
    | none => s
    | some e => landData s e dst cols .arrived

/-- The group of a Bean ends when its BRDL is answered. -/
def endGroup (s : State) (b : Nat) : State := onBean s b (fun x => { x with groupRows := 0, rereading := none })

/-- The unfinished BSCANs of a Bean's group are cancelled (R149) by a BRDL issued at `at_` ns: the one running or awaiting its retry,
those waiting as extras, and those of the list still queued. The list and the counts stay as they were before the cancelled one. -/
def cancelScans (s : State) (b : Nat) (queued : List QueuedBean) (at_ : Nat) : State :=
  let isScan (e : Extra) : Bool := e.bean.val == b && e.op == .bscan
  let waiting := (s.stk.extraWait.filter (fun e => isScan e && e.kind == 1)).map (·.w)
  let late := (queued.filter (fun q => q.op == .bscan)).map (·.w)
  let running :=
    match (beanOf s b).run with
    | some r => if r.op = .bscan then [r.w] else []
    | none => []
  let all := running ++ waiting ++ late
  if all = [] then s
  else
    let s1 : State := { s with stk := { s.stk with extraWait := s.stk.extraWait.filter (fun e => !isScan e) } }
    let s2 := onBean s1 b (fun x =>
      let y :=
        match running, x.saved with
        | _ :: _, some (l, p, m, n, i, lost) =>
          { x with list := l, pass := p, malformed := m, nan := n, inf := i, rowsLost := lost, run := none, saved := none,
                   gapEnd := at_ + 64 }
        | _ :: _, none => { x with run := none, gapEnd := at_ + 64 }
        | [], _ => x
      let z := late.foldl countRows y
      raiseStatus { z with rowsLost := all.foldl (fun n w => n + w.nrows.toNat) z.rowsLost } 3)
    let s3 := bump s2 .beanLate
    if running = [] then s3 else accessGap (freeExtra s3 b at_) b

/-- The first BRDL queued for a Bean, with what of its list stands before it on the Bean. -/
def queuedRead (s : State) (b : Nat) : Option (QueuedBean × List QueuedBean) :=
  match s.stk.queue.find? (fun q => q.bean.val == b && q.op == .brdl && decide (q.start ≤ s.clk.tick)) with
  | none => none
  | some q => some (q, (s.stk.queue.takeWhile (fun r => r != q)).filter (fun r => r.bean.val == b))

/-- A BRDL's columns are returned (R133): to the results area when they read sound, else the controller reads again. -/
def returnList (s : State) (b : Nat) (where_ : Option (Nat × Nat)) (unsound : Bool) : State :=
  let x := beanOf s b
  let cols := brdlColumns (completionWord x) x.nan x.inf x.list
  let s1 := putBean s b { clearGroup x with readback := cols }
  if unsound then onBean s1 b (fun y => { y with rereading := some where_ })
  else endGroup (landColumns (countColumns s1 cols) where_ cols) b

/-- A BRDL whose patched command was not sent (R210): its element is REFUSED and nothing is written. -/
def refuseRead (s : State) (b : Nat) (id : Nat) : State :=
  let x := beanOf s b
  let s1 := endGroup (putBean s b { clearGroup x with readback := brdlColumns (completionWord x) x.nan x.inf x.list }) b
  match elemOf s1 id with
  | none => s1
  | some e => endElem s1 e (if elemLate s1 e then .late else .refused)

/-- A Bean marked out (R152). A readmission asked for and not yet made stands, and is made at the boundary (DESIGN CHOICE, log 118). -/
def markOut (s : State) (b : Nat) : State :=
  raiseEvent (bump { s with stk := { s.stk with beanOut := setBit s.stk.beanOut b true } } .beanOut)
    (evBeanOut (beanStack b)) b

end Sys2Proof.Machine
end

