-- ==== Sys2Proof/Machine/Beans.lean ====
section
/-! DEFINITION. The commands of Beans (R124 to R141, R148 to R152): one meaning per command. -/

namespace Sys2Proof.Machine

open Sys2Proof

/-! ### Register commands (R124, R126 to R129) -/

/-- Columns loaded from column 0; the columns beyond keep theirs (R128). -/
def loadCols (buf : List Byte) (size n : Nat) (data : List Byte) : List Byte :=
  splice (slice buf 0 size) 0 (slice data 0 (32 * n))

/-- BLDQ (R124, R128). -/
def execBldq (b : Fin 6144) (w : BeanWord) (data : List Byte) (s : State) : Host.Outcome State Fault Refusal :=
  .next (loadCommand s b .bldq w data (fun x v d => { x with qbuf := loadCols x.qbuf 320 (min 10 v.len.toNat) d }))

/-- BLDW (R124). -/
def execBldw (b : Fin 6144) (w : BeanWord) (data : List Byte) (s : State) : Host.Outcome State Fault Refusal :=
  .next (loadCommand s b .bldw w data (fun x v d => { x with wbuf := loadCols x.wbuf 320 (min 10 v.len.toNat) d }))

/-- BLDP (R124, R127). -/
def execBldp (b : Fin 6144) (w : BeanWord) (data : List Byte) (s : State) : Host.Outcome State Fault Refusal :=
  .next (loadCommand s b .bldp w data (fun x _ d => { x with param := slice d 0 64 }))

/-- The exclusion list of a Bean rebuilt for a snapshot (R294). -/
def exclusionData (s : State) (b t : Nat) : List Byte := exclusionBytes (exclusionsFor s b t)

/-- BLDX (R124, R129): a search list's contents are built as it is sent, and its BSCANs on the Bean are withheld while a
decision it needs is unknown (R294, R295); another list's are its data. -/
def execBldx (b : Fin 6144) (w : BeanWord) (data : List Byte) (s : State) : Host.Outcome State Fault Refusal :=
  .next (
    match queuedFor s b.val .bldx with
    | some q =>
      match q.snap with
      | some t =>
        if beanReached s b.val then
          onBean (dropQueued s q) b.val (fun x =>
            { x with excl := exclusionData s b.val t, exclFor := some (q.list, t), withheld := decisionPending s b.val t })
        else s
      | none => loadCommand s b .bldx w data (fun x _ d => { x with excl := slice d 0 64, exclFor := none, withheld := false })
    | none => loadCommand s b .bldx w data (fun x _ d => { x with excl := slice d 0 64, exclFor := none, withheld := false }))

/-- BCLR (R124, R126). -/
def execBclr (b : Fin 6144) (w : BeanWord) (s : State) : Host.Outcome State Fault Refusal :=
  .next (loadCommand s b .bclr w [] (fun x _ _ => { clearGroup x with groupRows := 0 }))

/-- BRDL (R133, R149, R152, R209, R210). -/
def execBrdl (b : Fin 6144) (_w : BeanWord) (unsound : Bool) (s : State) : Host.Outcome State Fault Refusal :=
  .next (
    if beanReached s b.val then
      match queuedRead s b.val with
      | some (q, before) =>
        let s1 : State := { s with stk := { s.stk with queue := s.stk.queue.filter (fun r => r != q && !before.contains r) } }
        let s2 := cancelScans s1 b.val before (bookedAt q)
        if q.refused || (beanOf s b.val).badPatch then
          refuseRead (onBean s2 b.val (fun x => { x with badPatch := false })) b.val q.elem
        else returnList s2 b.val (some (q.elem, q.dst)) unsound
      | none => returnList (cancelScans s b.val [] (nowNs s)) b.val none unsound
    else s)

/-- BRRD (R124, R152): due after an unsound BRDL; the readback buffer stands in for the first read when it is sound, else
the Bean is marked out and the group's columns are those of R152. -/
def execBrrd (b : Fin 6144) (unsound : Bool) (s : State) : Host.Outcome State Fault Refusal :=
  .next (
    let x := beanOf s b.val
    match x.rereading with
    | none => s
    | some where_ =>
      if unsound then endGroup (landColumns (markOut s b.val) where_ (fencedColumns x)) b.val
      else endGroup (landColumns (bump (countColumns s x.readback) .beanRetry) where_ x.readback) b.val)

/-! ### Computing commands -/

/-- BSCAN (R130, R131). -/
def execBscan (b : Fin 6144) (w : BeanWord) (odd : List (Nat × Burst)) (s : State) : Host.Outcome State Fault Refusal :=
  .next (bookedCommand s b .bscan w odd)

/-- BPUT (R136). -/
def execBput (b : Fin 6144) (w : BeanWord) (odd : List (Nat × Burst)) (s : State) : Host.Outcome State Fault Refusal :=
  .next (bookedCommand s b .bput w odd)

/-- BZERO (R137). -/
def execBzero (b : Fin 6144) (w : BeanWord) (s : State) : Host.Outcome State Fault Refusal :=
  .next (bookedCommand s b .bzero w [])

/-! ### Retries, extras and movers -/

/-- Whether a mover's command may start on a Bean (R141, R144, R151): the Bean is idle and in service, no access and no remap is
queued for the pair, its refresh debt is at most 4, and the command ends 64 ns before the Bean's next booked command or BRDL. -/
def moverMay (s : State) (b : Nat) (op : BeanOp) (w : BeanWord) : Bool :=
  (beanOf s b).run.isNone && beanReached s b && !bit s.stk.beanOut b && !bit s.stk.urgent b && !pairAwaited s b
  && decide (debtOf s (bankKey b 0) ≤ 4) && decide (debtOf s (bankKey b 1) ≤ 4)
  && !s.stk.remapQ.any (fun q => q.1 == b) && bookedClear s b (idleFrom s b + beanNs op w + 64)

/-- A request for a die's extra place waits for it (R140). -/
def waitExtra (s : State) (e : Extra) : State := { s with stk := { s.stk with extraWait := s.stk.extraWait ++ [e] } }

/-- Whether a die's extra place is free and nothing waits for it. -/
def placeFree (s : State) (die : Nat) : Bool :=
  (extraOnDie s die).isNone && !s.stk.extraWait.any (fun e => dieOfBean e.bean.val == die)

/-- When an extra that a die's free place takes starts, in ns. -/
def extraFrom (s : State) (b : Nat) : Nat := max (idleFrom s b) (tget 0 s.stk.extraFree (dieOfBean b))

/-- BCOPY (R138, R140, R141): only movers issue it. It runs as an extra of its die once the mover's conditions hold, and waits for them
or for the place. -/
def execBcopy (b : Fin 6144) (w : BeanWord) (odd : List (Nat × Burst)) (s : State) : Host.Outcome State Fault Refusal :=
  .next (
    let e : Extra := ⟨2, b, .bcopy, w, idleFrom s b.val⟩
    if bit s.stk.beanOut b.val then s
    else if moverMay s b.val .bcopy w = false then { s with stk := { s.stk with movers := s.stk.movers ++ [e] } }
    else if placeFree s (dieOfBean b.val) then
      runCommand s b.val .bcopy w ⟨extraFrom s b.val, 0, true, false⟩ odd
    else waitExtra s e)

/-- MOVER_START (R140, R141): a mover's request stands from the instant at which its conditions first hold. -/
def execMoverStart (b : Fin 6144) (s : State) : Host.Outcome State Fault Refusal :=
  .next (
    match s.stk.movers.find? (fun e => e.bean == b) with
    | none => s
    | some e =>
      if moverMay s b.val e.op e.w then
        waitExtra { s with stk := { s.stk with movers := s.stk.movers.erase e } } { e with kind := 2, time := idleFrom s b.val }
      else s)

/-- A retry or a held command whose Bean has been marked out is not sent: it counts into its group as FENCED (R152). -/
def fenceRun (s : State) (b : Nat) (op : BeanOp) (w : BeanWord) : State :=
  let s1 := onBean s b (fun x => { x with run := none })
  if op = .bscan then loseRows s1 b w 5 else onBean s1 b (fun x => raiseStatus { x with tag := w.tag, lastTag := w.tag } 5)

/-- BEAN_RETRY (R140, R148): due once, when the access gap after an abandonment has ended. A retry that can end within its command's
booking runs there; another takes the die's extra place or waits for it. -/
def execBeanRetry (b : Fin 6144) (odd : List (Nat × Burst)) (s : State) : Host.Outcome State Fault Refusal :=
  .next (
    match (beanOf s b.val).run with
    | none => s
    | some r =>
      if r.retryDue && !r.waiting && decide (r.stop + 64 < nowNs s + 640) && beanReached s b.val && !bit s.stk.urgent b.val then
        let at_ := max (nowNs s) (r.stop + 64)
        if bit s.stk.beanOut b.val then fenceRun s b.val r.op r.w
        else if r.extra = false ∧ at_ + beanNs r.op r.w ≤ r.bookEnd then
          runCommand s b.val r.op r.w ⟨at_, r.bookEnd, false, true⟩ odd
        else if placeFree s (dieOfBean b.val) then
          runCommand s b.val r.op r.w ⟨extraFrom s b.val, r.bookEnd, true, true⟩ odd
        else
          waitExtra (onBean s b.val (fun x => { x with run := some { r with waiting := true } })) ⟨0, b, r.op, r.w, r.stop + 64⟩
      else s)

/-- Whether a waiting extra can start (R140, R144, R147): a retry when its Bean awaits it, another when its Bean is idle, a mover when
its conditions hold; none while the pair's refresh is urgent or its stack or pseudo-channel takes no command (R502). -/
def extraReady (s : State) (e : Extra) : Bool :=
  !bit s.stk.urgent e.bean.val && beanReached s e.bean.val
  && (match (beanOf s e.bean.val).run with
      | some r => e.kind == 0 && r.retryDue
      | none => e.kind == 1 || (e.kind == 2 && moverMay s e.bean.val e.op e.w))

/-- The order in which waiting extras take a place (R140): retries, held plan commands, movers; the earlier request; the lower Bean. -/
def extraBefore (a b : Extra) : Bool :=
  decide (a.kind < b.kind) || (a.kind == b.kind &&
    (decide (a.time < b.time) || (a.time == b.time && decide (a.bean.val < b.bean.val))))

/-- EXTRA_START (R140): the free place of a die goes to the first of the extras that can start. -/
def execExtraStart (die : Fin 96) (odd : List (Nat × Burst)) (s : State) : Host.Outcome State Fault Refusal :=
  .next (
    let l := s.stk.extraWait.filter (fun e => dieOfBean e.bean.val == die.val && extraReady s e)
    match extraOnDie s die.val, sortBy extraBefore l with
    | none, e :: _ =>
      let s1 : State := { s with stk := { s.stk with extraWait := s.stk.extraWait.erase e } }
      if bit s.stk.beanOut e.bean.val then fenceRun s1 e.bean.val e.op e.w
      else
        runCommand s1 e.bean.val e.op e.w ⟨max (extraFrom s e.bean.val) e.time, 0, true, e.kind == 0⟩ odd
    | _, _ => s)

/-- BEAN_COMMAND_END (R125, R142, R148): in the tick in which its duration ends the Bean is free, and the access gap opens. A retry
that has ended so has succeeded: STATUS is at least RETRIED, and FAIL_ROW names the row that had failed. -/
def execBeanCommandEnd (b : Fin 6144) (s : State) : Host.Outcome State Fault Refusal :=
  .next (
    match (beanOf s b.val).run with
    | none => s
    | some r =>
      if !r.retryDue && decide (r.stop < nowNs s + 640) then
        let s1 := onBean s b.val (fun x =>
          let y := if r.isRetry then raiseStatus (noteFail x r.failRow) 1 else x
          { y with run := none, saved := none, gapEnd := r.stop + 64 })
        accessGap (freeExtra (bumpIf r.isRetry s1 .beanRetry) b.val r.stop) b.val
      else s)

end Sys2Proof.Machine
end

