-- ==== Sys2Proof/Machine/MachOps.lean ====
section
/-! DEFINITION. Fences, bypasses and membership (R18, R256, R364, R376): what several commands share. -/

namespace Sys2Proof.Machine

open Sys2Proof

/-! ### Bypasses (R364) -/

def setByp (s : State) (pair : Fin 3) (b : BypState) (asked : Option Bool) : State :=
  { s with fab := { s.fab with byp := s.fab.byp.set pair b, bypAsked := s.fab.bypAsked.set pair asked } }

/-- A bypass is asked to close (R364): at once when open, after the switch under way when opening. -/
def askClose (s : State) (pair : Fin 3) : State :=
  match s.fab.byp[pair] with
  | .closed => setByp s pair .closed none
  | .closing => setByp s pair .closing none
  | .open_ => setByp s pair .closing none
  | .opening => setByp s pair .opening (some false)

/-- The two ports of a pair. -/
def portPlus (pair : Fin 3) : Fin 6 := Fin.ofNat 6 (2 * pair.val)
def portMinus (pair : Fin 3) : Fin 6 := Fin.ofNat 6 (2 * pair.val + 1)

/-- A port whose links have trained. -/
def portTrained (x : Port) : Bool := x.state == .trained || x.state == .up || x.state == .degraded

/-- When the AON domain may open a bypass (R364): FENCE is 0, both ports are trained, the node is out of reset. -/
def mayOpen (s : State) (pair : Fin 3) : Bool :=
  !bit s.fab.fence pair.val && portTrained s.fab.ports[portPlus pair] && portTrained s.fab.ports[portMinus pair]
  && !s.aon.inReset

/-- A bypass is opened where it may be (R364). -/
def tryOpen (s : State) (pair : Fin 3) : State :=
  if mayOpen s pair then
    match s.fab.byp[pair] with
    | .closed => setByp s pair .opening none
    | .closing => setByp s pair .closing (some true)
    | .opening => setByp s pair .opening none
    | .open_ => s
  else s

def allPairs : List (Fin 3) := [0, 1, 2]

/-- FENCE set for a pair: its bypass closes. -/
def fencePair (s : State) (pair : Fin 3) : State :=
  askClose { s with fab := { s.fab with fence := setBit s.fab.fence pair.val true } } pair

/-- FENCE cleared for a pair: the AON domain is asked to open it. -/
def unfencePair (s : State) (pair : Fin 3) : State :=
  tryOpen { s with fab := { s.fab with fence := setBit s.fab.fence pair.val false } } pair

/-- All three FENCE bits set (R364). -/
def fenceAll (s : State) : State := allPairs.foldl fencePair s

/-! ### Dropped from the epoch (R256, R267, R416, R475) -/

def dropCode : DropCause → Nat
  | .align => 0
  | .activation => 1
  | .rehearsal => 2
  | .lost => 3
  | .leave => 4

/-- The node is dropped from the epoch: it admits nothing more, sets its FENCE bits, and raises DROPPED. -/
def dropNode (s : State) (c : DropCause) : State :=
  if s.mach.dropped.isSome then s
  else
    let s1 := fenceAll { s with mach := { s.mach with dropped := some c, role := .none_ } }
    raiseEvent s1 evDropped (packFields [(8, dropCode c), (56, 0), (32, s.mach.epoch.toNat)])

/-- Whether the node is a member of the current epoch (R443 step 6). -/
def inEpoch (s : State) : Bool := isMember s s.aon.nodeId && s.mach.dropped.isNone

/-! ### The time port (R376, R379) -/

/-- The port that faces `b` from `a` along the shorter arc of a run of `n` positions, the - port on a tie; closed positions
are skipped. -/
def facing (open_ : Nat → Bool) (n a b : Nat) (pair : Fin 3) : Fin 6 :=
  if ringSteps open_ n a b < ringSteps open_ n b a then portPlus pair else portMinus pair

/-- The time port toward a reference node (R376): Z first, then Y, then X; none on the reference itself. -/
def timePort (s : State) (ref : NodeId) : Option (Fin 6) :=
  let o := s.aon.nodeId
  let mem (n : NodeId) : Bool := s.mach.members.contains n
  if nodeZ o ≠ nodeZ ref then
    some (facing (fun z => mem (nodeAt (nodeX o) (nodeY o) z)) Config.nz (nodeZ o) (nodeZ ref) 2)
  else if nodeY o ≠ nodeY ref then
    some (facing (fun y => mem (nodeAt (nodeX o) y (nodeZ o))) Config.ny (nodeY o) (nodeY ref) 1)
  else if nodeX o ≠ nodeX ref then
    some (facing (fun x => mem (nodeAt x (nodeY o) (nodeZ o))) Config.nx (nodeX o) (nodeX ref) 0)
  else none

/-- TIME_SRC set on the node's time port and cleared on the others (R377, R396). -/
def setTimePort (s : State) : State :=
  let tp := timePort s s.mach.steward
  let ports := Vector.ofFn (fun p : Fin 6 => { s.fab.ports[p] with timeSrc := tp == some p })
  { s with fab := { s.fab with ports := ports } }

/-- TICK_ALIGN (R257). -/
def tickAlignReg (s : State) : Nat :=
  packFields [(8, s.clk.offset.toNat), (1, b2n s.clk.locked), (7, 0)]

/-- EPOCH_STATUS (R413). -/
def roleCode : Role → Nat
  | .member => 0
  | .steward => 1
  | .claimant => 2
  | .none_ => 3

def epochStatusReg (s : State) : Nat :=
  packFields [(12, 0), (3, min 7 s.mach.silent), (2, roleCode s.mach.role), (15, s.mach.steward.toNat),
    (32, s.mach.epoch.toNat)]

/-- STEWARD of EPOCH_STATUS takes a value; a change raises the STEWARD event (R474). -/
def setSteward (s : State) (n : NodeId) : State :=
  let s1 : State := { s with mach := { s.mach with steward := n } }
  if n = s.mach.steward then s1 else raiseEvent s1 evSteward (epochStatusReg s1)

end Sys2Proof.Machine
end

