-- ==== Sys2Proof/Machine/PoolOps.lean ====
section
/-! DEFINITION. Request-state pools and the ownership ledger (R398 to R406): blocks, ledger words, pool frames, swaps. -/

namespace Sys2Proof.Machine

open Sys2Proof

/-! ### Blocks (R398 to R402) -/

/-- Bytes of a pool block (R398). -/
def blockBytes (s : State) : Nat := 16384 * 2 ^ s.pool.blockLog2.toNat

/-- Blocks of the pool region. -/
def poolBlocks (s : State) : Nat := s.pool.rows * 1024 / blockBytes s

/-- The byte address of a pool block (R399). -/
def blockAddr (s : State) (n : Nat) : Nat := s.pool.base * 1024 + n * blockBytes s

/-- The fields of a block header (R401). -/
structure BlockHead where
  reqId : BitVec 64
  len : Nat
  phase : Nat
  epoch : Nat
deriving DecidableEq, Repr

def blockHeadOf (d : List Byte) : BlockHead :=
  let n := leAt d 0 32
  ⟨BitVec.ofNat 64 (bitsOf n 192 64), bitsOf n 176 16, bitsOf n 168 8, bitsOf n 144 24⟩

def blockHeadBytes (h : BlockHead) : List Byte :=
  leBytes 32 (packFields [(144, 0), (24, h.epoch), (8, h.phase), (16, h.len), (64, h.reqId.toNat)])

/-- A request id (R402). -/
def reqIdOf (s : State) (slot tick : Nat) : BitVec 64 :=
  BitVec.ofNat 64 (packFields [(39, tick), (10, slot), (15, s.aon.nodeId.toNat)])

/-! ### The ledger (R404) -/

def ledgerOf (s : State) (slot : Nat) : Ledger := tget Ledger.reset s.pool.ledger slot
def putLedger (s : State) (slot : Nat) (l : Ledger) : State :=
  { s with pool := { s.pool with ledger := tput Ledger.reset s.pool.ledger slot l } }

/-- The owners of a ledger word. -/
def ownHome : BitVec 2 := 1
def ownStandby : BitVec 2 := 2

/-- The ledger word as its register shows it (R404). -/
def ledgerNat (l : Ledger) : Nat :=
  packFields [(1, b2n l.valid), (8, l.phase.toNat), (25, l.sblock.toNat), (15, l.standby.toNat), (2, l.owner.toNat),
    (13, l.epoch.toNat)]

/-- The word that 64 bits of a pool frame carry (R404, R406). -/
def ledgerWordOf (w : BitVec 64) : Ledger :=
  let n := w.toNat
  { Ledger.reset with
    valid := bitOf n 0, phase := BitVec.ofNat 8 (bitsOf n 1 8), sblock := BitVec.ofNat 25 (bitsOf n 9 25),
    standby := BitVec.ofNat 15 (bitsOf n 34 15), owner := BitVec.ofNat 2 (bitsOf n 49 2),
    epoch := BitVec.ofNat 13 (bitsOf n 51 13) }

/-! ### Pool frames (R406) -/

def opCkpt : Nat := 1
def opCkptAck : Nat := 2
def opCas : Nat := 3
def opCasReply : Nat := 4
def opNotice : Nat := 5
def opAdopt : Nat := 6
def opRestore : Nat := 7
def opAdoptFail : Nat := 8
def opEnd : Nat := 9

/-- The bytes of a pool frame: header and data. -/
def poolBytes (op : Nat) (reqId ledger offset : Nat) (d : List Byte) : List Byte :=
  leBytes 8 op ++ leBytes 8 reqId ++ leBytes 8 ledger ++ leBytes 8 offset ++ d

/-- A pool frame put on its way. -/
def sendPool (s : State) (op : Nat) (dest : NodeId) (reqId ledger offset : Nat) (d : List Byte) : State :=
  sendFrame s tyPool dest false (cellsOf (poolBytes op reqId ledger offset d))

/-- Block bytes sent in as many frames as they need, 7,648 bytes each. -/
def sendBlock (s : State) (op : Nat) (dest : NodeId) (reqId ledger : Nat) (d : List Byte) : State :=
  let l := chunks (d.length + 1) 7648 d
  (List.range l.length).foldl (fun s i => sendPool s op dest reqId ledger (7648 * i) (l.getD i [])) s

/-- The NOTICE of a ledger word to the standby it names (R405). -/
def sendNotice (s : State) (slot : Nat) : State :=
  let l := ledgerOf s slot
  if l.mirrored then sendPool s opNotice l.standby l.reqId.toNat (ledgerNat l) 0 [] else s

/-- A change of a ledger word, and its NOTICEs: to the standby the word names, and to one it has just replaced (R405). -/
def changeLedger (s : State) (slot : Nat) (f : Ledger → Ledger) : State :=
  let l := ledgerOf s slot
  let s1 := putLedger s slot (f l)
  let l1 := f l
  if l1 = l then s
  else
    let s2 := sendNotice s1 slot
    if l.mirrored && (l1.standby != l.standby || !l1.mirrored) then
      sendPool s2 opNotice l.standby l1.reqId.toNat (ledgerNat l1) 0 []
    else s2

/-- The standby a request gets (R403): the lowest valid candidate that is a member and not the entry node. -/
def pickStandby (s : State) : Option NodeId :=
  ((List.range 4).filterMap (fun i =>
    let c := s.pool.cands.getD i 0
    if bit s.pool.mapValid i && isMember s c && c != s.aon.nodeId then some c else none)).head?

/-- A request whose pipeline has a CHECKPOINT phase (R398). -/
def multiPhase (p : Plan) (q : Pipe) : Bool :=
  (List.range q.phaseNum).any (fun k => ((p.phases[q.phaseFirst + k]?).map (·.checkpoint)).getD false)

/-- Segment 15 of a context as R400 asks for it. -/
def poolSegOk (s : State) (segs : List (BitVec 64)) : Bool :=
  let n := (segs.getD 15 0).toNat
  bitsOf n 35 29 == s.pool.base && bitsOf n 6 29 == 1024 * blockBytes s / 1024 && bitOf n 1 && bitOf n 0

/-- Admission of a multi-phase request (R401, R403, R404): the home block's header, and the ledger word. -/
def admitPool (s : State) (slot tick : Nat) : State :=
  let id := reqIdOf s slot tick
  let s1 := memWrite s (blockAddr s slot) (blockHeadBytes ⟨id, 0, 0, 0⟩)
  let st := pickStandby s
  let l : Ledger :=
    { epoch := 0, owner := ownHome, standby := st.getD 0, sblock := 0, phase := 0xFF, valid := true, reqId := id,
      mirrored := st.isSome, ckptSent := false }
  sendNotice (putLedger (bumpIf st.isNone s1 .poolNostandby) slot l) slot

/-- The request of a slot has completed or ended (R405, R412): its word becomes invalid, its NOTICE and END go out. -/
def endPool (s : State) (slot : Nat) : State :=
  let l := ledgerOf s slot
  if l.valid then
    let l1 := { l with valid := false }
    let s1 := putLedger s slot l1
    let s2 : State := { s1 with pool := { s1.pool with resumes := s1.pool.resumes.filter (fun r => r.slot.val != slot) } }
    if l.mirrored then sendPool (sendNotice s2 slot) opEnd l.standby l.reqId.toNat (ledgerNat l1) 0 [] else s2
  else s

/-! ### Swaps (R405, R410) -/

/-- The status of a swap against a ledger word. -/
def swapStatus (s : State) (b : CasBody) (l : Ledger) : BitVec 8 :=
  if b.machineEpoch ≠ s.mach.epoch then stStaleEpoch
  else if l.valid = false ∨ l.reqId ≠ b.reqId then stBadContext
  else if l.epoch ≠ b.expEpoch ∨ l.owner ≠ b.expOwner then stAborted
  else if l.epoch = 8191 then stAborted
  else stDone

/-- The request in a slot will end with STATE_LOST at its next phase boundary (R405, R408 to R410). -/
def loseState (s : State) (slot : Nat) : State := onAdm s slot (fun a => { a with fault := a.fault.or (some stStateLost) })

def resumeOf (s : State) (slot : Nat) : Option Resume := s.pool.resumes.find? (fun r => r.slot.val == slot)
def dropResume (s : State) (slot : Nat) : State :=
  { s with pool := { s.pool with resumes := s.pool.resumes.filter (fun r => r.slot.val != slot) } }
def putResume (s : State) (r : Resume) : State :=
  let s1 := dropResume s r.slot.val
  { s1 with pool := { s1.pool with resumes := s1.pool.resumes ++ [r] } }

/-- The ADOPT of a request (R410 step 2). -/
def sendAdopt (s : State) (slot : Nat) : State :=
  let l := ledgerOf s slot
  if l.mirrored then sendPool s opAdopt l.standby l.reqId.toNat (ledgerNat l) 0 [] else s

/-- What the entry node's own swap brings about in a resume (R410 steps 2 and 5). -/
def ownSwapDone (s : State) (slot : Nat) (ok : Bool) : State :=
  match resumeOf s slot with
  | none => s
  | some r =>
    if ok = false then loseState (dropResume s slot) slot
    else
      match r.step with
      | .swapAsked => sendAdopt (putResume s { r with step := .adopting }) slot
      | .swapBack => bump (dropResume s slot) .poolResume
      | _ => s

/-- One swap takes effect (R405). A swap beyond EPOCH 8,191 ends the request with STATE_LOST. -/
def applySwap (s : State) (w : Swap) : State :=
  let k := w.slot.val
  let l := ledgerOf s k
  let st := swapStatus s w.body l
  let s1 :=
    if st = stDone then changeLedger s k (fun l => { l with epoch := l.epoch + 1, owner := w.body.newOwner })
    else if st = stAborted ∧ l.epoch = 8191 ∧ l.epoch = w.body.expEpoch ∧ l.owner = w.body.expOwner then loseState s k
    else s
  if w.local_ then ownSwapDone s1 k (st == stDone)
  else { s1 with pool := { s1.pool with swapReplies := s1.pool.swapReplies ++ [(w, st, ledgerOf s1 k)] } }

/-- The boundary's swaps (R405): the local ones, then the remote ones in ascending source. -/
def applySwaps (s : State) : State :=
  let l := s.pool.swaps.filter (·.local_) ++
    sortBy (fun a b => decide (a.body.src < b.body.src)) (s.pool.swaps.filter (fun w => !w.local_))
  l.foldl applySwap { s with pool := { s.pool with swaps := [] } }

/-- A swap stamped in this tick waits for the boundary. -/
def queueSwap (s : State) (w : Swap) : State := { s with pool := { s.pool with swaps := s.pool.swaps ++ [w] } }

/-- A swap of the entry node's own. -/
def ownSwap (s : State) (slot : Fin 1024) (newOwner : BitVec 2) : State :=
  let l := ledgerOf s slot.val
  queueSwap s ⟨true, ⟨s.aon.nodeId, l.reqId, l.epoch, l.owner, newOwner, s.mach.epoch⟩, slot⟩

end Sys2Proof.Machine
end

