-- ==== Sys2Proof/Machine/Thermal.lean ====
section
/-! DEFINITION. Temperatures and classes (R465 to R468), calibration departure and audits (R75 to R81, R108 to R112), power
caps and shedding (R469 to R471). -/

namespace Sys2Proof.Machine

open Sys2Proof

/-! ### Registers that events carry (R156, R467, R470) -/

/-- The stacks' classes in force (R270, R466): a change holds from the boundary after the tick in which it is sensed, whether
or not its command has come. -/
def clsNow (s : State) : List Nat :=
  match s.stk.clsNext with
  | some (l, t) => if t < s.clk.tick then l else s.stk.cls
  | none => s.stk.cls

/-- NODE_CLASS: the hottest stack's class (R466). -/
def nodeClass (s : State) : Nat := (clsNow s).foldl max 0

/-- Whether NODE_CLASS rose at the boundary that opened this tick (R80). -/
def classRose (s : State) : Bool := s.stk.rose || decide (s.stk.cls.foldl max 0 < nodeClass s)

def memClassReg (s : State) : Nat :=
  packFields ((List.range 8).map (fun k => (2, (clsNow s).getD k 0)) ++ [(2, nodeClass s), (6, 0), (8, s.stk.hotTemp.toNat)])

def tempStatusReg (s : State) : Nat :=
  packFields [(1, 0), (1, b2n s.pow.warn), (30, 0), (8, s.stk.hotTemp.toNat), (8, s.pow.opticMax.toNat),
    (8, s.pow.ioMax.toNat), (8, s.pow.computeMax.toNat)]

def pwrStatusReg (s : State) : Nat :=
  packFields [(3, s.pow.shed.toNat), (1, 0), (4, s.pow.calm.toNat), (24, 0), (16, s.pow.capEff.toNat),
    (16, s.pow.powerW.toNat)]

/-! ### Memory classes (R465, R466) -/

/-- A stack's class after a reading (R466): rises by every threshold crossed, falls by one class at most. -/
def nextClass (cur t : Nat) : Nat :=
  let up := if 96 ≤ t then 3 else if 85 ≤ t then 2 else if 70 ≤ t then 1 else 0
  if cur < up then up
  else if (cur = 1 ∧ t ≤ 67) ∨ (cur = 2 ∧ t ≤ 82) ∨ (cur = 3 ∧ t ≤ 92) then cur - 1
  else cur

/-- The hottest of a stack's 12 dies. -/
def stackHottest (temps : List (BitVec 8)) (k : Nat) : Nat :=
  ((List.range 12).map (fun d => (temps.getD (12 * k + d) 0).toNat)).foldl max 0

/-- A class change that is due takes effect, and is reported (R156, R270, R466). -/
def settleClass (s : State) : State :=
  match s.stk.clsNext with
  | none => s
  | some (l, t) =>
    if t < s.clk.tick then
      let s1 : State := { s with stk := { s.stk with cls := l, clsNext := none, rose := classRose s } }
      if l.foldl max 0 = s.stk.cls.foldl max 0 then s1 else raiseEvent s1 evMemClass (memClassReg s1)
    else s

/-- MEM_TEMP_READING (R465, R466, R468): the 96 dies' temperatures; class changes wait for the boundary (R270), and two
readings in a row at 105 °C trip the node. -/
def execMemTempReading (temps : List (BitVec 8)) (s : State) : Host.Outcome State Fault Refusal :=
  .next (
    if temps.length = 96 then
      let s0 := settleClass s
      let cur := match s0.stk.clsNext with | some x => x.1 | none => s0.stk.cls
      let nxt := (List.range 8).map (fun k => nextClass (cur.getD k 0) (stackHottest temps k))
      let hot := (temps.map BitVec.toNat).foldl max 0
      let stk := { s0.stk with temps := temps, hotTemp := BitVec.ofNat 8 hot, clsNext := some (nxt, s.clk.tick) }
      let trip := if 105 ≤ hot then s.aon.tripMem + 1 else 0
      { s0 with stk := stk, aon := { s0.aon with tripMem := trip, sensMem := BitVec.ofNat 8 hot } }
    else s)

/-- MEM_CLASS_CHANGE (R270, R466): at the boundary after the sensing tick. -/
def execMemClassChange (s : State) : Host.Outcome State Fault Refusal := .next (settleClass s)

/-! ### Calibration records in force (R76, R80) -/

/-- A record takes the place of a context's at a tick; a change of STATE is remembered, because the STATE at a search's admission
tick decides whether it is audited (R81). The model remembers the latest eight (log 110). -/
def putCal (tick : Nat) (w : Cal) (c : Ctx) : Ctx :=
  let l := if w.state = c.cal.state then c.audit.states else (tick, w.state) :: c.audit.states.take 7
  { c with cal := w, audit := { c.audit with states := l } }

/-- STATE as it was at a tick. -/
def stateAt (c : Ctx) (t : Nat) : CalState :=
  match c.audit.states.find? (fun x => decide (x.1 ≤ t)) with
  | some x => x.2
  | none => if c.audit.states = [] then c.cal.state else .normal

/-- A context's calibration record as the boundary that opened this tick left it: a load of an earlier tick has taken effect
(R76), and a thermal rise above CAL_CLASS has ramped it (R80). -/
def settleCal (s : State) (c : Ctx) : Ctx :=
  let c1 : Ctx :=
    match c.calNext with
    | some (w, t) => if t < s.clk.tick then putCal (t + 1) w { c with calNext := none, audit := { c.audit with loadTick := some (t + 1) } } else c
    | none => c
  if c1.live && classRose s && decide (c1.cal.calClass < nodeClass s) && c1.cal.state != .off then
    putCal s.clk.tick { c1.cal with state := .ramp, calm := 0 } c1
  else c1

/-- The record in force (R73, R76). -/
def calNow (s : State) (k : Nat) : Cal := (settleCal s (ctxOf s k)).cal

/-- CAL_LOAD_EFFECT (R76, R112): at the first boundary after the command. -/
def execCalLoadEffect (ctx : CtxId) (s : State) : Host.Outcome State Fault Refusal :=
  .next (if (ctxOf s ctx.toNat).calNext.isSome then onCtx s ctx.toNat (settleCal s) else s)

/-- CAL_RAMP_ON_THERMAL (R80): a class that has just risen above CAL_CLASS ramps the context at once. -/
def execCalRampOnThermal (ctx : CtxId) (s : State) : Host.Outcome State Fault Refusal :=
  .next (onCtx s ctx.toNat (settleCal s))

/-- What the boundary that opened the tick brought and no command has carried out by the tick's end (R76, R80, R270). -/
def settleTick (s : State) : State := settleClass { s with ctxs := tmapAll Ctx.reset (fun _ c => settleCal s c) s.ctxs }

/-- AON_SENSOR_READING (R465, R467, R468): the AON domain's sensors; `optics` are the six optical engines. -/
def execAonSensorReading (compute io : BitVec 8) (optics : List (BitVec 8)) (s : State) : Host.Outcome State Fault Refusal :=
  .next (
    let warn := decide (100 ≤ compute.toNat) || decide (100 ≤ io.toNat)
    let om := (optics.map BitVec.toNat).foldl max 0
    let trip := if 115 ≤ compute.toNat ∨ 115 ≤ io.toNat then s.aon.tripCompute + 1 else 0
    let ports := Vector.ofFn (fun p : Fin 6 =>
      let x := s.fab.ports[p]
      { x with tempNow := optics.getD p.val x.tempNow })
    let pow := { s.pow with computeMax := compute, ioMax := io, opticMax := BitVec.ofNat 8 om, warn := warn }
    let s1 : State := { s with pow := pow, aon := { s.aon with tripCompute := trip, sensC := compute, sensIo := io }, fab := { s.fab with ports := ports } }
    if warn = s.pow.warn then s1 else raiseEvent s1 evTempWarn (tempStatusReg s1))

/-! ### Calibration departure (R78, R79) -/

/-- The evaluation of a window boundary (R79). -/
def calWindow (cls : Nat) (c : Cal) : Cal × Bool :=
  let depart := decide (2 * c.rateRef < c.rateObs) || decide (c.calClass < cls)
  match c.state with
  | .normal => if depart then ({ c with state := .ramp, calm := 0 }, true) else (c, false)
  | .ramp =>
    if depart then ({ c with calm := 0 }, false)
    else if 8 ≤ c.calm + 1 then ({ c with state := .normal, calm := 0 }, false)
    else ({ c with calm := c.calm + 1 }, false)
  | .off => (c, false)

/-! ### Audits (R108 to R112) -/

/-- The shard group of a context: every node that holds a shard as primary or partner (R19). -/
def shardGroup (s : State) (c : Nat) : List NodeId :=
  uniq ((List.range (ctxOf s c).ns).flatMap (fun k => [(shardEnt s c k).primary, (shardEnt s c k).partner]))

/-- The audit root (R110): the lowest node id of the shard group in the epoch. -/
def auditRoot (s : State) (c : Nat) : Option NodeId :=
  ((shardGroup s c).filter (isMember s)).foldl (fun m n =>
    match m with
    | none => some n
    | some x => if n < x then some n else some x) none

/-- A message that static slots carry: kind, and its contents as the rules list them (log 18). -/
def sendMsg (s : State) (to_ : NodeId) (kind : Nat) (d : List Byte) : State :=
  { s with io := { s.io with msgs := s.io.msgs ++ [(to_, kind, d)] } }

/-- A message sent in both directions round the ring, due at its target by the end of a tick (R110, R290). -/
def sendRing (s : State) (target : NodeId) (due kind : Nat) (d : List Byte) : State :=
  { s with io := { s.io with ringMsgs := s.io.ringMsgs ++ [⟨target, true, due, kind, d⟩, ⟨target, false, due, kind, d⟩] } }

def msgAuditCount : Nat := 1
def msgMargin : Nat := 2
def msgApplyAck : Nat := 3
def msgDecision : Nat := 4
def msgRecord : Nat := 5
def msgPrepare : Nat := 6
def msgReport : Nat := 7

/-- Whether this node is a member of a context's audit (R110): of its shard group, and of the partition in this epoch. -/
def auditMember (s : State) (k : Nat) : Bool := (shardGroup s k).contains s.aon.nodeId && isMember s s.aon.nodeId

/-- BELOW_COUNT is kept on the audit root alone (R109). -/
def keptBelow (s : State) (k : Nat) (a : Audit) : Audit := if auditRoot s k == some s.aon.nodeId then a else { a with below := 0 }

/-- A member freezes its counts for the window just ended, sends them to the root and clears them (R110); one whose audits are
off sends zero counts (R112). -/
def sendAudit (s : State) (k : Nat) : State :=
  if auditMember s k then
    let c := ctxOf s k
    let t := if c.cal.auditEn then c.audit.total else 0
    let m := if c.cal.auditEn then c.audit.miss else 0
    let s1 := onCtx s k (fun c => { c with audit := { c.audit with total := 0, miss := 0, frozen := some (t, m) } })
    match auditRoot s k with
    | none => s1
    | some r => if r = s.aon.nodeId then s1 else sendMsg s1 r msgAuditCount (leBytes 4 k ++ leBytes 4 t ++ leBytes 4 m)
  else s

/-- One context at a rate window boundary (R78, R79, R110). A record loaded for this boundary is in force first (R79). A record
that stays uncorrectable is not evaluated and keeps RATE_OBS, and the running count restarts (R84, log 108). -/
def rateWindowCtx (bad : List CtxId) (s : State) (k : Nat) : State :=
  let c := settleCal s (ctxOf s k)
  let unread := bad.any (fun b => b.toNat == k)
  let obs := { c.cal with rateObs := min 4294967295 c.rate }
  let (cal, ramped) := if unread then (c.cal, false) else calWindow (nodeClass s) obs
  let s1 := onCtx s k (fun _ => putCal s.clk.tick cal { c with rate := 0, audit := keptBelow s k c.audit })
  let s2 := bumpIf ramped s1 .calRamp
  let s3 := if unread then uncorrMem s2 0 0 (some (BitVec.ofNat 12 k)) else s2
  sendAudit s3 k

/-- RATE_WINDOW_BOUNDARY (R78, R79, R110, R394): once at each tick that is a multiple of 16,384; a context whose calibration
record stays uncorrectable is not evaluated (R84). -/
def execRateWindowBoundary (bad : List CtxId) (s : State) : Host.Outcome State Fault Refusal :=
  .next (
    if s.clk.tick % 16384 = 0 ∧ s.clk.lastRate ≠ some s.clk.tick then
      let s1 := (liveCtxs s).foldl (rateWindowCtx bad) s
      let ports := Vector.ofFn (fun p : Fin 6 => { s1.fab.ports[p] with retries := List.replicate 9 0 })
      { s1 with clk := { s1.clk with lastRate := some s1.clk.tick }, fab := { s1.fab with ports := ports } }
    else s)

/-- The root's decision (R111). -/
def auditDecide (c : Cal) (a : Audit) (tot miss : Nat) : Cal × Audit :=
  if tot = 0 then (c, { a with lastMove := 0 })
  else if c.missTarget * tot < miss * 65535 then
    let m := f16Add c.marginNow c.marginStep
    ({ c with marginNow := if f16Le m c.marginMax then m else c.marginMax }, { a with below := 0, lastMove := 1 })
  else if miss * 65535 < c.missTarget * tot then
    if c.narrowAfter ≤ a.below + 1 then
      let m := f16Sub c.marginNow c.marginStep
      ({ c with marginNow := if f16Le c.marginMin m then m else c.marginMin }, { a with below := 0, lastMove := 2 })
    else (c, { a with below := a.below + 1, lastMove := 0 })
  else (c, { a with below := 0, lastMove := 0 })

/-- Saturating sum of 32-bit counts (R110). -/
def satSum (l : List Nat) : Nat := min 4294967295 (l.foldl (· + ·) 0)

/-- AUDIT_ROOT_DECISION (R110 to R112): on the root in tick W + 33, over its own counts and those stamped by W + 32. -/
def execAuditRootDecision (ctx : CtxId) (counts : List AuditCount) (bad : Bool) (s : State) :
    Host.Outcome State Fault Refusal :=
  .next (
    let k := ctx.toNat
    let c := settleCal s (ctxOf s k)
    match c.audit.frozen with
    | none => s
    | some (t, m) =>
      if c.live && decide (s.clk.tick % 16384 = 33) && auditRoot s k == some s.aon.nodeId && c.cal.auditEn then
        let w := s.clk.tick - 33
        let inTime := counts.filter (fun a => decide (a.stamp ≤ w + 32))
        let s1 := bumpBy s .auditLate (counts.length - inTime.length)
        let s2 := onCtx s1 k (fun _ => { c with audit := { c.audit with frozen := none } })
        if bad then uncorrMem s2 0 0 (some ctx)
        else
          let (cal, aud) := auditDecide c.cal c.audit (satSum (t :: inTime.map (fun a => a.total.toNat)))
            (satSum (m :: inTime.map (fun a => a.miss.toNat)))
          let s3 := onCtx s2 k (fun c => { c with cal := cal, audit := { aud with frozen := none, decided := some w } })
          ((shardGroup s3 k).filter (fun n => isMember s3 n && n != s3.aon.nodeId)).foldl (fun s n =>
            sendRing s n (w + 63) msgMargin (leBytes 4 k ++ leBytes 2 cal.marginNow.toNat ++ leBytes 1 aud.lastMove)) s3
      else s)

/-- A margin and move taken at W + 64 (R110). -/
def takeMargin (tick : Nat) (m : F16) (mv : Nat) (c : Ctx) : Ctx :=
  { c with cal := { c.cal with marginNow := m },
           audit := { c.audit with marginRx := m, lastMove := mv, moveTick := tick % 4294967296 } }

/-- MARGIN_BROADCAST_APPLY (R110, R112): at W + 64, once; a member takes the margin and move received, a node without audits
ignores them, a missed broadcast is counted, and a calibration load at the same boundary wins. The root, to which no copy comes,
takes its own when it decided in this window (log 109). -/
def execMarginBroadcastApply (ctx : CtxId) (rx : Option (F16 × BitVec 2)) (s : State) : Host.Outcome State Fault Refusal :=
  .next (
    let k := ctx.toNat
    let c := settleCal s (ctxOf s k)
    if c.live && decide (s.clk.tick % 16384 = 64) && c.cal.auditEn && auditMember s k && c.audit.applied != some s.clk.tick then
      let c1 := { c with audit := { c.audit with applied := some s.clk.tick } }
      let loaded := c.audit.loadTick == some s.clk.tick
      let take (m : F16) (mv : Nat) : State := onCtx s k (fun _ => if loaded then c1 else takeMargin s.clk.tick m mv c1)
      if auditRoot s k = some s.aon.nodeId then
        if c.audit.decided = some (s.clk.tick - 64) then take c.cal.marginNow c.audit.lastMove else onCtx s k (fun _ => c1)
      else
        match rx with
        | none => bump (onCtx s k (fun _ => c1)) .marginMiss
        | some (m, mv) => take m mv.toNat
    else s)

/-- The audit-state word as controlling software reads it (R109). -/
def auditWord (s : State) (k : Nat) : Nat :=
  let a := keptBelow s k (ctxOf s k).audit
  packFields [(32, a.moveTick), (6, 0), (2, a.lastMove), (8, a.below), (16, a.marginRx.toNat), (32, a.miss), (32, a.total)]

/-! ### Power (R469 to R471) -/

/-- The effective cap (R469). -/
def effectiveCap (s : State) : Nat :=
  let l := s.aon.powerLimit.toNat
  let a := if s.pow.capW = 0 then l else min l s.pow.capW.toNat
  match s.pow.boardCap with
  | none => a
  | some b => min a b.toNat

/-- SHED and CALM at a window boundary (R471). -/
def nextShed (power cap : Nat) (warn : Bool) (shed calm : Nat) : Nat × Nat :=
  if cap < power ∨ warn = true then (min 7 (shed + 1), 0)
  else if power * 100 < cap * 95 then
    let c := min 15 (calm + 1)
    if 4 ≤ c ∧ 0 < shed then (shed - 1, 0) else (shed, c)
  else (shed, 0)

/-- POWER_WINDOW_BOUNDARY (R469, R471, R473): once at each tick that is a multiple of 1,024; `power` is the average of the
window just ended. -/
def execPowerWindowBoundary (power : BitVec 16) (s : State) : Host.Outcome State Fault Refusal :=
  .next (
    if s.clk.tick % 1024 = 0 ∧ s.clk.lastPower ≠ some s.clk.tick then
      let cap := effectiveCap s
      let (shed, calm) := nextShed power.toNat cap s.pow.warn s.pow.shed.toNat s.pow.calm.toNat
      let pow := { s.pow with powerW := power, capEff := BitVec.ofNat 16 cap, shed := BitVec.ofNat 3 shed, calm := BitVec.ofNat 4 calm }
      let s1 : State := { s with pow := pow, clk := { s.clk with lastPower := some s.clk.tick } }
      if shed ≠ s.pow.shed.toNat ∨ (shed = 7 ∧ cap < power.toNat) then raiseEvent s1 evShed (pwrStatusReg s1) else s1
    else s)

end Sys2Proof.Machine
end

