-- ==== Sys2Proof/Machine/FlashOps.lean ====
section
/-! DEFINITION. Flash addresses, segments and the read queue (R315 to R318, R327, R330, R334). -/

namespace Sys2Proof.Machine

open Sys2Proof

/-- A logical address, decoded (R315). -/
structure FAddr where
  seg : Nat
  col : Nat
  page : Nat
  cw : Nat
  off : Nat
deriving DecidableEq, Repr

def faddrOf (n : Nat) : FAddr := ⟨bitsOf n 25 15, bitsOf n 21 4, bitsOf n 9 12, bitsOf n 7 2, bitsOf n 0 7⟩

def faddrNat (a : FAddr) : Nat := packFields [(7, a.off), (2, a.cw), (12, a.page), (4, a.col), (15, a.seg)]

/-- A legal address for an image of `size` bytes (R315). -/
def faddrOk (s : State) (a : FAddr) (size : Nat) : Bool :=
  decide (a.seg < s.fl.segments) && decide (a.col < 15) && decide (a.page < s.fl.pages.toNat)
  && decide (a.off * 32 + size ≤ 4096)

def segOf (s : State) (i : Nat) : Seg := tget Seg.reset s.fl.segs i
def putSeg (s : State) (i : Nat) (x : Seg) : State := { s with fl := { s.fl with segs := tput Seg.reset s.fl.segs i x } }
def onSeg (s : State) (i : Nat) (f : Seg → Seg) : State := putSeg s i (f (segOf s i))

def superOf (s : State) (i : Nat) : Super := tget Super.reset s.fl.supers i
def putSuper (s : State) (i : Nat) (x : Super) : State :=
  { s with fl := { s.fl with supers := tput Super.reset s.fl.supers i x } }

def lunOf (s : State) (i : Nat) : Lun := tget Lun.reset s.fl.luns i
def putLun (s : State) (i : Nat) (x : Lun) : State := { s with fl := { s.fl with luns := tput Lun.reset s.fl.luns i x } }
def onLun (s : State) (i : Nat) (f : Lun → Lun) : State := putLun s i (f (lunOf s i))

/-- The block-table key of a LUN and block. -/
def blockKey (lun block : Nat) : Nat := lun * 65536 + block
def blockInfo (s : State) (lun block : Nat) : BlockInfo := tget BlockInfo.reset s.fl.blockTab (blockKey lun block)
def putBlock (s : State) (lun block : Nat) (x : BlockInfo) : State :=
  { s with fl := { s.fl with blockTab := tput BlockInfo.reset s.fl.blockTab (blockKey lun block) x } }

/-- The store key of a codeword: LUN, block, page, codeword. -/
def cwKey (lun block page cw : Nat) : Nat := ((lun * 65536 + block) * 4096 + page) * 4 + cw

def cwAt (s : State) (k : Nat) : Option (CtxId × List Byte) := tget none s.fl.store k
def putCw (s : State) (k : Nat) (x : Option (CtxId × List Byte)) : State :=
  { s with fl := { s.fl with store := tput none s.fl.store k x } }

/-- The group of a position, numbered 16 × group + 2 × CE + LUN. -/
def posGroup (pos : Nat) : Nat := pos / 16

/-- The LUN of a position on channel `k` of its group (R314). -/
def posLun (pos k : Nat) : Nat := 16 * (16 * posGroup pos + k) + pos % 16

/-- The channel within the group on which a column lies (R316): the parity page counts as column 15. -/
def colChannel (page col : Nat) : Nat := (page % 16 + 1 + col) % 16

/-- The column number under which a page row's parity page goes (R316). -/
def parityCol : Nat := 15

/-- Whether a segment's pages lie in SLC superblocks (R317). -/
def segIsSlc (g : Seg) : Bool := g.state == .slc || (g.state == .open_ && g.slcMode)

/-- Pages per block in SLC mode (R317). -/
def slcPages (s : State) : Nat := s.fl.pages.toNat / 3

/-- The superblock and the page within it of a segment's page row (R317). -/
def segPlace (s : State) (g : Seg) (page : Nat) : Nat × Nat :=
  if segIsSlc g then
    (if slcPages s = 0 then (0, 0) else (g.sbs.getD (page / slcPages s) 0, page % slcPages s))
  else (g.sbs.headD 0, page)

/-- Where a page of a segment stands on channel `k` of the group: LUN, block, page. -/
def segPhys (s : State) (g : Seg) (page k : Nat) : Nat × Nat × Nat :=
  let (sb, pg) := segPlace s g page
  (posLun g.pos k, (superOf s sb).blocks.getD k 0, pg)

/-- Where a logical address stands (R316, R317): LUN, block, page. -/
def faddrPhys (s : State) (a : FAddr) : Nat × Nat × Nat := segPhys s (segOf s a.seg) a.page (colChannel a.page a.col)

/-- The codeword of a logical address, if its segment is mapped and its page programmed (R318). -/
def faddrCw (s : State) (a : FAddr) : Option (CtxId × List Byte) :=
  if (segOf s a.seg).state == .free then none
  else
    let (l, b, p) := faddrPhys s a
    cwAt s (cwKey l b p a.cw)

/-- Image bytes of a codeword, from a logical address on. -/
def imageIn (a : FAddr) (size : Nat) (d : List Byte) : List Byte := slice d (a.off * 32) size

/-- The image bytes at a logical address. -/
def faddrBytes (s : State) (a : FAddr) (size : Nat) : List Byte :=
  match faddrCw s a with
  | some (_, d) => imageIn a size d
  | none => List.replicate size 0

/-- The 15 other codewords of the stripe of a codeword, as far as they hold data (R316, R331). -/
def stripeOthers (s : State) (a : FAddr) : List FAddr :=
  ((List.range 16).filter (· != a.col)).map (fun k => { a with col := k, off := 0 }) |>.filter (fun x => (faddrCw s x).isSome)

/-- The byte-wise XOR of codewords, 4,096 data bytes each, missing bytes zero (R316). -/
def xorBytes (l : List (List Byte)) : List Byte :=
  l.foldl (fun acc d => (List.range 4096).map (fun i => acc.getD i 0 ^^^ d.getD i 0)) (List.replicate 4096 0)

/-- The codeword that the rest of its stripe gives (R316, R331). -/
def stripeXor (s : State) (a : FAddr) : List Byte :=
  xorBytes ((stripeOthers s a).filterMap (fun x => (faddrCw s x).map (·.2)))

/-- The bit length of a number. -/
def bitLength (n : Nat) : Nat := if n = 0 then 0 else Nat.log2 n + 1

/-- The first ladder step of a read (R330). -/
def firstStep (s : State) (lun block : Nat) : Nat :=
  let b := blockInfo s lun block
  let a := min 15 (bitLength ((s.clk.tick - b.writeTick) / 16384))
  let dt := (lunOf s lun).temp - b.progTemp
  let bb := if dt < -20 then 0 else if dt < 0 then 1 else if dt < 20 then 2 else 3
  (Config.trimThresh s.aon.trim s.fl.family a bb).val

/-- Steps tried by the read-retry ladder after the first, in order (R331). -/
def ladderSteps (s0 : Nat) : List Nat :=
  (List.range (7 - s0)).map (fun k => s0 + 1 + k) ++ (List.range s0).map (fun k => s0 - 1 - k)

/-- Plan reads held (R334). -/
def planReads (s : State) : Nat := (s.fl.reads.filter (fun r => r.cls == 1)).length

/-- The key of a (LUN, context) pair. -/
def lunCtxKey (lun : Nat) (c : CtxId) : Nat := lun * 4096 + c.toNat

/-- The work units of a flash read (R327). -/
def readLength (s : State) : Nat := 16 + s.fl.overhead.toNat

/-- Start and finish tags (R327, R452): a backlogged queue starts at its last finish, a waking one as the service mode
says. -/
def wfqTags (mode : BitVec 2) (v flast burst weight len : Nat) (backlogged : Bool) : Nat × Nat :=
  let w := if weight = 0 then 1 else weight
  let st :=
    if backlogged then flast
    else if mode = 0 then max v flast
    else max flast (v - burst * 65536 / w)
  (st, st + len * 65536 / w)

/-- Tags of a class 1 read that heads its context's queue on a LUN. -/
def readTags (s : State) (lun : Nat) (c : CtxId) (backlogged : Bool) : Nat × Nat :=
  let a := (ctxOf s c.toNat).adm
  wfqTags s.host.admMode (lunOf s lun).vtime (tget 0 s.fl.flast (lunCtxKey lun c)) a.burst a.weight (readLength s) backlogged

/-- Class 1 reads of a context that wait for a LUN, in queue order. A read of a location that holds no data never joins them
(R318). -/
def planQueue (s : State) (lun : Nat) (c : CtxId) : List FRead :=
  s.fl.reads.filter (fun r => r.lun.val == lun && r.stage == .queued && r.cls == 1 && r.ctx == c && !r.absent)

/-- A read taken into the queues (R318, R327, R334). -/
def queueRead (s : State) (why : ReadFor) (c : CtxId) (item : BitVec 36) (version : Option (BitVec 24)) (addr cls dl : Nat) :
    State :=
  let a := faddrOf addr
  let (l, b, _) := faddrPhys s a
  let absent := (faddrCw s a).isNone
  let (st, fi) := if cls = 1 ∧ absent = false ∧ planQueue s l c = [] then readTags s l c false else (0, 0)
  let r : FRead :=
    { id := s.fl.nextRead, why := why, ctx := c, item := item, version := version, addr := addr,
      lun := Fin.ofNat 512 l, block := b, cls := cls, deadline := dl, stage := .queued,
      s0 := firstStep s l b, tried := [], start := st, finish := fi, queued := s.clk.tick, absent := absent, stripeBad := false }
  { s with fl := { s.fl with reads := s.fl.reads ++ [r], nextRead := s.fl.nextRead + 1 } }

def readOf (s : State) (id : Nat) : Option FRead := s.fl.reads.find? (fun r => r.id == id)
def dropRead (s : State) (id : Nat) : State := { s with fl := { s.fl with reads := s.fl.reads.filter (fun r => r.id != id) } }
def onRead (s : State) (id : Nat) (f : FRead → FRead) : State :=
  { s with fl := { s.fl with reads := s.fl.reads.map (fun r => if r.id == id then f r else r) } }

end Sys2Proof.Machine
end

