-- ==== Sys2Proof/Machine/TierOps.lean ====
section
/-! DEFINITION. Tiers of a context (R302, R303, R306): hot areas, update credit and the start of a tier change. -/

namespace Sys2Proof.Machine

open Sys2Proof

/-! ### Hot areas (R306, R307) -/

/-- Bytes of a hot slot: an image and its trailer. -/
def hotSlotSize (c : Ctx) : Nat := fvSize c + 32

/-- Hot slots of a context's area. -/
def hotSlots (c : Ctx) : Nat := c.tier.hotRows * 1024 / hotSlotSize c

/-- The byte address of hot slot `i`. -/
def hotAddr (c : Ctx) (i : Nat) : Nat := c.tier.hotBase * 1024 + i * hotSlotSize c

/-- The occupant of the hot slot at a byte address. -/
def hotOccupant (s : State) (a : Nat) : Option (CtxId × BitVec 36) :=
  (s.upd.hotUsed.find? (fun h => h.1 == a)).map (·.2)

def freeHot (s : State) (a : Nat) : State :=
  { s with upd := { s.upd with hotUsed := s.upd.hotUsed.filter (fun h => h.1 != a) } }

def useHot (s : State) (a : Nat) (c : CtxId) (item : BitVec 36) : State :=
  { s with upd := { s.upd with hotUsed := (s.upd.hotUsed.filter (fun h => h.1 != a)) ++ [(a, c, item)] } }

/-! ### Migrations in progress -/

def migOf (s : State) (id : Nat) : Option Mig := s.upd.migs.find? (fun m => m.id == id)

def dropMig (s : State) (id : Nat) : State :=
  { s with upd := { s.upd with migs := s.upd.migs.filter (fun m => m.id != id) } }

def putMig (s : State) (m : Mig) : State :=
  { s with upd := { s.upd with migs := s.upd.migs.map (fun x => if x.id == m.id then m else x) } }

/-- A migration's copy has landed, at `dst`: the flip may follow from the next boundary on (R307, R320). -/
def landMig (s : State) (m : Mig) (dst : Nat) : State :=
  putMig s { m with dst := dst, landed := true, landTick := s.clk.tick }

/-- A migration begins, if fewer than 256 are in progress (R308). -/
def addMig (s : State) (kind : MigKind) (c : CtxId) (sh : BitVec 20) (item : BitVec 36) (src dst : Nat) (landed : Bool) :
    State :=
  let m : Mig := ⟨s.upd.nextMig, kind, c, sh, item, src, dst, landed, 0, false, s.clk.tick⟩
  { s with upd := { s.upd with migs := s.upd.migs ++ [m], nextMig := s.upd.nextMig + 1 } }

/-- A promotion given up: its destination is free at once, and a flash read of it that has not been sent is none any more. -/
def cancelPromotion (s : State) (m : Mig) : State :=
  let s1 := freeHot (dropMig s m.id) (m.dst * 32)
  { s1 with fl := { s1.fl with reads := s1.fl.reads.filter (fun r => !(r.why == .promotion m.id && r.stage == .queued)) } }

/-- The promotions of a context stop (R303 step 1): queued ones and those not yet flipped, each counted. -/
def dropPromotions (s : State) (k : CtxId) : State :=
  let ms := s.upd.migs.filter (fun m => m.kind == .promotion && m.ctx == k)
  let q := s.upd.promoteQ.filter (fun p => p.1 == k)
  let s1 := ms.foldl cancelPromotion s
  bumpBy { s1 with upd := { s1.upd with promoteQ := s1.upd.promoteQ.filter (fun p => p.1 != k) } } .promoteDrop
    (ms.length + q.length)

/-! ### Loads of tier control words (R302 to R304) -/

/-- A change of MODE or of the hot area takes the steps of R303. -/
def tierMoves (a b : Tier) : Bool := a.localHot != b.localHot || a.hotBase != b.hotBase || a.hotRows != b.hotRows

/-- The update credit's cap, in 1/256 of an update (R304). -/
def creditCap (t : Tier) : Nat := 256 * t.updBurst

/-- A load takes effect at the boundary (R302, R303): the plain fields at once; a change of MODE or of the hot area stops the
context's promotions and starts the steps of R303. A change of the credit's own fields starts it at its cap. -/
def tierEffect (s : State) (k : Nat) : State :=
  let c := ctxOf s k
  match c.tierNext with
  | none => s
  | some w =>
    let t := { c.tier with purgeLog2 := w.purgeLog2, updRate := w.updRate, updBurst := w.updBurst }
    let credit := if c.tier.updRate = w.updRate ∧ c.tier.updBurst = w.updBurst then c.credit else creditCap w
    let s1 := onCtx s k (fun c => { c with tier := t, tierNext := none, credit := credit })
    if tierMoves c.tier w then
      let ch : TierChange := ⟨w, none, s.clk.tick⟩
      onCtx (dropPromotions s1 (BitVec.ofNat 12 k)) k (fun c => { c with tierChange := some ch })
    else s1

end Sys2Proof.Machine
end

