-- ==== Sys2Proof/Machine/HostOps.lean ====
section
/-! DEFINITION. Requests at the host interface: completion records (R444 to R446), queue heads and their tags (R452), the
end of an admitted request. -/

namespace Sys2Proof.Machine

open Sys2Proof

/-! ### Completion records (R444) -/

/-- What a completion says beyond the request itself. -/
structure Result where
  status : BitVec 8
  count : Nat
  coverage : Nat
  approx : Bool
  tie : Bool
  version : Nat
deriving DecidableEq, Repr

/-- A completion that carries a status and nothing else. -/
def Result.of (st : BitVec 8) : Result := ⟨st, 0, 0, false, false, 0⟩

/-- The record of a request (R444, R446), but for PHASE. -/
def recordNat (r : Req) (snap : Nat) (reh : Bool) (x : Result) : Nat :=
  let cov := if isSearch r then x.coverage else 0
  let count := if r.op = 1 ∨ r.op = 4 then x.count else 0
  let ver := if (r.op = 2 ∨ r.op = 3) ∧ x.status = stDone then x.version else 0
  packFields [(8, x.status.toNat), (82, 0), (24, ver), (1, b2n (isSearch r && decide (cov < 65535))),
    (1, b2n (isSearch r && x.approx)), (1, b2n (isSearch r && x.tie)), (1, b2n reh), (16, cov), (13, count),
    (12, r.ctx.toNat), (9, r.sq.val), (16, r.tag.toNat), (64, snap)]

/-- A completion record joins those that the present tick writes. -/
def pushDue (s : State) (d : Due) : State := { s with host := { s.host with due := s.host.due ++ [d] } }

/-- A request that was never admitted completes: SNAPSHOT 0 (R443, R444). -/
def completeReq (s : State) (r : Req) (st : BitVec 8) : State :=
  pushDue s ⟨r.fn, 0, none, r.sq, recordNat r 0 false (Result.of st)⟩

/-- A request that completes at its admission, in tick `t`, with no slot of its own (R84, R398, R400). -/
def completeAtAdmission (s : State) (r : Req) (t : Nat) (st : BitVec 8) : State :=
  pushDue s ⟨r.fn, t, none, r.sq, recordNat r t (inRehearsal s t t) (Result.of st)⟩

/-- The status that a record carries (R199, R446): a code above 0x11 becomes BAD_FIELD, and a search that is DONE below
MIN_COV becomes PARTIAL. -/
def finalStatus (s : State) (r : Req) (x : Result) : BitVec 8 :=
  if 0x11 < x.status.toNat then stBadField
  else if isSearch r && x.status == stDone && decide (x.coverage < (ctxOf s r.ctx.toNat).adm.minCov) then stPartial
  else x.status

/-- Whether a sequence's filter, left as it is, has failed and is not counted yet (R356). -/
def filterLeft (q : Seq) : Bool := q.bound.any (fun b => b.2.2 == 2) && !q.gend && !q.fell

/-- The filters of a request that completes have ended: those without END have failed (R354, R356). -/
def endFilters (s : State) (slot t : Nat) : State :=
  let hit (q : Seq) : Bool := q.bound.any (fun b => b.1.val == slot && b.2.1 == t) && filterLeft q
  let s1 : State := { s with txt := { s.txt with
    seqs := tmapAll Seq.reset (fun _ q => if hit q then { q with fell := true } else q) s.txt.seqs } }
  bumpBy s1 .filterFallback (s.txt.seqs.filter (fun kv => hit kv.2)).length

/-- An admitted request ends (R199, R275, R412): its record is due, its slot is free, its ledger word ends. A request of a
function that was reset writes nothing (R429). -/
def completeAdm (s : State) (slot : Nat) (x : Result) : State :=
  match admOf s slot with
  | none => s
  | some a =>
    let y := { x with status := finalStatus s a.req x }
    let d : Due := ⟨a.req.fn, a.t, some slot, a.req.sq, recordNat a.req a.t (inRehearsal s a.t s.clk.tick) y⟩
    let s1 := endFilters (endPool (putAdm s slot none) slot) slot a.t
    if a.silent then s1 else pushDue s1 d

/-- One record written into its function's ring: bytes 0 to 30, then byte 31, then CQ_TAIL (R444). A faulted function gets
none (R431). -/
def writeDue (s : State) (d : Due) : State :=
  let f := funcOf s d.fn.val
  let s1 := onFunc s d.fn.val (fun f => { f with open_ := f.open_ - 1 })
  if f.fault then s1
  else
    let b := leBytes 32 (d.body % 2 ^ 255 + b2n f.phase * 2 ^ 255)
    let a := f.cqBase.toNat + 32 * f.cqTail.toNat
    let wrap := f.cqTail.toNat + 1 == 2 ^ f.log2.toNat
    let s2 := onFunc s1 d.fn.val (fun f =>
      { f with cqTail := if wrap then 0 else f.cqTail + 1, phase := if wrap then !f.phase else f.phase })
    { s2 with io := { s2.io with hostWrites := s2.io.hostWrites ++ [(a, b.take 31), (a + 31, b.drop 31)] } }

/-- The order of one function's records of a tick (R444): admitted requests by (SNAPSHOT, slot), then the others by
SQ_INDEX. -/
def dueBefore (a b : Due) : Bool :=
  match a.slot, b.slot with
  | some i, some j => decide (a.snapshot < b.snapshot) || (a.snapshot == b.snapshot && decide (i < j))
  | some _, none => true
  | none, some _ => false
  | none, none => decide (a.sq < b.sq)

/-- The records of the tick that ends are written. -/
def flushDue (s : State) : State :=
  (sortBy dueBefore s.host.due).foldl writeDue { s with host := { s.host with due := [] } }

/-! ### Queues and tags (R451, R452) -/

/-- The length of a request in work units (R452). -/
def reqLength (s : State) (r : Req) : Nat := s.host.admOver.toNat + (r.inLen + 255) / 256 + (r.k + 63) / 64

/-- The key of F_last: a pipeline and a context. -/
def pipeCtxKey (pipe : Nat) (c : CtxId) : Nat := pipe * 4096 + c.toNat

/-- A request's tags as it becomes its queue's head (R452). -/
def headTags (s : State) (r : Req) (backlogged : Bool) : Nat × Nat :=
  let a := (ctxOf s r.ctx.toNat).adm
  wfqTags s.host.admMode (tget 0 s.host.vtime r.pipe) (tget 0 s.host.flast (pipeCtxKey r.pipe r.ctx)) a.burst a.weight
    (reqLength s r) backlogged

/-- The head of a context's queue for a pipeline. -/
def queueHead (l : List Req) (pipe : Nat) (c : CtxId) : Option Req := l.find? (fun r => r.pipe == pipe && r.ctx == c)

/-- The first request of a queue gets its tags, if it has none. -/
def tagHead (s : State) (pipe : Nat) (c : CtxId) (backlogged : Bool) : State :=
  match firstIdx (fun (r : Req) => r.pipe == pipe && r.ctx == c) s.host.queued with
  | none => s
  | some i =>
    let f (r : Req) : Req :=
      if r.head.isSome then r else { r with head := some (headTags s r backlogged), backlogged := backlogged }
    { s with host := { s.host with queued := s.host.queued.modify i f } }

/-- An accepted request joins its context's queue (R441). -/
def enqueue (s : State) (r : Req) : State :=
  tagHead { s with host := { s.host with queued := s.host.queued ++ [r] } } r.pipe r.ctx false

/-- A request named by its function and submission slot. -/
def sameReq (a : Req) (fn : Fin 513) (sq : Fin 512) (c : CtxId) : Bool := a.fn == fn && a.sq == sq && a.ctx == c

/-- A request leaves its queue. -/
def dequeue (s : State) (r : Req) : State := { s with host := { s.host with queued := s.host.queued.erase r } }

/-- A queued request ends without admission, and the next of its queue becomes the head. -/
def failQueued (s : State) (r : Req) (st : BitVec 8) : State :=
  tagHead (dequeue (completeReq s r st) r) r.pipe r.ctx false

/-- Requests of a function consumed and not yet admitted, and admitted and not yet complete (R439). -/
def queuedOf (s : State) (fn : Nat) : Nat := (s.host.queued.filter (fun r => r.fn.val == fn)).length
def inflightOf (s : State) (fn : Nat) : Nat :=
  ((admSlots s).filter (fun k => match admOf s k with | some a => a.req.fn.val == fn && !a.silent | none => false)).length

end Sys2Proof.Machine
end

