-- ==== Sys2Proof/Machine/ChangeOps.lean ====
section
/-! DEFINITION. What changes of items share (R282 to R301, R305): slots, staging, images released, exclusion lists, versions,
shard states. -/

namespace Sys2Proof.Machine

open Sys2Proof

/-! ### Record slots (R40, R42) -/

/-- LIVE_COUNT of the partition that a row of a copy lies in changes by one (R40). -/
def addLive (s : State) (c : ShardCopy) (row : Nat) (up : Bool) : State :=
  match partOfRow s c row with
  | none => s
  | some p =>
    let d := readPart s c p
    writePart s c p { d with liveCount := if up then d.liveCount + 1 else d.liveCount - 1 }

/-- A live record written whole into a slot (R136, R287). -/
def putRecord (s : State) (c : ShardCopy) (size : Nat) (loc : BitVec 28) (b : List Byte) : State :=
  addLive (memWrite s (locAddr c size loc) (slice b 0 (16 * size))) c (loc.toNat / 32) true

/-- What a close or a rollback writes over a slot: zero bytes, and a live record counts no more (R291, R297). -/
def zeroSlot (s : State) (c : ShardCopy) (size : Nat) (loc : BitVec 28) : State :=
  if loc = noSlot then s
  else
    let a := locAddr c size loc
    let live := (headerOf (memRead s a 16)).live
    let s1 := memWrite s a (List.replicate (16 * size) 0)
    if live then addLive s1 c (loc.toNat / 32) false else s1

/-- A deleted item's home slot (R297): LIVE = 0 and TOMBSTONE = 1, the other bytes kept (log 42). -/
def tombSlot (s : State) (c : ShardCopy) (size : Nat) (loc : BitVec 28) : State :=
  if loc = noSlot then s
  else
    let a := locAddr c size loc
    let h := headerOf (memRead s a 16)
    let s1 := memWrite s a (headerBytes { h with live := false, tombstone := true })
    if h.live then addLive s1 c (loc.toNat / 32) false else s1

/-- ROW_COUNT of the partition of a slot covers the slot's row (R42). -/
def coverRow (s : State) (c : ShardCopy) (loc : BitVec 28) : State :=
  if loc = noSlot then s
  else
    match partOfRow s c (loc.toNat / 32) with
    | none => s
    | some p =>
      let d := readPart s c p
      writePart s c p { d with rowCount := max d.rowCount (loc.toNat / 32 - d.rowBase + 1) }

/-- Where a partition takes its next record (R42). -/
def nextSlot (s : State) (c : ShardCopy) (p : Nat) : Option (BitVec 28) :=
  if c.loaded.contains p then (appendPlace s c (readPart s c p)).map (fun x => locOf x.1 x.2.1) else none

/-! ### Staging (R305) -/

/-- Where the staging log takes an image of `len` bytes: an address, if it fits. The head never passes the oldest image
held. -/
def stagePlace (s : State) (len : Nat) : Option Nat :=
  let size := s.upd.stageRows * 1024
  let base := s.upd.stageBase * 1024
  let h := s.upd.stageHead
  let off : Option Nat :=
    match s.upd.staged with
    | [] => if h + len ≤ size then some h else if len ≤ size then some 0 else none
    | x :: _ =>
      let o := x.addr - base
      if h ≤ o then (if h + len ≤ o then some h else none)
      else if h + len ≤ size then some h
      else if len ≤ o then some 0 else none
  off.map (base + ·)

/-- An image placed at the head (R305). -/
def stageImage (s : State) (x : Staged) : State :=
  let head := x.addr - s.upd.stageBase * 1024 + (x.len + 31) / 32 * 32
  { s with upd := { s.upd with staged := s.upd.staged ++ [x], stageHead := head } }

def freeStaged (s : State) (addr : Nat) : State :=
  { s with upd := { s.upd with staged := s.upd.staged.filter (fun x => x.addr != addr) } }

/-! ### Images released (R297, R305, R306, R324) -/

/-- A flash copy released: LIVE of its segment falls (R324). -/
def releaseFlash (s : State) (addr size : Nat) : State :=
  onSeg s (faddrOf addr).seg (fun g => { g with live := g.live - size / 32 })

/-- The flash address in a hot slot's trailer (R306). -/
def trailerOf (s : State) (c : Ctx) (hot : Nat) : Nat := memNat s (hot + fvSize c) 5

/-- The image that a state's directory entry names is released: its memory slot or staging space, and its flash copy. A
deleted item's image was released when its delete closed. -/
def releaseImage (s : State) (c : Ctx) (e : DirEnt) : State :=
  if e.deleted then s
  else if e.flash then releaseFlash s e.fvLoc (fvSize c)
  else if e.staged then freeStaged s (32 * e.fvLoc)
  else freeHot (releaseFlash s (trailerOf s c (32 * e.fvLoc)) (fvSize c)) (32 * e.fvLoc)

/-! ### Directories and spill tables -/

/-- Whether an item has a migration in progress (R308). -/
def migrating (s : State) (c : CtxId) (item : BitVec 36) : Bool :=
  s.upd.migs.any (fun m => m.ctx == c && m.item == item)

/-- A mapping-word write by an apply, a rollback or a close sets DIRTY while the item migrates (R308). -/
def dirtied (s : State) (c : CtxId) (e : DirEnt) : DirEnt := { e with dirty := migrating s c e.item }

/-- An item's entry written in its place, or in a free one (R52). -/
def writeEntry (s : State) (c : ShardCopy) (e : DirEnt) : State :=
  match (dirFind s c e.item).or (dirPlaceFor s c e.item.toNat) with
  | some a => putDirEnt s a e
  | none => s

/-- An item's spill-table entry: the slot of its spill copy, or free (R54). -/
def writeSpill (s : State) (c : ShardCopy) (item : BitVec 36) (loc : BitVec 28) : State :=
  if loc = noSlot then (match spillFind s c item with | some a => freeSpill s a | none => s)
  else
    match (spillFind s c item).or (spillPlaceFor s c item.toNat) with
    | some a => putSpill s a item loc
    | none => s

/-! ### Versions (R31, R289) -/

/-- The version that a new change of an item takes (R289): after the newest of its open entries, else after its record's, or
the prepared entry's when it has no record; 1 for an item with no directory entry. -/
def newVersion (s : State) (c : ShardCopy) (item : BitVec 36) (prep : List Byte) : BitVec 24 :=
  match (itemChgs s c.ctx c.shard item).getLast? with
  | some kv => versionNext kv.2.version
  | none =>
    match dirLook s c item with
    | none => 1
    | some e => versionNext (if e.recLoc = noRec then (headerOf prep).version else recVersion s c e.recLoc)

/-! ### Rollback (R291) -/

/-- The writes that roll an aborted change back: the directory entry and the spill-table entry are what they were, the new slots
are zero, the staged image is free. The entry is FREE at the boundary after them. -/
def rollBack (s : State) (k : Nat) : State :=
  let x := chgOf s k
  let s0 := onChg s k (fun y => { y with rolled := true })
  match copyOf s x.ctx.toNat x.shard.toNat with
  | none => s0
  | some c =>
    let size := ctxRecSize s x.ctx.toNat
    let s1 :=
      match dirFind s0 c x.item with
      | none => s0
      | some a => if x.oldEntry = 0 then memWrite s0 a (List.replicate 16 0)
                  else putDirEnt s0 a (dirtied s0 x.ctx (dirEntOf x.oldEntry.toNat))
    let s3 := zeroSlot (zeroSlot (writeSpill s1 c x.item x.spillWas) c size x.newHome) c size x.newSpill
    match x.newImage with | some a => freeStaged s3 a | none => s3

/-- The boundary's part of R291: an aborted entry is rolled back by C + 8 at the latest, and an entry whose rollback has been
written is FREE. -/
def freeRolled (s : State) : State :=
  let late (e : Chg) : Bool := e.state == .aborted && !e.rolled && decide (e.commitTick + 8 ≤ s.clk.tick)
  let s1 := ((s.upd.chg.filter (fun kv => late kv.2)).map (·.1)).foldl rollBack s
  { s1 with upd := { s1.upd with chg := tmapAll Chg.reset (fun _ e => if e.rolled then Chg.reset else e) s1.upd.chg } }

/-! ### HOLD (R298) -/

/-- The largest LENGTH among a plan's SEARCH and FETCH pipelines. -/
def planHold (p : Plan) : Nat := ((p.pipes.filter (fun q => q.kind == 0 || q.kind == 3)).map (·.length)).foldl max 0

/-- HOLD: of the active plan, and during an activation drain across both plans. -/
def hold (s : State) : Nat :=
  let old := (s.plan.active.map planHold).getD 0
  if s.plan.draining then max old ((s.plan.next.map planHold).getD 0) else old

/-! ### Exclusion lists (R294, R295) -/

/-- A Bean's list is built again for the snapshot of the search list that loaded it last (R295). -/
def reloadExcl (s : State) (b : Nat) : State :=
  match (beanOf s b).exclFor with
  | some (_, t) => onBean s b (fun x => { x with excl := exclusionData s b t })
  | none => s

/-- The Beans on which an entry's new slots lie. -/
def newBeans (s : State) (e : Chg) : List Nat :=
  uniq (([e.newHome, e.newSpill].filter (fun l => l != noSlot)).map (fun l => beanOfRow (chgRow s e l)))

/-- The limits of R285 with one entry more: 16 references on any Bean. -/
def refsOk (s : State) (e : Chg) : Bool :=
  let bs := (chgRefs e).map (fun l => beanOfRow (chgRow s e l))
  bs.all (fun b => decide (beanRefs s b + (bs.filter (· == b)).length ≤ 16))

/-! ### Shards (R417 to R419) -/

/-- A fill given up (R418): the source is the single holder, and the partial copy goes. -/
def abandonFill (s : State) (c sh : Nat) : State :=
  let e := shardEnt s c sh
  if e.state = .filling then
    let s1 := putShard s c sh { e with state := .takeover, partner := e.primary }
    let fs := s1.mach.fills.filter (fun f => !(f.ctx.toNat == c && f.shard.toNat == sh))
    bump { s1 with mach := { s1.mach with fills := fs } } .fillAbandon
  else s

end Sys2Proof.Machine
end

