-- ==== Sys2Proof/Machine/Gather.lean ====
section
/-! DEFINITION. GATHER, VFETCH and SLST (R171 to R175, R203 to R206, R530). -/

namespace Sys2Proof.Machine

open Sys2Proof

/-- Output words of a drop and of a refusal for want of a slot or entry (R172, R173). -/
def outDrop : Nat := 0xFFFFFFFF
def outFull : Nat := 0xFFFFFFFE

/-- The output words written from an offset of tile or pod store. -/
def writeWords (s : State) (t : Fin 192) (pod : Bool) (off : Nat) (ws : List Nat) : State :=
  let d := ws.flatMap (leBytes 4)
  if pod then podWrite s (podOfTile t.val) (podEff s t.val) t.val off d else tileWrite s t.val off d

/-! ### Gathers -/

/-- A gather descriptor and its window word (R171, R203). -/
structure GatherDesc where
  space : Nat
  node : Nat
  seg : Nat
  base : Nat
  size : Nat
  count : Nat
  stageBase : Nat
  stageSlots : Nat
  outPod : Bool
  nMax : Nat
deriving DecidableEq, Repr

def gatherDescOf (d w : Nat) : GatherDesc :=
  { space := bitsOf d 125 3, node := bitsOf d 110 15, seg := bitsOf d 106 4, base := 32 * bitsOf d 72 34,
    size := 2 ^ bitsOf d 68 4, count := bitsOf d 36 32, stageBase := bitsOf d 16 20, stageSlots := bitsOf d 3 13,
    outPod := bitOf w 22, nMax := bitsOf w 0 21 }

/-- Where an element lies (R168, R172): `none` for one outside its space or segment, and for one in node memory or on another node when
the tile's bundle is bound to no request (DESIGN CHOICE, log 151). -/
inductive GatherSrc where
  | tile (off : Nat)
  | pod (off : Nat)
  | node (addr : Nat)
  | remote (off : Nat)
deriving DecidableEq, Repr

def gatherSrc (s : State) (t : Fin 192) (g : GatherDesc) (i : Nat) : Option GatherSrc :=
  let off := g.base + i * g.size
  match g.space with
  | 0 => if tileRangeOk s t.val off g.size then some (.tile off) else none
  | 1 => if off + g.size ≤ podStoreBytes then some (.pod off) else none
  | 2 =>
    match boundAdm s (tileOf s t.val) with
    | none => none
    | some a => (segAddr a.segs g.seg off g.size false).map .node
  | _ =>
    match boundCtxOf s t with
    | none => none
    | some (_, c) => if c.tier.localHot ∨ 549755813888 < off + g.size then none else some (.remote off)

/-- An entry of the coalescing table (R172): the index, its staged copy, the occurrences its newest entry has served. -/
structure Coal where
  off : Nat
  served : Nat
deriving DecidableEq, Repr

/-- A window while the unit runs through its indices. -/
structure GatherRun where
  table : Tab (Option Coal)
  entries : Nat
  fetches : List GatherSrc
  out : List Nat
  drops : Nat
  hits : Nat
  fulls : Nat
deriving DecidableEq, Repr

/-- One occurrence (R172). -/
def gatherStep (s : State) (t : Fin 192) (g : GatherDesc) (r : GatherRun) (i : Nat) : GatherRun :=
  let drop : GatherRun := { r with out := outDrop :: r.out, drops := r.drops + 1 }
  let full : GatherRun := { r with out := outFull :: r.out, fulls := r.fulls + 1 }
  if i = outDrop ∨ g.count ≤ i then drop
  else
    match gatherSrc s t g i with
    | none => drop
    | some src =>
      match tget none r.table i with
      | some c =>
        if c.served < 65536 then
          let c1 : Coal := { c with served := c.served + 1 }
          { r with table := tput none r.table i (some c1), out := c.off :: r.out }
        else if r.entries < 4096 then
          let c1 : Coal := { c with served := 1 }
          { r with table := tput none r.table i (some c1), entries := r.entries + 1, hits := r.hits + 1,
                   out := c.off :: r.out }
        else full
      | none =>
        if r.entries < 4096 ∧ r.fetches.length < g.stageSlots then
          let c1 : Coal := ⟨g.stageBase + r.fetches.length * max 32 g.size, 1⟩
          { r with table := tput none r.table i (some c1), entries := r.entries + 1,
                   fetches := r.fetches ++ [src], out := c1.off :: r.out }
        else full

/-- The remote reads of a gather's fetches, in the order their entries were opened (R173, R175): element numbers run from
the state's next. -/
def gatherReads (t : Fin 192) (g : GatherDesc) (w : Fin 64) (first : Nat) (fs : List GatherSrc) : List RRead :=
  ((List.range fs.length).map (fun k =>
    match fs.getD k (.tile 0) with
    | .remote off =>
      rreadPieces ⟨first + k, t, w, BitVec.ofNat 15 g.node, g.seg, off, g.stageBase + k * max 32 g.size, g.size⟩
    | _ => [])).flatten

/-- One fetch of a gather becomes an element in flight (R170, R172, R188). -/
def gatherFetch (t : Fin 192) (g : GatherDesc) (w : Fin 64) (acc : State × Nat) (src : GatherSrc) : State × Nat :=
  let (s, k) := acc
  let dst := g.stageBase + k * max 32 g.size
  let add (d : List Byte) (src : ElemSrc) : State := addElem s t w (.gather k dst d src)
  (match src with
   | .tile off => add (srcRead s t.val off g.size) (.tile off)
   | .pod off => add (podRead s (podOfTile t.val) (podEff s t.val) off g.size) (.pod off)
   | .node a => tileAccess (add (memRead s a g.size) (.node a)) s.nextElem a g.size false
   | .remote _ => addElem s t w (.gatherRemote k dst ((g.size + 255) / 256) []), k + 1)

/-- The remote reads of a gather go out; a target that is no other member of the epoch ends each element ABSENT (R382). -/
def gatherRemote (s : State) (t : Fin 192) (g : GatherDesc) (w : Fin 64) (first : Nat) (fs : List GatherSrc) : State :=
  let n : NodeId := BitVec.ofNat 15 g.node
  if g.space ≠ 3 then s
  else if isMember s n = false ∨ n = s.aon.nodeId then
    (List.range fs.length).foldl (fun s k =>
      match elemOf s (first + k) with
      | none => s
      | some e => endElem s e .absent) s
  else
    match boundAdm s (tileOf s t.val) with
    | none => s
    | some a => sendReads s a.req.ctx.toNat (gatherReads t g w first fs)

/-- The window a gather opens: its slots, its wait object and its deadline tick (R172, R204). -/
def gatherWindow (s : State) (t : Fin 192) (g : GatherDesc) (w : Fin 64) (n : Nat) : Window :=
  { slots := (List.range n).map (fun k => ⟨g.stageBase + k * max 32 g.size, none⟩), wait := w,
    deadline := (waitOf s t w).dl }

/-- GATHER with legal ranges (R172, R173). -/
def gatherRun (s : State) (t : Fin 192) (g : GatherDesc) (w : Fin 64) (idx : List Nat) (excess out : Nat) : State :=
  let r := idx.foldl (gatherStep s t g) ⟨[], 0, [], [], 0, 0, 0⟩
  let s1 := bumpBy (bumpBy (bumpBy s .gatherDrop (r.drops + excess)) .gatherHit r.hits) .gatherFull r.fulls
  let s2 := onTile s1 t.val (fun x => { x with gwin := some (gatherWindow s t g w r.fetches.length) })
  let s3 := writeWords s2 t g.outPod out r.out.reverse
  let (s4, _) := r.fetches.foldl (gatherFetch t g w) (s3, 0)
  gatherRemote s4 t g w s.nextElem r.fetches

/-- GATHER of `n` indices at `list` to `out` (R203, R530). A list that holds an uncorrectable word drops every position, as an
illegal one (R83, R166, log 16). -/
def gatherEff (s : State) (t : Fin 192) (g : GatherDesc) (w : Fin 64) (ecc : Ecc) (list n out : Nat) : State :=
  let m := min n g.nMax
  let outOk := if g.outPod then decide (out + 4 * g.nMax ≤ podStoreBytes) else spanOk s t.val out (4 * g.nMax)
  let empty (s : State) : State := onTile s t.val (fun x => { x with gwin := some (gatherWindow s t g w 0) })
  if outOk = false then bump (empty s) .addrFault
  else if spanOk s t.val list (4 * m) = false then
    writeWords (bump (bumpBy (empty s) .gatherDrop n) .addrFault) t g.outPod out (List.replicate m outDrop)
  else
    let (s1, ok) := tileReport s t [(list, 4 * m)] ecc
    if ok then
      let d := srcRead s t.val list (4 * m)
      gatherRun s1 t g w ((List.range m).map (fun j => leAt d (4 * j) 4)) (n - m) out
    else writeWords (bumpBy (empty s1) .gatherDrop n) t g.outPod out (List.replicate m outDrop)

/-- GATHER (R203). -/
def execGather (t : Fin 192) (g : Guard) (a b c : Fin 32) (i : Fin 1024) (w : Fin 64) (s : State) :
    Host.Outcome State Fault Refusal :=
  .next (issue s t g (.gather t g a b c i w) (fun s1 =>
    let x := (tileOf s1 t.val).src.s
    gatherEff s1 t (gatherDescOf (constOf s1 t.val i.val) (constOf s1 t.val (i.val + 1))) w g.ecc (x[a]).toNat (x[b]).toNat
      (x[c]).toNat))

/-! ### Fetches (R205) -/

/-- A fetch descriptor. -/
structure FetchDesc where
  kind : Nat
  nMax : Nat
  stageBase : Nat
  stageSlots : Nat
  slotSize : Nat
deriving DecidableEq, Repr

def fetchDescOf (d : Nat) : FetchDesc :=
  { kind := bitsOf d 125 3, nMax := bitsOf d 104 21, stageBase := bitsOf d 84 20, stageSlots := bitsOf d 71 13,
    slotSize := 1024 * 2 ^ bitsOf d 69 2 }

/-- What a list position names (R205 step 1): an item and, for KIND 0, the version its candidate carries. -/
def fetchName (kind : Nat) (d : List Byte) (j : Nat) : Option (BitVec 36 × Option (BitVec 24)) :=
  if kind = 0 then
    let c := candOf (leAt d (16 * j) 16)
    let item : BitVec 36 := c.handle.truncate 36
    if candIsEmpty c ∨ item = itemNone then none else some (item, some c.version)
  else
    let n := leAt d (8 * j) 8
    let item : BitVec 36 := BitVec.ofNat 36 n
    if bitsOf n 36 28 ≠ 0 ∨ item = itemNone then none else some (item, none)

/-- Where an item's image is found (R205 steps 4 to 6): a status that ends the element at once; no entry at all; an uncorrectable
group, header or burst; a record header that is malformed; an image that is not the one looked for; bytes read from memory, or a
flash address to read. -/
inductive Found where
  | ended (st : ElemStatus)
  | missing
  | bad (addr : Nat)
  | malformed
  | wrong (addr : Nat)
  | bytes (d : List Byte) (addr : Nat)
  | flash (addr : Nat) (version : Option (BitVec 24))
deriving DecidableEq, Repr

/-- The copy in which an item is looked up: the local copy of its shard, but not a placement copy, which has no directory
(R37, R38). -/
def itemCopy (s : State) (ctx : Nat) (item : BitVec 36) : Option ShardCopy :=
  match copyOf s ctx (shardOf (ctxOf s ctx).ns item.toNat) with
  | none => none
  | some c => if c.role = 2 then none else some c

/-- The uncorrectable burst that the look-up of an item meets (R84, R205 step 6): in a group, or in the record header that step 5
needs. `odd` lists what read uncorrectable on this access: items, and whether it was the header. -/
def lookBad (s : State) (c : ShardCopy) (item : BitVec 36) (header : Option Nat) (odd : List (BitVec 36 × Bool)) : Option Nat :=
  let groups := dirGroups c item.toNat
  if odd.contains (item, false) then some (dirAddr c (dirGroup1 c.dirLog2 item.toNat) 0)
  else
    match deadAt s groups, header with
    | some a, _ => some a
    | none, none => none
    | none, some h => if odd.contains (item, true) then some h else deadAt s [(h, 16)]

/-- The address of the record header that gives the version a state carries (R205 step 5), where one does. -/
def headerAt (s : State) (c : ShardCopy) (v : Seen) : Option Nat :=
  match v.version, v.ent with
  | none, some e => if e.deleted ∨ e.recLoc = noRec then none else some (locAddr c (ctxRecSize s c.ctx.toNat) e.recLoc)
  | _, _ => none

/-- A malformed header of a record of a context (R44), by the code format that the context's partitions share (R41). -/
def recordHeaderBad (s : State) (ctx : Nat) (h : Header) : Bool :=
  match (copiesOf s ctx).find? (fun x => !x.loaded.isEmpty) with
  | some x =>
    let p := readPart s x (x.loaded.headD 0)
    headerBad h (4 * p.tailCap) (1 + codeLen p.fmt p.dim / 16)
  | none => false

/-- R205 steps 4 to 6 for one item at a snapshot. -/
def locate (s : State) (ctx : CtxId) (snap slotSize : Nat) (item : BitVec 36) (want : Option (BitVec 24))
    (odd : List (BitVec 36 × Bool)) : Found :=
  let c := ctxOf s ctx.toNat
  if slotSize < fvSize c then .ended .refused
  else
    match itemCopy s ctx.toNat item with
    | none => .ended .absent
    | some cp =>
      if copyUnsure s ctx cp.shard then .ended .unreadable
      else
        let v := seenAt s cp item snap
        let header := if want.isNone then headerAt s cp v else none
        match lookBad s cp item header odd, seenPresent v with
        | some a, _ => .bad a
        | none, none => if v.ent.isNone then .missing else .ended .absent
        | none, some e =>
          let ver := match want with | some x => some x | none => seenVersion s cp v
          if (header.map (fun a => recordHeaderBad s ctx.toNat (headerOf (memRead s a 16)))).getD false then .malformed
          else if e.flash then
            if faddrOk s (faddrOf e.fvLoc) (fvSize c) then .flash e.fvLoc ver else .ended .refused
          else
            let d := memRead s (e.fvLoc * 32) (fvSize c)
            if imageRight c item ver d then .bytes d (e.fvLoc * 32) else .wrong (e.fvLoc * 32)

/-- A window of a fetch while it runs: items seen with their output words, slots taken, output words. -/
structure FetchRun where
  seen : List (BitVec 36 × Nat)
  slots : Nat
  out : List Nat
  st : State
deriving DecidableEq, Repr

/-- One slot's element (R205 steps 4 to 6, R334). A graph entry fetched by its item id for which there is no directory entry is a
dangling neighbour (R57, log 125); a malformed record header leaves no live record to say what the image must be (R44, log 125); an
image that is not the one looked for is reported as uncorrectable data (R50). -/
def fetchSlot (s : State) (t : Fin 192) (g : FetchDesc) (w : Fin 64) (odd : List (BitVec 36 × Bool)) (k : Nat) (item : BitVec 36)
    (want : Option (BitVec 24)) : State :=
  let dst := g.stageBase + k * g.slotSize
  let ended (s : State) (st : ElemStatus) : State := setFetchSlot (addEnded s t w st) t k st
  match boundAdm s (tileOf s t.val) with
  | none => ended s .refused
  | some a =>
    match locate s a.req.ctx a.t g.slotSize item want odd with
    | .ended st => ended s st
    | .missing => ended (bumpIf (g.kind == 1 && (ctxOf s a.req.ctx.toNat).graph != 0) s .graphDangling) .absent
    | .bad addr => ended (lastingMem s addr (some a.req.ctx)) .unreadable
    | .malformed => ended (bump s .recordMalformed) .unreadable
    | .wrong addr => ended (uncorrMem s 0 addr (some a.req.ctx)) .unreadable
    | .bytes d addr => addElem s t w (.fetch k dst d addr none)
    | .flash addr ver =>
      if (tileOf s t.val).phaseRefused then addElem s t w (.fetchFlash k dst (fvSize (ctxOf s a.req.ctx.toNat)))
      else if planReads s < 65536 then
        queueRead (addElem s t w (.fetchFlash k dst (fvSize (ctxOf s a.req.ctx.toNat)))) (.elem s.nextElem) a.req.ctx item
          ver addr 1 (waitOf s t w).dl
      else bump (ended s .late) .flashCancel

/-- One list position (R205 steps 1 to 3). -/
def fetchStep (t : Fin 192) (g : FetchDesc) (w : Fin 64) (odd : List (BitVec 36 × Bool)) (r : FetchRun)
    (n : Option (BitVec 36 × Option (BitVec 24))) : FetchRun :=
  match n with
  | none => { r with out := outDrop :: r.out }
  | some (item, want) =>
    match r.seen.find? (fun p => p.1 == item) with
    | some p => { r with out := p.2 :: r.out }
    | none =>
      if r.slots < g.stageSlots then
        let o := g.stageBase + r.slots * g.slotSize
        { seen := (item, o) :: r.seen, slots := r.slots + 1, out := o :: r.out,
          st := fetchSlot r.st t g w odd r.slots item want }
      else { r with seen := (item, outFull) :: r.seen, out := outFull :: r.out, st := addEnded r.st t w .refused }

/-- The window that a fetch of at most `n` items opens. -/
def fetchWindow (s : State) (t : Fin 192) (g : FetchDesc) (w : Fin 64) (n : Nat) : Window :=
  { slots := (List.range (min n g.stageSlots)).map (fun k => ⟨g.stageBase + k * g.slotSize, none⟩), wait := w,
    deadline := (waitOf s t w).dl }

/-- The window keeps the slots that were taken. -/
def trimWindow (s : State) (t : Fin 192) (n : Nat) : State :=
  onTile s t.val (fun x => { x with fwin := x.fwin.map (fun v => { v with slots := v.slots.take n }) })

/-- VFETCH of `n` entries at `list` to `out` (R205, R530). A list that holds an uncorrectable word drops every position, as an
illegal one (R83, R166, log 16). -/
def vfetchEff (s : State) (t : Fin 192) (g : FetchDesc) (w : Fin 64) (ecc : Ecc) (odd : List (BitVec 36 × Bool)) (list n out : Nat) :
    State :=
  let m := min n g.nMax
  let size := if g.kind = 0 then 16 else 8
  let opened (k : Nat) : State := onTile s t.val (fun x => { x with fwin := some (fetchWindow s t g w k) })
  if spanOk s t.val out (4 * g.nMax) = false then bump (opened 0) .addrFault
  else if spanOk s t.val list (size * m) = false then
    writeWords (bump (opened 0) .addrFault) t false out (List.replicate g.nMax outDrop)
  else
    let (s1, ok) := tileReport s t [(list, size * m)] ecc
    let opened1 (k : Nat) : State := onTile s1 t.val (fun x => { x with fwin := some (fetchWindow s t g w k) })
    if ok then
      let d := srcRead s t.val list (size * m)
      let r := ((List.range m).map (fetchName g.kind d)).foldl (fetchStep t g w odd) ⟨[], 0, [], opened1 m⟩
      writeWords (trimWindow r.st t r.slots) t false out (r.out.reverse ++ List.replicate (g.nMax - m) outDrop)
    else writeWords (opened1 0) t false out (List.replicate g.nMax outDrop)

/-- VFETCH (R205). `odd` lists the items whose directory groups, or whose record header, read uncorrectable. -/
def execVfetch (t : Fin 192) (g : Guard) (a b c : Fin 32) (i : Fin 1024) (w : Fin 64) (odd : List (BitVec 36 × Bool)) (s : State) :
    Host.Outcome State Fault Refusal :=
  .next (issue s t g (.vfetch t g a b c i w odd) (fun s1 =>
    let x := (tileOf s1 t.val).src.s
    vfetchEff s1 t (fetchDescOf (constOf s1 t.val i.val)) w g.ecc odd (x[a]).toNat (x[b]).toNat (x[c]).toNat))

/-! ### SLST (R206) -/

/-- The status code of the slot that starts at an offset, if the window has such a slot with a final status. A slot of the staging area
that the last window did not take is no slot of it (DESIGN CHOICE, log 152). -/
def slotStatus (w : Option Window) (off : Nat) : Option Nat :=
  match w with
  | none => none
  | some v => ((v.slots.find? (fun x => x.off == off)).bind (·.status)).map statusCode

/-- SLST (R206): the slot's code, or 0xFF with PD cleared when S[A] starts no slot of the unit's last window. -/
def execSlst (t : Fin 192) (g : Guard) (d a : Fin 32) (pd : Fin 16) (fetchUnit : Bool) (s : State) :
    Host.Outcome State Fault Refusal :=
  .next (issueTile s t g (.slst t g d a pd fetchUnit) (fun x =>
    match slotStatus (if fetchUnit then x.fwin else x.gwin) (x.src.s[a]).toNat with
    | some k => setP (setS x d (BitVec.ofNat 64 k)) pd (BitVec.allOnes 64)
    | none => setP (setS x d 0xFF) pd 0))

end Sys2Proof.Machine
end

