-- ==== Sys2Proof/Machine/DirAccess.lean ====
section
/-! DEFINITION. Directory access by tiles (R207, R292) and its boundary (R52, R53). -/

namespace Sys2Proof.Machine

open Sys2Proof

/-- The operand of a DIRW with a status code in its last 8 bytes (R207). -/
def dirBytes (entry : Nat) (st : BitVec 8) : List Byte := leBytes 16 entry ++ leBytes 8 st.toNat

/-- Whether a tile's phase may write directories (R292): a FINAL phase of an UPSERT or DELETE pipeline, or an INTERNAL
pipeline. -/
def dirRights (s : State) (t : Fin 192) : Bool :=
  let x := tileOf s t.val
  match s.plan.active with
  | none => false
  | some p =>
    match p.pipes[x.phasePipe]?, p.phases[x.phase]? with
    | some q, some ph => q.kind == 4 || ((q.kind == 1 || q.kind == 2) && ph.final)
    | _, _ => false

/-- A DIRW operand outside the tile store's data region, or with no request bound: REFUSED. One that holds an uncorrectable word
makes the element UNREADABLE, and nothing else happens (R83, R166, log 16). -/
def dirStart (s : State) (t : Fin 192) (a : Fin 32) (w : Fin 64) (ecc : Ecc)
    (f : State → Nat → Nat → CtxId → Option ShardCopy → State) : State :=
  let off := ((tileOf s t.val).src.s[a]).toNat
  if tileRangeOk s t.val off 24 then
    match boundAdm s (tileOf s t.val) with
    | none => addEnded s t w .refused
    | some m =>
      let (s1, ok) := tileReport s t [(off, 16)] ecc
      if ok then
        let n := leAt (srcRead s t.val off 16) 0 16
        f s1 off n m.req.ctx (itemCopy s m.req.ctx.toNat (BitVec.ofNat 36 (bitsOf n 64 36)))
      else addEnded s1 t w .unreadable
  else refusedElem s t w

/-- The status lands in the operand (R207): the element is in flight until then. -/
def dirAnswer (s : State) (t : Fin 192) (w : Fin 64) (off entry : Nat) (st : BitVec 8) : State :=
  addElem s t w (.dirw off (dirBytes entry st))

/-- DIRW LOOK (R207): the tables as they stood at the start of the tick, since writes wait for the boundary. -/
def execDirwLook (t : Fin 192) (g : Guard) (a : Fin 32) (w : Fin 64) (s : State) : Host.Outcome State Fault Refusal :=
  .next (issue s t g (.dirwLook t g a w) (fun s0 => dirStart s0 t a w g.ecc (fun s1 off n _ cp =>
    match cp with
    | none => dirAnswer s1 t w off n stBadContext
    | some c =>
      match dirLook s1 c (BitVec.ofNat 36 (bitsOf n 64 36)) with
      | some e => dirAnswer s1 t w off (dirEntNat e) stDone
      | none => dirAnswer s1 t w off 0 stDone)))

/-- A directory write waits for the boundary after the issue tick (R207). -/
def queueDir (s : State) (t : Fin 192) (w : Fin 64) (op : DirOp) (off n : Nat) (ctx : CtxId) (c : ShardCopy) : State :=
  let s1 := addElem s t w (.dirwWait off)
  let q : DirWrite := ⟨t, s.nextElem, op, ctx, c.shard, BitVec.ofNat 36 (bitsOf n 64 36), BitVec.ofNat 128 n⟩
  { s1 with dirWrites := s1.dirWrites ++ [q] }

/-- INSERT, MAP and FREE alike (R207, R292). -/
def dirWriteOp (s0 : State) (t : Fin 192) (a : Fin 32) (w : Fin 64) (ecc : Ecc) (op : DirOp) : State :=
  dirStart s0 t a w ecc (fun s off n ctx cp =>
    if dirRights s t = false then dirAnswer s t w off n stNoRights
    else
      match cp with
      | none => dirAnswer s t w off n stBadContext
      | some c => queueDir s t w op off n ctx c)

/-- DIRW INSERT (R207): the operand must have VALID = 1. -/
def execDirwInsert (t : Fin 192) (g : Guard) (a : Fin 32) (w : Fin 64) (s : State) : Host.Outcome State Fault Refusal :=
  .next (issue s t g (.dirwInsert t g a w) (fun s1 => dirWriteOp s1 t a w g.ecc .insert))

/-- DIRW MAP (R207). -/
def execDirwMap (t : Fin 192) (g : Guard) (a : Fin 32) (w : Fin 64) (s : State) : Host.Outcome State Fault Refusal :=
  .next (issue s t g (.dirwMap t g a w) (fun s1 => dirWriteOp s1 t a w g.ecc .map))

/-- DIRW FREE (R207). -/
def execDirwFree (t : Fin 192) (g : Guard) (a : Fin 32) (w : Fin 64) (s : State) : Host.Outcome State Fault Refusal :=
  .next (issue s t g (.dirwFree t g a w) (fun s1 => dirWriteOp s1 t a w g.ecc .free))

/-- One directory write at the boundary (R52, R53, R207): the state and the status code. -/
def applyDirOp (s : State) (d : DirWrite) : State × BitVec 8 :=
  match copyOf s d.ctx.toNat d.shard.toNat with
  | none => (s, stBadContext)
  | some c =>
    let e := dirEntOf d.entry.toNat
    match d.op with
    | .insert =>
      if e.valid then
        match dirPlaceFor s c d.item.toNat with
        | none => (s, stCapacity)
        | some a => (memWrite s a (leBytes 16 d.entry.toNat), stDone)
      else (s, stBadField)
    | .map =>
      match dirFind s c d.item with
      | none => (s, stBadField)
      | some a => (memWrite s a (leBytes 8 (d.entry.toNat % 18446744073709551616)), stDone)
    | .free =>
      match dirFind s c d.item with
      | none => (s, stDone)
      | some a => (memWrite s a (List.replicate 16 0), stDone)

/-- A directory write applied, and its status on its way to the operand. -/
def applyDirWrite (s : State) (d : DirWrite) : State :=
  let (s1, st) := applyDirOp s d
  match elemOf s1 d.elem with
  | some e =>
    match e.kind with
    | .dirwWait off => setElemKind s1 d.elem (.dirw off (dirBytes d.entry.toNat st))
    | _ => s1
  | none => s1

/-- The boundary's directory writes (R53, R207): ascending item id, then ascending tile. -/
def applyDirWrites (s : State) : State :=
  let l := sortBy (fun a b => decide (a.item < b.item) || (a.item == b.item && decide (a.tile < b.tile))) s.dirWrites
  l.foldl applyDirWrite { s with dirWrites := [] }

/-- One write that waited for the boundary (R120, R142, R170): made, unless a burst it covers in part is stored uncorrectable, which
ends its element UNREADABLE; the access waits and counts as any other. -/
def applyTileWrite (s : State) (w : TileWrite) : State :=
  let who : Accessor := if w.tile = 192 then .remote else .tile w.elem
  let (s1, ok) := nodeWrite s w.addr w.data [] none
  if ok then ordinaryAccess s1 ⟨who, true, w.addr, w.data.length, [], []⟩
  else
    match elemOf s1 w.elem with
    | some e => if e.kind = .storeNode then endElem s1 e .unreadable else s1
    | none => s1

/-- The boundary's writes to node memory (R170): ascending tile, issue order within one; another node's last, as key 192. -/
def applyTileWrites (s : State) : State :=
  let l := sortBy (fun a b => decide (a.tile < b.tile)) s.memWrites
  l.foldl applyTileWrite { s with memWrites := [] }


end Sys2Proof.Machine
end

