-- ==== Sys2Proof/Machine/MbxEffs.lean ====
section
/-! DEFINITION. What mailbox commands bring about at the boundary (R460): shard maps, shard copies, partition descriptors, and
the end of a context. -/

namespace Sys2Proof.Machine

open Sys2Proof

/-! ### Effects that wait for the boundary (R460) -/

/-- Entries of a shard map (R35): STATE is the node's own. -/
def setMap (s : State) (c : CtxId) (first : Nat) (l : List (NodeId × NodeId)) : State :=
  (List.range l.length).foldl (fun s i =>
    let e := l.getD i (0, 0)
    let old := shardEnt s c.toNat (first + i)
    putShard s c.toNat (first + i) { old with partner := e.1, primary := e.2 }) s

/-- Partition descriptors that stand in a partition table (R532): those with a byte that is not zero. -/
def tableParts (s : State) (c : ShardCopy) : List Nat :=
  let a := c.partBase * 1024
  uniq ((s.mem.filter (fun x => decide (a ≤ x.1) && decide (x.1 < a + 32 * c.partCount))).map (fun x => (x.1 - a) / 32))

/-- A shard-copy descriptor (R37, R532): a replacement takes what stands at the new places. -/
def setCopy (s : State) (c : ShardCopy) : State :=
  let k := c.ctx.toNat
  let sh := c.shard.toNat
  match copyOf s k sh with
  | none => putCopy s k sh (some c)
  | some _ => putCopy s k sh (some { c with loaded := tableParts s c })

/-- One partition descriptor (R40, R41): ROW_COUNT and LIVE_COUNT keep their values. -/
def setPart (s : State) (c : CtxId) (sh : BitVec 20) (i : Nat) (word : Nat) : State :=
  match copyOf s c.toNat sh.toNat with
  | none => s
  | some x =>
    let old := readPart s x i
    let was := x.loaded.contains i
    let p := { partOf word with rowCount := if was then old.rowCount else 0, liveCount := if was then old.liveCount else 0 }
    let s1 := writePart s x i p
    let s2 := putCopy s1 c.toNat sh.toNat (some { x with loaded := if was then x.loaded else x.loaded ++ [i] })
    onCtx s2 c.toNat (fun y => { y with codeFormat := some (p.fmt, p.dim, p.tailCap, p.recSize) })

/-- One effect. -/
def mbxEffect (s : State) (e : MbxEff) : State :=
  match e with
  | .shardMap c first l => setMap s c first l
  | .shardCopy c => setCopy s c
  | .parts c sh first l => (List.range l.length).foldl (fun s i => setPart s c sh (first + i) (l.getD i 0)) s

/-- The effects in command order: what later commands are checked against (R460), and what the boundary brings about. -/
def mbxView (s : State) : State := s.mbxDue.foldl mbxEffect { s with mbxDue := [] }

/-- A context goes, and with it the structures, tiers and migrations that were its own on the node (R450). -/
def dropCtx (s : State) (k : Nat) : State :=
  let c := BitVec.ofNat 12 k
  let s1 := dropPromotions s c
  let upd := { s1.upd with migs := s1.upd.migs.filter (fun m => m.ctx != c), hotUsed := s1.upd.hotUsed.filter (fun h => h.2.1 != c) }
  let s2 : State := { s1 with
    copies := s1.copies.filter (fun kv => kv.1 / 1048576 != k), shards := s1.shards.filter (fun kv => kv.1 / 1048576 != k),
    upd := upd }
  putCtx s2 k Ctx.reset

end Sys2Proof.Machine
end

