-- ==== Sys2Proof/Machine/Scalar.lean ====
section
/-! DEFINITION. The control and scalar slot (R192 to R198), but for CPLT: one meaning per instruction. -/

namespace Sys2Proof.Machine

open Sys2Proof

/-- NOP (R192): nothing but its place in the bundle. -/
def execNop (t : Fin 192) (g : Guard) (s : State) : Host.Outcome State Fault Refusal :=
  .next (issueTile s t g (.nop t g) (fun x => x))

/-- SETI (R192): S[D] := sext47(IMM47). -/
def execSeti (t : Fin 192) (g : Guard) (d : Fin 32) (imm : BitVec 47) (s : State) : Host.Outcome State Fault Refusal :=
  .next (issueTile s t g (.seti t g d imm) (fun x => setS x d (imm.signExtend 64)))

/-- SETH (R192): bits 63:32 of S[D] := IMM47 bits 31:0; bits 31:0 are kept. -/
def execSeth (t : Fin 192) (g : Guard) (d : Fin 32) (imm : BitVec 32) (s : State) : Host.Outcome State Fault Refusal :=
  .next (issueTile s t g (.seth t g d imm) (fun x => setS x d (imm ++ (x.src.s[d]).truncate 32)))

/-- ADD (R192, R194). -/
def execAdd (t : Fin 192) (g : Guard) (d a b : Fin 32) (s : State) : Host.Outcome State Fault Refusal :=
  .next (scalarOp s t g (.add t g d a b) d a b (· + ·))

/-- ADDI (R192): S[A] + sext25(X). -/
def execAddi (t : Fin 192) (g : Guard) (d a : Fin 32) (x : BitVec 25) (s : State) : Host.Outcome State Fault Refusal :=
  .next (scalarOp1 s t g (.addi t g d a x) d a (· + x.signExtend 64))

/-- SUB (R192). -/
def execSub (t : Fin 192) (g : Guard) (d a b : Fin 32) (s : State) : Host.Outcome State Fault Refusal :=
  .next (scalarOp s t g (.sub t g d a b) d a b (· - ·))

/-- MUL (R192): the low 64 bits of the product. -/
def execMul (t : Fin 192) (g : Guard) (d a b : Fin 32) (s : State) : Host.Outcome State Fault Refusal :=
  .next (scalarOp s t g (.mul t g d a b) d a b (· * ·))

/-- AND (R192). -/
def execAnd (t : Fin 192) (g : Guard) (d a b : Fin 32) (s : State) : Host.Outcome State Fault Refusal :=
  .next (scalarOp s t g (.and t g d a b) d a b (· &&& ·))

/-- OR (R192). -/
def execOr (t : Fin 192) (g : Guard) (d a b : Fin 32) (s : State) : Host.Outcome State Fault Refusal :=
  .next (scalarOp s t g (.or t g d a b) d a b (· ||| ·))

/-- XOR (R192). -/
def execXor (t : Fin 192) (g : Guard) (d a b : Fin 32) (s : State) : Host.Outcome State Fault Refusal :=
  .next (scalarOp s t g (.xor t g d a b) d a b (· ^^^ ·))

/-- A shift amount is taken modulo 64 (R194). -/
def shiftAmount (v : Word64) : Nat := v.toNat % 64

/-- A shift of a kind by an amount (R192). -/
def shiftBy (k : ShiftKind) (v : Word64) (n : Nat) : Word64 :=
  match k with
  | .shl => v <<< n
  | .shr => v >>> n
  | .sar => v.sshiftRight n

/-- SHL (R192): by S[B] bits 5:0. -/
def execShl (t : Fin 192) (g : Guard) (d a b : Fin 32) (s : State) : Host.Outcome State Fault Refusal :=
  .next (scalarOp s t g (.shl t g d a b) d a b (fun v n => shiftBy .shl v (shiftAmount n)))

/-- SHR (R192). -/
def execShr (t : Fin 192) (g : Guard) (d a b : Fin 32) (s : State) : Host.Outcome State Fault Refusal :=
  .next (scalarOp s t g (.shr t g d a b) d a b (fun v n => shiftBy .shr v (shiftAmount n)))

/-- SAR (R192). -/
def execSar (t : Fin 192) (g : Guard) (d a b : Fin 32) (s : State) : Host.Outcome State Fault Refusal :=
  .next (scalarOp s t g (.sar t g d a b) d a b (fun v n => shiftBy .sar v (shiftAmount n)))

/-- SHI (R192): the kind and amount of the X field. -/
def execShi (t : Fin 192) (g : Guard) (d a : Fin 32) (k : ShiftKind) (amt : BitVec 6) (s : State) :
    Host.Outcome State Fault Refusal :=
  .next (scalarOp1 s t g (.shi t g d a k amt) d a (fun v => shiftBy k v amt.toNat))

/-- MINS (R192): signed minimum. -/
def execMins (t : Fin 192) (g : Guard) (d a b : Fin 32) (s : State) : Host.Outcome State Fault Refusal :=
  .next (scalarOp s t g (.mins t g d a b) d a b (fun x y => if BitVec.slt y x then y else x))

/-- MAXS (R192): signed maximum. -/
def execMaxs (t : Fin 192) (g : Guard) (d a b : Fin 32) (s : State) : Host.Outcome State Fault Refusal :=
  .next (scalarOp s t g (.maxs t g d a b) d a b (fun x y => if BitVec.slt x y then y else x))

/-- MINU (R192): unsigned minimum. -/
def execMinu (t : Fin 192) (g : Guard) (d a b : Fin 32) (s : State) : Host.Outcome State Fault Refusal :=
  .next (scalarOp s t g (.minu t g d a b) d a b (fun x y => if BitVec.ult y x then y else x))

/-- MAXU (R192): unsigned maximum. -/
def execMaxu (t : Fin 192) (g : Guard) (d a b : Fin 32) (s : State) : Host.Outcome State Fault Refusal :=
  .next (scalarOp s t g (.maxu t g d a b) d a b (fun x y => if BitVec.ult x y then y else x))

/-- CMP (R192, R193): PD is a status predicate of the condition. -/
def execCmp (t : Fin 192) (g : Guard) (pd : Fin 16) (a b : Fin 32) (c : CmpCond) (s : State) :
    Host.Outcome State Fault Refusal :=
  .next (issueTile s t g (.cmp t g pd a b c) (fun x => setP x pd (statusPred (cmpHolds c x.src.s[a] x.src.s[b]))))

/-- CMPI (R192, R193): against sext22 of X bits 21:0. -/
def execCmpi (t : Fin 192) (g : Guard) (pd : Fin 16) (a : Fin 32) (c : CmpCond) (imm : BitVec 22) (s : State) :
    Host.Outcome State Fault Refusal :=
  .next (issueTile s t g (.cmpi t g pd a c imm) (fun x => setP x pd (statusPred (cmpHolds c x.src.s[a] (imm.signExtend 64)))))

/-- SEL (R192): S[A] when bit 0 of P[C] is 1, else S[B]. -/
def execSel (t : Fin 192) (g : Guard) (d a b : Fin 32) (c : Fin 16) (s : State) : Host.Outcome State Fault Refusal :=
  .next (issueTile s t g (.sel t g d a b c) (fun x => setS x d (if (x.src.p[c]).getLsbD 0 then x.src.s[a] else x.src.s[b])))

/-- The operations of PLOG (R192). -/
def predOp (op : PredOp) (a b : Word64) : Word64 :=
  match op with
  | .and => a &&& b
  | .or => a ||| b
  | .xor => a ^^^ b
  | .andNot => a &&& ~~~b

/-- PLOG (R192). -/
def execPlog (t : Fin 192) (g : Guard) (pd a b : Fin 16) (op : PredOp) (s : State) : Host.Outcome State Fault Refusal :=
  .next (issueTile s t g (.plog t g pd a b op) (fun x => setP x pd (predOp op x.src.p[a] x.src.p[b])))

/-- PFROMS (R192). -/
def execPfroms (t : Fin 192) (g : Guard) (pd : Fin 16) (a : Fin 32) (s : State) : Host.Outcome State Fault Refusal :=
  .next (issueTile s t g (.pfroms t g pd a) (fun x => setP x pd x.src.s[a]))

/-- STOP (R192): S[D] := P[A]. -/
def execStop (t : Fin 192) (g : Guard) (d : Fin 32) (a : Fin 16) (s : State) : Host.Outcome State Fault Refusal :=
  .next (issueTile s t g (.stop t g d a) (fun x => setS x d x.src.p[a]))

/-- The special values of RDSP (R186). -/
def specialValue (s : State) (t : Fin 192) (x : Special) : Word64 :=
  let tl := tileOf s t.val
  let b := boundAdm s tl
  match x with
  | .tickNow => BitVec.ofNat 64 s.clk.tick
  | .phaseTick => BitVec.ofNat 64 tl.phaseTick
  | .cycle => BitVec.ofNat 64 (tl.cyc % tickCycles s)
  | .tile => BitVec.ofNat 64 t.val
  | .nodeId => s.aon.nodeId.zeroExtend 64
  | .boundReq =>
    match tl.srcBound, b with
    | some i, some _ => BitVec.ofNat 64 i.val
    | _, _ => 0x8000000000000000#64
  | .boundCtx => match b with | some a => a.req.ctx.zeroExtend 64 | none => BitVec.allOnes 64
  | .snapshot => match b with | some a => BitVec.ofNat 64 a.t | none => 0
  | .cyclesPerTick => BitVec.ofNat 64 (tickCycles s)

/-- RDSP (R186). -/
def execRdsp (t : Fin 192) (g : Guard) (d : Fin 32) (x : Special) (s : State) :
    Host.Outcome State Fault Refusal :=
  .next (issue s t g (.rdsp t g d x) (fun s1 => onTile s1 t.val (fun y => setS y d (specialValue s1 t x))))

/-- A loop begins at its LEVEL (R195): the body is bundles cur + 1 to cur + BODY. -/
def startLoop (x : Tile) (on : Bool) (d a : Fin 32) (pd : Fin 16) (level : Fin 4) (body maxTrip : Nat) : Tile :=
  let l : LoopLevel :=
    { live := true, first := x.cur + 1, last := x.cur + body, trip := maxTrip, j := 0,
      act := min (x.src.s[a]).toNat maxTrip, d := d, pd := pd, on := on }
  { x with loops := x.loops.set level l }

/-- LOOP (R195): its body runs exactly MAXTRIP times, also where its guard is false (R183). -/
def execLoop (t : Fin 192) (g : Guard) (d a : Fin 32) (pd : Fin 16) (level : Fin 4) (body : BitVec 11)
    (maxTrip : BitVec 12) (s : State) : Host.Outcome State Fault Refusal :=
  .next (if mayIssue s t g (.loop t g d a pd level body maxTrip) then
      onTile (issued s t g (.loop t g d a pd level body maxTrip)) t.val
        (fun x => startLoop x (guardHolds x.src.p g) d a pd level body.toNat maxTrip.toNat)
    else s)

/-- BR (R196): sets the next bundle. -/
def execBr (t : Fin 192) (g : Guard) (target : BitVec 47) (s : State) : Host.Outcome State Fault Refusal :=
  .next (issueTile s t g (.br t g target) (fun x => { x with next := target.toNat }))

/-- BIND (R197). -/
def execBind (t : Fin 192) (g : Guard) (pd : Fin 16) (a : Fin 32) (s : State) : Host.Outcome State Fault Refusal :=
  .next (issue s t g (.bind t g pd a) (fun s1 =>
    let v := (tileOf s1 t.val).src.s[a]
    if h : v.toNat < 1024 then
      if (admOf s1 v.toNat).isSome then
        onTile s1 t.val (fun x => setP { x with bound := some ⟨v.toNat, h⟩ } pd (statusPred true))
      else onTile s1 t.val (fun x => setP { x with bound := none } pd (statusPred false))
    else onTile s1 t.val (fun x => setP { x with bound := none } pd (statusPred false))))

/-- ARM (R188, R191): the deadline is PHASE_TICK + DL; all counts are cleared. -/
def execArm (t : Fin 192) (g : Guard) (w : Fin 64) (dl : BitVec 20) (exp : BitVec 21) (s : State) :
    Host.Outcome State Fault Refusal :=
  .next (issueTile s t g (.arm t g w dl exp) (fun x =>
    setWait x w { WaitObj.reset with armed := true, dl := x.phaseTick + dl.toNat, exp := exp.toNat }))

/-- An AWAIT completes (R190). -/
def completeAwait (x : Tile) (d : Fin 32) (pd : Fin 16) (w : Fin 64) : Tile :=
  let o := x.wait[w]
  setP (setS x d (BitVec.ofNat 64 o.arrived)) pd (statusPred (o.arrived == o.issued + o.exp))

/-- An AWAIT that held its tile completes in the last cycle of the deadline tick, so that its results are visible in the next (R184,
R190). -/
def awaitEnds (cpt : Nat) (x : Tile) (d : Fin 32) (pd : Fin 16) (w : Fin 64) : Tile :=
  landed ((x.wait[w].dl + 1) * cpt) x (completeAwait x d pd w) [(.s d.val, 0), (.p pd.val, 0)]

/-- AWAIT (R190): up to its deadline tick the tile issues nothing more until the tick after it. -/
def execAwait (t : Fin 192) (g : Guard) (d : Fin 32) (pd : Fin 16) (w : Fin 64) (s : State) :
    Host.Outcome State Fault Refusal :=
  .next (issueTile s t g (.await t g d pd w) (fun x =>
    let o := x.wait[w]
    if s.clk.tick ≤ o.dl then { x with stall := o.dl + 1, awaiting := some (d, pd, w) }
    else completeAwait x d pd w))

/-- The number of a wait object's elements with a status (R192). -/
def waitCount (o : WaitObj) (st : ElemStatus) : Nat :=
  match st with
  | .arrived => o.arrived
  | .late => o.late
  | .unreadable => o.unreadable
  | .absent => o.absent
  | .refused => o.refused

/-- WSTAT (R192). -/
def execWstat (t : Fin 192) (g : Guard) (d : Fin 32) (w : Fin 64) (st : ElemStatus) (s : State) :
    Host.Outcome State Fault Refusal :=
  .next (issueTile s t g (.wstat t g d w st) (fun x => setS x d (BitVec.ofNat 64 (waitCount x.wait[w] st))))

/-- A wake request for one Pod (R198, R463): a gated Pod runs from a later tick; a cold request relocks its PLL. A Pod that a wake
has already given a tick keeps it. -/
def wakePod (tick : Nat) (cold : Bool) (p : Pod) : Pod :=
  if p.wakeAt.isSome then p
  else
    match p.clk, cold with
    | .running, _ => p
    | _, true => { p with clk := .relocking, wakeAt := some (tick + 64) }
    | .gated, false => { p with wakeAt := some (tick + 1) }
    | .gatedOff, false => p
    | .relocking, false => p

/-- The Pods of a mask, each changed by a function. -/
def onPods (s : State) (mask : BitVec 8) (f : Pod → Pod) : State :=
  (List.range 8).foldl (fun s p => if mask.getLsbD p then onPod s p f else s) s

/-- WAKE (R198). -/
def execWake (t : Fin 192) (g : Guard) (pods : BitVec 8) (cold : Bool) (s : State) : Host.Outcome State Fault Refusal :=
  .next (issue s t g (.wake t g pods cold) (fun s1 => onPods s1 pods (wakePod s1.clk.tick cold)))

/-- GATE (R198): the Pods named stop at the end of the tick. -/
def execGate (t : Fin 192) (g : Guard) (pods : BitVec 8) (pllOff : Bool) (s : State) :
    Host.Outcome State Fault Refusal :=
  .next (issue s t g (.gate t g pods pllOff) (fun s1 => onPods s1 pods (fun p => { p with gateAsked := some pllOff })))

/-- A Pod that GATE named in the tick that ends stops (R198). One that does not run stays as it is, but that PLL_OFF stops its PLL,
and with it any wake it waits for (log 127). -/
def gatePod (p : Pod) : Pod :=
  match p.gateAsked with
  | none => p
  | some off =>
    if off then { p with clk := .gatedOff, gateAsked := none, wakeAt := none }
    else { p with clk := if p.clk = .running then .gated else p.clk, gateAsked := none }

/-- PEND (R192): the tile issues nothing more until the plan's next phase starts. -/
def execPend (t : Fin 192) (g : Guard) (s : State) : Host.Outcome State Fault Refusal :=
  .next (issueTile s t g (.pend t g) (fun x => { x with run := false }))

end Sys2Proof.Machine
end

