-- ==== Sys2Proof/Machine/Tick.lean ====
section
/-! DEFINITION. The tick: what a boundary does on the host side and to memory, and TICK_MARKER_RECEIVE (R256, R377). -/

namespace Sys2Proof.Machine

open Sys2Proof

/-! ### What the boundary does -/

/-- Every Pod at the boundary: the writes of the tick that ended take effect, those of its last cycles included (R165), and a Pod that
GATE named stops (R198). -/
def gatePods (s : State) : State :=
  { s with pods := tmapAll Pod.reset (fun _ p => podBefore (gatePod p) (s.clk.tick * tickCycles s + 12)) s.pods }

/-- Register writes that wait for the boundary: ADM_CTL (R454), DBG_ROW (R437). -/
def deferredRegs (s : State) : State :=
  let adm := s.host.admNext.getD (s.host.admMode, s.host.admOver)
  { s with host := { s.host with admMode := adm.1, admOver := adm.2, admNext := none,
                                 dbgRow := s.host.dbgNext.getD s.host.dbgRow, dbgNext := none } }

/-- A function's buckets: a policing word loaded takes effect with full buckets (R385, R455); else they fill (R386). -/
def boundaryMeter (m : Meter) (next : Option Meter) : Meter :=
  match next with
  | some w => refillMeter w
  | none => fillMeter m

/-- A function at the boundary: SQ_TAIL, CQ_HEAD and whether it runs are seen as they stood (R23, R440, R441), and its meter. -/
def boundaryFunc (f : Func) : Func :=
  { f with sqSeen := f.sqTail, cqSeen := f.cqHead, runSeen := f.en && !f.fault && !f.d3, meter := boundaryMeter f.meter f.meterNext, meterNext := none }

/-- The update credit grows (R304). -/
def boundaryCredit (c : Ctx) : Nat :=
  if c.tier.updRate = 0 then c.credit else min (creditCap c.tier) (c.credit + c.tier.updRate)

/-- A context at the boundary: segment tables (R169, R460), fabric control words (R385), meters, update credit. -/
def boundaryCtx (c : Ctx) : Ctx :=
  { c with segs := c.segsNext.getD c.segs, segsNext := none, meter := boundaryMeter c.meter c.meterNext,
           meterNext := none, credit := boundaryCredit c }

/-- A function level reset takes effect (R429): the queue registers are as after reset, queued requests are discarded, and
admitted ones run on and write nothing. The policing word stays. -/
def flrFunc (s : State) (fn : Nat) : State :=
  let f := funcOf s fn
  if f.flrAsked then
    let f1 := { Func.reset with ring := f.ring, d3 := f.d3, meter := f.meter, meterNext := f.meterNext }
    let s1 := putFunc s fn f1
    let q := s1.host.queued.filter (fun r => r.fn.val == fn)
    let s2 := q.foldl (fun s r => tagHead (dequeue s r) r.pipe r.ctx false) s1
    (admSlots s2).foldl (fun s k => onAdm s k (fun a => if a.req.fn.val = fn then { a with silent := true } else a)) s2
  else s

/-- CTX_DESTROY takes effect (R450): the context's queued requests complete with ABORTED. -/
def destroyEffect (s : State) (k : Nat) : State :=
  if (ctxOf s k).destroyNow then
    onCtx { s with host := { s.host with queued := s.host.queued.map (fun r => if r.ctx.toNat = k then { r with doomed := true } else r) } }
      k (fun c => { c with destroyNow := false, destroying := true })
  else s

/-- The requests that a destroyed context left behind (R450). -/
def failDoomed (s : State) : State :=
  (s.host.queued.filter (·.doomed)).foldl (fun s r => failQueued s r stAborted) s

/-- Whether an admitted request of a context has not completed. -/
def ctxAdmitted (s : State) (k : Nat) : Bool :=
  (admSlots s).any (fun i => match admOf s i with | some a => a.req.ctx.toNat == k | none => false)

/-- A destroyed context's id is free once its last admitted request has completed (R450). -/
def freeDestroyed (s : State) (k : Nat) : State :=
  if (ctxOf s k).destroying && !ctxAdmitted s k then dropCtx s k else s

/-- Beans readmitted (R153). -/
def readmitBeans (s : State) : State :=
  { s with stk := { s.stk with beanOut := s.stk.beanOut &&& ~~~s.stk.readmit, readmit := 0, rose := false } }

/-- Held accesses of pairs that are free of compute are served (R142). -/
def serveIdle (s : State) : State :=
  (uniq (s.stk.held.flatMap (fun a => beansOfRange a.addr a.len))).foldl idlePair s

/-- The bytes of a tick marker (R377): the tick that starts, the partition, the reference node. -/
def markerBytes (s : State) : List Byte :=
  leBytes 8 s.clk.tick ++ leBytes 1 s.mach.partition.toNat ++ leBytes 2 s.mach.steward.toNat

/-- Every port whose links run sends a tick marker in a control block (R377). -/
def sendMarkers (s : State) : State :=
  let ps := (List.finRange 6).filter (fun p => portTrained s.fab.ports[p] && s.fab.byp[p.val / 2]? == some .open_)
  { s with io := { s.io with ctl := s.io.ctl ++ ps.map (fun p => (p, markerBytes s)) } }

/-- A port keeps the copies of what it sent in the last 8 ticks (R392). -/
def pruneSent (s : State) : State :=
  let keep (t : Nat) : Bool := decide (s.clk.tick ≤ t + 8)
  let cut (p : Port) : Port := { p with sent := p.sent.filter (fun x => keep x.1), fsent := p.fsent.filter (fun x => keep x.1) }
  { s with fab := { s.fab with ports := s.fab.ports.map cut } }

/-- A member's searches leave their slots LENGTH ticks after their opportunity, as an admitted request leaves its own (R262). -/
def leaveQueries (s : State) : State :=
  let gone (k : Nat) : Bool :=
    match admOf s k with
    | none => false
    | some a => a.entry.isSome &&
        (match s.plan.active.bind (fun p => p.pipes[a.req.pipe]?) with
         | none => true
         | some q => decide (a.opp + q.length ≤ s.clk.tick))
  ((admSlots s).filter gone).foldl (fun s k => putAdm s k none) s

/-- The boundary's work on the host side: registers, functions, contexts. -/
def boundaryHost (s : State) : State :=
  let s1 := leaveQueries (freeRolled (mbxView (deferredRegs s)))
  let s2 := (s1.funcs.map (·.1)).foldl flrFunc s1
  let s3 : State := { s2 with funcs := tmapAll Func.reset (fun _ f => boundaryFunc f) s2.funcs }
  let s4 := failDoomed ((s3.ctxs.map (·.1)).foldl destroyEffect s3)
  let s5 := (s4.ctxs.map (·.1)).foldl freeDestroyed s4
  let s6 := (s5.ctxs.map (·.1)).foldl tierEffect s5
  { s6 with ctxs := tmapAll Ctx.reset (fun _ c => boundaryCtx c) s6.ctxs }

/-- The boundary's writes to node memory (R170, R207), the stacks that wake (R147), Beans and held accesses (R142, R153). -/
def boundaryMem (s : State) : State := serveIdle (readmitBeans (wakeStacks (applyDirWrites (applyTileWrites s))))

/-! ### Tick alignment (R256, R257, R377) -/

/-- An offset in units of 0.25 ns as TICK_ALIGN holds it: saturating at ±127 (R257). -/
def alignByte (o : Int) : BitVec 8 := BitVec.ofInt 8 (max (-127) (min 127 o))

/-- Beyond ±4 ns. -/
def offsetBad (o : Int) : Bool := decide (16 < o) || decide (o < -16)

/-- A lost alignment (R256): a second offset in a row beyond ±4 ns re-synchronises once; one within 1,024 ticks of that is
lasting. -/
def alignLost (s : State) : State :=
  let again := match s.clk.resync with | some r => decide (s.clk.tick ≤ r + 1024) | none => false
  if again then dropNode s .align
  else if s.clk.misses + 1 < 2 then { s with clk := { s.clk with misses := s.clk.misses + 1 } }
  else
    let s1 : State := { s with clk := { s.clk with misses := 0, resync := some s.clk.tick } }
    raiseEvent (bump s1 .tickResync) evTickResync (tickAlignReg s1)

/-- Whether a joiner listens to a marker (R509 step 3): on an open port of a pair it named, of its partition. -/
def joinHears (s : State) (port : Fin 6) (m : Marker) : Bool :=
  match s.mach.join with
  | none => false
  | some j => s.aon.joinState == .opening && bit j.pairs (port.val / 2) && portOpen s port && m.partition == j.partition

/-- The joiner aligns by echo: it loads TICK_NOW once more, with the exact value, at its first such marker. -/
def joinAlign (s : State) (m : Marker) (offset : Int) : State :=
  let first := match s.mach.join with | some j => !j.aligned | none => false
  { s with clk := { s.clk with tick := if first then m.tick.toNat else s.clk.tick, offset := alignByte offset, locked := !offsetBad offset },
           mach := { s.mach with join := s.mach.join.map (fun j => { j with aligned := true }) } }

/-- TICK_MARKER_RECEIVE (R256, R377, R379, R509): on the time port; a marker of another partition counts only for a steward. The
offset is in units of 0.25 ns. -/
def execTickMarkerReceive (port : Fin 6) (m : Marker) (offset : Int) (s : State) : Host.Outcome State Fault Refusal :=
  .next (
    if joinHears s port m then joinAlign s m offset
    else if s.fab.ports[port].timeSrc && (m.partition == s.mach.partition || s.mach.role == .steward) then
      let s1 : State := { s with clk := { s.clk with offset := alignByte offset, locked := !offsetBad offset } }
      if offsetBad offset then alignLost s1 else { s1 with clk := { s1.clk with misses := 0 } }
    else s)

end Sys2Proof.Machine
end

