-- ==== Sys2Proof/Machine/Admission.lean ====
section
/-! DEFINITION. DESCRIPTOR_CONSUME (R441 to R443, R455), ADMISSION_OPPORTUNITY (R262, R271, R451 to R453, R472) and
FRAME_BOUNDARY (R276, R277). -/

namespace Sys2Proof.Machine

open Sys2Proof

/-! ### Descriptors (R442) -/

structure Desc where
  resAddr : Nat
  inAddr : Nat
  resLen : Nat
  inLen : Nat
  item : Nat
  k : Nat
  pipe : Nat
  inKind : Nat
  colour : Nat
  ctx : CtxId
  tag : BitVec 16
  op : BitVec 8
  reserved : Bool
deriving DecidableEq, Repr

def descOf (d : BitVec 512) : Desc :=
  let n := d.toNat
  { resAddr := bitsOf n 448 64, inAddr := bitsOf n 384 64, resLen := bitsOf n 352 32, inLen := bitsOf n 320 32,
    item := bitsOf n 284 36, k := bitsOf n 115 13, pipe := bitsOf n 109 6, inKind := bitsOf n 107 2,
    colour := bitsOf n 105 2, ctx := BitVec.ofNat 12 (bitsOf n 36 12), tag := BitVec.ofNat 16 (bitsOf n 20 16),
    op := BitVec.ofNat 8 (bitsOf n 0 8),
    reserved := bitsOf n 128 156 != 0 || bitsOf n 48 57 != 0 || bitsOf n 8 12 != 0 }

/-- The ranges and alignments of R442. -/
def descRangesOk (d : Desc) (c : Ctx) (p : Plan) : Bool :=
  let search := d.op == 1
  let fetch := d.op == 4
  let noInput := d.op == 3 || fetch
  match p.pipes[d.pipe]? with
  | none => false
  | some q =>
    q.kind + 1 == d.op.toNat
    && (if search || fetch then d.resAddr % 32 == 0 else d.resAddr == 0)
    && (if noInput then d.inAddr == 0 else d.inAddr % 4 == 0)
    && (if search then decide (16 * d.k ≤ d.resLen) else if fetch then decide (fvSize c ≤ d.resLen) else d.resLen == 0)
    && (if noInput then d.inLen == 0
        else if d.inKind = 2 then decide (1 ≤ d.inLen) && decide (d.inLen ≤ 4096)
        else if d.inKind = 0 then d.inLen == 2 * c.dim else d.inLen == 4 * c.dim)
    && (search || d.inKind != 2)
    && (if search then d.item == 0 else d.item != itemNone.toNat)
    && (if search then decide (1 ≤ d.k) && decide (d.k ≤ q.maxK) else d.k == 0)
    && decide (d.resAddr + d.resLen ≤ 18446744073709551616)
    && decide (d.inAddr + d.inLen ≤ 18446744073709551616)

/-- The shard of a descriptor's item. -/
def descShard (d : Desc) (c : Ctx) : Nat := shardOf c.ns d.item

/-- Checks 1 to 7 of R443, with the refusal of a lost shard beside check 6 (R420): none when all pass. -/
def descCheck (s : State) (fn : Nat) (d : Desc) : Option (BitVec 8) :=
  let c := ctxOf s d.ctx.toNat
  if d.op = 0 ∨ 4 < d.op.toNat then some stBadOpcode
  else if d.reserved = true ∨ d.inKind = 3 ∨ d.colour = 3 then some stBadField
  else if c.live = false ∨ c.destroying = true ∨ (d.op = 2 ∧ copyOf s d.ctx.toNat (descShard d c) = none) then
    some stBadContext
  else if fn ≠ 0 ∧ fn ≠ c.adm.owner then some stNoRights
  else if d.inKind = 2 ∧ s.aon.textUnit = false then some stUnitAbsent
  else
    match s.plan.active with
    | none => some stFenced
    | some p =>
      if inEpoch s = false then some stFenced
      else if d.op ≠ 1 ∧ (shardEnt s d.ctx.toNat (descShard d c)).state = .lost then some stFenced
      else if descRangesOk d c p = false then some stBadField
      else none

/-- The pre-colour of a descriptor (R455). -/
def preColour (m : Meter) (d : Desc) : Colour :=
  if m.aware then (match d.colour with | 0 => .green | 1 => .yellow | _ => .red) else .green

/-- A descriptor as the request it asks for. -/
def reqOf (s : State) (fn : Fin 513) (sq : Fin 512) (d : Desc) (yellow : Bool) : Req :=
  let c := ctxOf s d.ctx.toNat
  let e := shardEnt s d.ctx.toNat (descShard d c)
  { fn := fn, sq := sq, ctx := d.ctx, pipe := d.pipe, op := d.op, tag := d.tag, k := d.k, item := BitVec.ofNat 36 d.item,
    inKind := d.inKind, inAddr := d.inAddr, inLen := d.inLen, resAddr := d.resAddr, resLen := d.resLen, yellow := yellow,
    seen := s.clk.tick, head := none, backlogged := false, doomed := false,
    prep := if c.graph ≠ 0 ∧ (d.op = 2 ∨ d.op = 3) then some ⟨false, e.partner == e.primary⟩ else none }

/-- A rejected descriptor completes in this tick (R443, R461). -/
def rejectDesc (s : State) (r : Req) (st : BitVec 8) : State := bump (completeReq s r st) .descReject

/-- The prepare stage's question to both holders (R299 step 1). -/
def askPrepare (s : State) (r : Req) : State :=
  if r.prep.isSome then
    let c := ctxOf s r.ctx.toNat
    let sh := shardOf c.ns r.item.toNat
    let e := shardEnt s r.ctx.toNat sh
    (uniq [e.primary, e.partner]).foldl (fun s n =>
      sendMsg s n msgPrepare (leBytes 2 r.fn.val ++ leBytes 2 r.sq.val ++ leBytes 2 r.ctx.toNat ++ leBytes 3 sh ++ leBytes 5 r.item.toNat)) s
  else s

/-- Checks 8 and 9 of R443, in order: the policer, then the context's queue limit. -/
def acceptDesc (s : State) (fn : Fin 513) (sq : Fin 512) (d : Desc) : State :=
  let m := (funcOf s fn.val).meter
  let (col, m1) := colour m (preColour m d) (64 + d.inLen)
  let s1 := onFunc s fn.val (fun f => { f with meter := m1 })
  let r := reqOf s1 fn sq d (col == .yellow)
  if col = .red then rejectDesc (bump s1 .policeRed) r stQueueFull
  else if (ctxOf s d.ctx.toNat).adm.qMax ≤ (s1.host.queued.filter (fun x => x.ctx == d.ctx)).length then
    rejectDesc s1 r stQueueFull
  else askPrepare (enqueue s1 r) r

/-- One descriptor consumed (R441): SQ_HEAD advances, one more completion is owed. -/
def consumeOne (s : State) (fn : Fin 513) : State :=
  let f := funcOf s fn.val
  let sq : Fin 512 := Fin.ofNat 512 f.sqHead.toNat
  let d := descOf (tget 0 f.ring sq.val)
  let s1 := onFunc s fn.val (fun f => { f with sqHead := f.sqHead + 1, open_ := f.open_ + 1 })
  match descCheck s1 fn.val d with
  | some st => rejectDesc s1 (reqOf s1 fn sq d false) st
  | none => acceptDesc s1 fn sq d

/-- Whether a function's next slot may be consumed (R441): the function ran at the boundary, it has a slot, and its ring had room for
the completion. -/
def mayConsume (f : Func) : Bool :=
  f.runSeen && f.sqHead != f.sqSeen
  && decide ((f.cqTail.toNat + 2 ^ f.log2.toNat - f.cqSeen.toNat) % 2 ^ f.log2.toNat + f.open_ + 1 ≤ 2 ^ f.log2.toNat - 1)

/-- A function's descriptors in ring order, at most 512. -/
def consumeFunc : Nat → State → Fin 513 → State
  | 0, s, _ => s
  | n + 1, s, fn => if mayConsume (funcOf s fn.val) then consumeFunc n (consumeOne s fn) fn else s

/-- DESCRIPTOR_CONSUME (R441): once at a boundary, function by function in ascending index. -/
def execDescriptorConsume (s : State) : Host.Outcome State Fault Refusal :=
  .next (
    if s.clk.did.consumed || s.aon.inReset then s
    else
      let s1 : State := { s with clk := { s.clk with did := { s.clk.did with consumed := true } } }
      (s1.funcs.map (fun kv => Fin.ofNat 513 kv.1)).foldl (consumeFunc 512) s1)

/-! ### Admission (R451, R453) -/

/-- The parity of a tick's frame, as a Bool: true for an odd one (R277). -/
def frameOdd (t : Nat) : Bool := t / 64 % 2 == 1

/-- The buffer of a residency set that belongs to a parity: the context whose data it holds (R277). -/
def bufferOf (x : ResSet) (odd : Bool) : Option CtxId := if odd then x.odd else x.even

/-- A context's resident data is loaded into the buffer of a parity (R277). -/
def loadBuffer (odd : Bool) (x : ResSet) : ResSet :=
  if odd then { x with odd := some x.ctx } else { x with even := some x.ctx }

/-- The set of a pipeline in which a context is resident: the set keeps it, and the buffer of this frame's parity, which a request
admitted now reads, holds its data (R276, R277). -/
def residentSet (s : State) (pipe : Nat) (q : Pipe) (c : CtxId) : Option Nat :=
  (List.range q.resSets).find? (fun i =>
    match tget none s.host.resSets (pipe * 16 + i) with
    | some x => x.ctx == c && bufferOf x (frameOdd s.clk.tick) == some c
    | none => false)

/-- Whether a context is admissible for its residency (R277, R278). -/
def resident (s : State) (pipe : Nat) (q : Pipe) (c : CtxId) : Bool :=
  q.resSets == 0 || (residentSet s pipe q c).isSome

/-- Whether the update credit lets a request in (R304). -/
def creditOk (q : Pipe) (c : Ctx) : Bool := (q.kind != 1 && q.kind != 2) || c.tier.updRate == 0 || decide (256 ≤ c.credit)

/-- Whether the prepare stage is over (R299). -/
def prepDone (r : Req) : Bool := match r.prep with | none => true | some p => p.primary && p.partner

/-- Whether a request is ready at an opportunity (R451). -/
def ready (s : State) (pipe : Nat) (q : Pipe) (r : Req) : Bool :=
  let c := ctxOf s r.ctx.toNat
  r.pipe == pipe && queueHead s.host.queued pipe r.ctx == some r && c.live && !c.destroying && r.op.toNat == q.kind + 1
  && resident s pipe q r.ctx && creditOk q c && prepDone r

/-- A context's distance from the pipeline's round-robin pointer (R453). -/
def rrDist (s : State) (pipe : Nat) (c : CtxId) : Nat := (c.toNat + 4096 - tget 0 s.host.rrCtx pipe % 4096) % 4096

/-- Whether request `a` goes before `b` (R453). -/
def admitBefore (s : State) (pipe : Nat) (a b : Req) : Bool :=
  let fa := (a.head.getD (0, 0)).2
  let fb := (b.head.getD (0, 0)).2
  if a.yellow != b.yellow then !a.yellow
  else decide (fa < fb) || (fa == fb && decide (rrDist s pipe a.ctx < rrDist s pipe b.ctx))

/-- The first of a list by an order. -/
def bestBy {α : Type} (lt : α → α → Bool) : List α → Option α
  | [] => none
  | x :: r => match bestBy lt r with | none => some x | some y => if lt y x then some y else some x

/-- DEPTH of a pipeline and the slot of a place (R262). -/
def pipeDepth (q : Pipe) : Nat := (q.length + 1 + q.period - 1) / q.period
def slotFor (q : Pipe) (t j : Nat) : Nat := q.slotBase + q.perIssue * (t / q.period % pipeDepth q) + j

/-- The round-robin pointer moves past a winner. -/
def moveRr (s : State) (pipe : Nat) (c : CtxId) : State :=
  { s with host := { s.host with rrCtx := tput 0 s.host.rrCtx pipe ((c.toNat + 1) % 4096) } }

/-- Whether a search is audited here (R81): by the sequence value it takes and the STATE at its admission tick. -/
def auditedNow (st : CalState) (c : Ctx) : Bool :=
  match st with
  | .normal => c.audit.seq % 64 == 0
  | .ramp => c.audit.seq % 16 == 0
  | .off => false

/-- What an admission does to its context: the audit sequence (R81) and the update credit (R304). -/
def admitCtx (q : Pipe) (c : Ctx) : Ctx :=
  let c1 := if q.kind = 0 then { c with audit := { c.audit with seq := (c.audit.seq + 1) % 4294967296 } } else c
  if (q.kind = 1 ∨ q.kind = 2) ∧ c.tier.updRate ≠ 0 then { c1 with credit := c1.credit - 256 } else c1

/-- The margin a search carries (R107). -/
def admitMargin (c : Cal) : F16 := if c.auditEn then c.marginNow else c.marginCal

/-- A request is admitted in place `j` (R23, R73, R107, R169, R262, R452). -/
def admitOne (s : State) (p : Plan) (pipe : Nat) (q : Pipe) (j : Nat) (r : Req) : State :=
  let c := ctxOf s r.ctx.toNat
  let t := s.clk.tick
  let f := (r.head.getD (0, 0)).2
  let a : Adm :=
    { req := r, t := t, opp := t, entry := none, place := j, margin := admitMargin (calNow s r.ctx.toNat),
      cal := calNow s r.ctx.toNat, segs := c.segs, fault := none,
      audited := q.kind == 0 && auditedNow (calNow s r.ctx.toNat).state c, silent := false, reh := false,
      buffer := (residentSet s pipe q r.ctx).map (fun i => (i, frameOdd t)) }
  let s1 := putAdm (dequeue s r) (slotFor q t j) (some a)
  let s2 : State :=
    { s1 with host := { s1.host with flast := tput 0 s1.host.flast (pipeCtxKey pipe r.ctx) f,
                                     vtime := tput 0 s1.host.vtime pipe (max (tget 0 s1.host.vtime pipe) f) } }
  let s3 := onCtx (moveRr s2 pipe r.ctx) r.ctx.toNat (admitCtx q)
  let s4 := if multiPhase p q then admitPool s3 (slotFor q t j) t else s3
  tagHead s4 pipe r.ctx true

/-- A request that would be admitted is refused, and uses up its place. -/
def refuseAdmit (s : State) (r : Req) (f : State → State) : State := tagHead (f (dequeue s r)) r.pipe r.ctx false

/-- One place (R453), with what R271, R84, R398 and R400 refuse at admission. -/
def fillPlace (p : Plan) (pipe : Nat) (q : Pipe) (bad : List CtxId) (s : State) (j : Nat) : State :=
  match bestBy (admitBefore s pipe) (s.host.queued.filter (ready s pipe q)) with
  | none => s
  | some r =>
    let t := s.clk.tick
    if p.timingClass < nodeClass s then
      refuseAdmit s r (fun s => bump (completeReq s r stTimingClass) .refusedAdmit)
    else if bad.contains r.ctx then
      refuseAdmit s r (fun s => uncorrMem (completeAtAdmission s r t stMediaError) 0 0 (some r.ctx))
    else if multiPhase p q && s.pool.rows == 0 then
      refuseAdmit s r (fun s => completeAtAdmission s r t stCapacity)
    else if multiPhase p q && !poolSegOk s (ctxOf s r.ctx.toNat).segs then
      refuseAdmit s r (fun s => completeAtAdmission s r t stBadContext)
    else admitOne s p pipe q j r

/-- Whether the shedding level closes an opportunity (R472). -/
def shedCloses (s : State) (q : Pipe) : Bool := decide (8 - s.pow.shed.toNat ≤ s.clk.tick / q.period % 8)

/-- Whether a pipeline admits nothing in this tick because one of its sets has just changed hands (R277). -/
def frameHolds (s : State) (pipe : Nat) : Bool := s.host.resChanged.contains pipe && decide (s.clk.tick % 64 < 2)

/-- ADMISSION_OPPORTUNITY (R453): on each tick with T mod ISSUE_PERIOD = ISSUE_PHASE, once, from the tick the plan admits. -/
def execAdmissionOpportunity (pipe : Fin 63) (bad : List CtxId) (s : State) : Host.Outcome State Fault Refusal :=
  .next (
    match s.plan.active with
    | none => s
    | some p =>
      match p.pipes[pipe.val]? with
      | none => s
      | some q =>
        if s.clk.tick % q.period ≠ q.phase ∨ s.clk.tick < s.plan.start ∨ s.clk.did.pipes.contains pipe.val = true then s
        else
          let d := { s.clk.did with pipes := s.clk.did.pipes ++ [pipe.val] }
          let s1 : State := { s with clk := { s.clk with did := d } }
          if q.kind = 4 ∨ s.plan.draining = true ∨ s.mach.dropped ≠ none then s1
          else if shedCloses s q then bump s1 .shedOpp
          else if frameHolds s pipe.val then s1
          else (List.range q.perIssue).foldl (fillPlace p pipe.val q bad) s1)

/-! ### Searches of other entry nodes (R81, R88, R107, R264, R279) -/

/-- The request that a member sees of a search that another node admitted: its context, and nothing of the host's. -/
def visitReq (pipe : Nat) (x : QueryIn) : Req :=
  { fn := 0, sq := 0, ctx := x.ctx, pipe := pipe, op := 0x01, tag := 0, k := 0, item := 0, inKind := 0, inAddr := 0, inLen := 0,
    resAddr := 0, resLen := 0, yellow := false, seen := 0, head := none, backlogged := false, doomed := false, prep := none }

/-- A member takes a search in at an opportunity of an INTERNAL pipeline: it uses the T and the margin of the query cells and never
its own (R107, R279), and counts the search in its audit sequence (R81). It holds it in the slot that R262 gives the place, and
writes nothing to the host for it (log 111). -/
def takeQuery (pipe : Nat) (q : Pipe) (opp : Nat) (s : State) (x : QueryIn) : State :=
  let c := ctxOf s x.ctx.toNat
  if c.live && decide (x.place.val < q.perIssue) && (admOf s (slotFor q opp x.place.val)).isNone then
    let a : Adm :=
      { req := visitReq pipe x, t := x.t.toNat, opp := opp, entry := some x.entry, place := x.place.val, margin := x.margin,
        cal := calNow s x.ctx.toNat, segs := c.segs, fault := none,
        audited := auditedNow (stateAt (settleCal s c) x.t.toNat) c, silent := true, reh := false,
        buffer := none }
    onCtx (putAdm s (slotFor q opp x.place.val) (some a)) x.ctx.toNat
      (fun c => { c with audit := { c.audit with seq := (c.audit.seq + 1) % 4294967296 } })
  else s

/-! ### Frames (R276, R277) -/

/-- The contexts that wait for a residency set: a request heads their queue and no other set holds them. -/
def frameWaiters (s : State) (pipe set : Nat) (q : Pipe) : List Req :=
  s.host.queued.filter (fun r =>
    r.pipe == pipe && queueHead s.host.queued pipe r.ctx == some r &&
    (List.range q.resSets).all (fun i =>
      i == set || (match tget none s.host.resSets (pipe * 16 + i) with | some x => x.ctx != r.ctx | none => true)))

/-- One residency set at a frame boundary (R276): kept, given to the context with the smallest tag, or kept for want of
another. The buffer of the new frame's parity is loaded with the data of the context that the set now holds, an incoming one or one
that stays (R277, log 153). -/
def frameSet (pipe : Nat) (q : Pipe) (s : State) (set : Nat) : State :=
  let key := pipe * 16 + set
  let cur := tget none s.host.resSets key
  let put (s : State) (x : ResSet) (changed : Bool) : State :=
    { s with host := { s.host with resSets := tput none s.host.resSets key (some (loadBuffer (frameOdd s.clk.tick) x)),
                                   resChanged := if changed then s.host.resChanged ++ [pipe] else s.host.resChanged } }
  let keeps (x : ResSet) : Bool :=
    (queueHead s.host.queued pipe x.ctx).isSome && decide (x.frames < q.frameMax)
  let choose : State :=
    match bestBy (admitBefore s pipe) ((frameWaiters s pipe set q).map (fun r => { r with yellow := false })), cur with
    | some r, some x =>
      let s1 := moveRr s pipe r.ctx
      if r.ctx = x.ctx then put s1 { x with frames := x.frames + 1 } false else put s1 { x with ctx := r.ctx, frames := 1 } true
    | some r, none => put (moveRr s pipe r.ctx) ⟨r.ctx, 1, none, none⟩ true
    | none, some x => put s { x with frames := x.frames + 1 } false
    | none, none => s
  match cur with
  | some x => if keeps x then put s { x with frames := x.frames + 1 } false else choose
  | none => choose

/-- FRAME_BOUNDARY (R276): once at each tick that is a multiple of 64. -/
def execFrameBoundary (s : State) : Host.Outcome State Fault Refusal :=
  .next (
    match s.plan.active with
    | none => s
    | some p =>
      if s.clk.tick % 64 ≠ 0 ∨ s.clk.did.framed = true then s
      else
        let d := { s.clk.did with framed := true }
        let s1 : State := { s with clk := { s.clk with did := d }, host := { s.host with resChanged := [] } }
        (List.range p.pipes.length).foldl (fun s i =>
          match p.pipes[i]? with
          | none => s
          | some q => (List.range q.resSets).foldl (frameSet i q) s) s1)

end Sys2Proof.Machine
end

