-- ==== Sys2Proof/Machine/Regions.lean ====
section
/-! DEFINITION. The regions of node memory that may not overlap (R38): structures of shard copies, the request-state pool, the
staging area, the hot areas. -/

namespace Sys2Proof.Machine

open Sys2Proof

/-- What a region belongs to. -/
inductive Owner where
  | pool
  | staging
  | hot (ctx : Nat)
  | copy (key : Nat)
  | scale (key : Nat)
deriving DecidableEq, Repr

/-- CL of a context's centroids on this node: from the CODE_DIM of its partitions, else 64 bytes (R38). -/
def ctxCl (s : State) (k : Nat) : Nat :=
  match (ctxOf s k).codeFormat with
  | some (_, dim, _, _) => centroidLen dim
  | none => 64

/-- The regions of one shard copy: its structures, and the scale vectors of its partitions. -/
def copyRegions (s : State) (key : Nat) (c : ShardCopy) : List (Owner × (Nat × Nat)) :=
  (copyRanges s c (ctxCl s c.ctx.toNat)).map (fun r => (.copy key, r))
  ++ (scaleRanges s c).map (fun r => (.scale key, r))

/-- The tier words of a context: in force, loaded for the next boundary, and taking effect (R303, R460). -/
def ctxTiers (c : Ctx) : List Tier := [c.tier] ++ c.tierNext.toList ++ (c.tierChange.map (·.word)).toList

/-- Every region of the node. -/
def regions (s : State) : List (Owner × (Nat × Nat)) :=
  [(.pool, (s.pool.base * 1024, s.pool.rows * 1024)), (.staging, (s.upd.stageBase * 1024, s.upd.stageRows * 1024))]
  ++ s.ctxs.flatMap (fun kv => (ctxTiers kv.2).map (fun t => (Owner.hot kv.1, (t.hotBase * 1024, t.hotRows * 1024))))
  ++ s.copies.flatMap (fun kv => match kv.2 with | none => [] | some c => copyRegions s kv.1 c)

/-- Whether a range overlaps a region that a test keeps. -/
def clashes (s : State) (keep : Owner → Bool) (r : Nat × Nat) : Bool :=
  decide (0 < r.2) && (regions s).any (fun x => keep x.1 && decide (0 < x.2.2) && overlap r x.2)

/-- Whether a region may lie where asked (R38): in memory, and clear of every region of another owner. -/
def regionOk (s : State) (o : Owner) (r : Nat × Nat) : Bool := inMemory r && !clashes s (fun x => x != o) r

end Sys2Proof.Machine
end

