-- ==== Sys2Proof/Machine/AsyncEvents.lean ====
section
/-! DEFINITION. What happens to tiles and their asynchronous work of itself: BUNDLE_FETCH_UNCORRECTABLE and
SRAM_SCRUB_REREAD (R166), ASYNC_ELEMENT_LAND (R258) and WAIT_DEADLINE_END (R189). -/

namespace Sys2Proof.Machine

open Sys2Proof

/-! ### Stores (R166) -/

/-- Every request that a tile's phase serves will complete with MEDIA_ERROR (R166). -/
def failPhase (s : State) (t : Fin 192) : State :=
  let x := tileOf s t.val
  (admSlots s).foldl (fun s k =>
    match admOf s k with
    | some a => if a.req.pipe == x.phasePipe && a.t == x.phaseT then
        onAdm s k (fun a => { a with fault := a.fault.or (some stMediaError) })
      else s
    | none => s) s

/-- BUNDLE_FETCH_UNCORRECTABLE (R166): the tile issues nothing more in the phase. A program word whose error is known to last is not
read again by the scrubber. -/
def execBundleFetchUncorrectable (t : Fin 192) (off : Nat) (s : State) : Host.Outcome State Fault Refusal :=
  .next (
    if mayFetch s t && decide (off < progLimit s t.val) then
      let s1 := failPhase (onTile s t.val (fun x => { x with fetchFail := true, inBundle := false })) t
      let s2 := bump s1 .uncorrSram
      let s3 := if (lastingWords s (.tile t)).contains (off / 8 * 8) then s2 else addScrub s2 (.tile t) off
      let s4 := raiseUncorr s3 2 (t.val + 256 * (off % 1048576)) (boundCtxId s t)
      raiseTileFault { s4 with tileFault := setBit s4.tileFault t.val true } (podOfTile t.val)
    else s)

/-- A lasting error's line is remapped to a spare, or the store's bit is set (R166): spares used, and what follows. -/
def remapLine (s : State) (u : SramUnit) : State :=
  match u with
  | .tile t =>
    if (tileOf s t.val).spares < 16 then bump (onTile s t.val (fun x => { x with spares := x.spares + 1 })) .sramRemap
    else setTileFault s u
  | .pod p =>
    if (podOf s p.val).spares < 64 then bump (onPod s p.val (fun x => { x with spares := x.spares + 1 })) .sramRemap
    else setTileFault s u

/-- The words a store's scrubber has yet to read again. -/
def scrubOf (s : State) (u : SramUnit) : List Nat :=
  match u with
  | .tile t => (tileOf s t.val).scrub
  | .pod p => (podOf s p.val).scrub

def dropScrub (s : State) (u : SramUnit) (off : Nat) : State :=
  match u with
  | .tile t => onTile s t.val (fun x => { x with scrub := x.scrub.erase off })
  | .pod p => onPod s p.val (fun x => { x with scrub := x.scrub.erase off })

/-- A word's error lasts (R166): it fails on every later access until it is rewritten, or, in the program region, until the plan is
loaded again. -/
def addLasting (s : State) (u : SramUnit) (off : Nat) : State :=
  match u with
  | .tile t => onTile s t.val (fun x => { x with bad := if x.bad.contains off then x.bad else x.bad ++ [off] })
  | .pod p => onPod s p.val (fun x => { x with bad := if x.bad.contains off then x.bad else x.bad ++ [off] })

/-- SRAM_SCRUB_REREAD (R166): a word that decodes is written back corrected, so the store keeps its bytes; one that does not has a
lasting error, and its line is remapped. -/
def execSramScrubReread (u : SramUnit) (off : Nat) (decodes : Bool) (s : State) : Host.Outcome State Fault Refusal :=
  .next (
    if (scrubOf s u).contains off then
      (if decodes then dropScrub s u off else remapLine (addLasting (dropScrub s u off) u off) u)
    else s)

/-! ### ASYNC_ELEMENT_LAND (R258) -/

/-- An image that a VFETCH read from flash is queued for promotion (R307); a full queue drops it. R307 names no other trigger
for the promotions of local-hot mode, so both modes queue. While a change of tier stops promotions (R303), none is queued. -/
def queuePromotion (s : State) (p : Option (CtxId × BitVec 36 × Nat)) : State :=
  match p with
  | none => s
  | some x =>
    if (ctxOf s x.1.toNat).tierChange ≠ none then s
    else if s.upd.promoteQ.length < 1024 then { s with upd := { s.upd with promoteQ := s.upd.promoteQ ++ [x] } }
    else bump s .promoteDrop

/-- Uncorrectable data in the home block of an element's request: its state is lost (R409). -/
def homeBlockBad (s : State) (e : Elem) (addr : Nat) : State :=
  match e.slot with
  | none => s
  | some k =>
    if (ledgerOf s k.val).valid && decide (blockAddr s k.val ≤ addr) && decide (addr < blockAddr s k.val + blockBytes s) then
      loseState s k.val
    else s

/-- Data of a model in node memory (R84): weights, an adapter, a reranker head. They lie in no region that the node has for its own
structures (R38; log 141). -/
def modelData (s : State) (addr : Nat) : Bool := !clashes s (fun _ => true) (addr / 64 * 64, 64)

/-- Model data that read uncorrectable end the request at its next phase boundary with MEDIA_ERROR (R84): the element's request, or
every one that the tile's phase serves when none was bound. -/
def modelBad (s : State) (e : Elem) (addr : Nat) : State :=
  if modelData s addr = false then s
  else
    if e.slot.isSome then failRequest s e.slot stMediaError else failPhase s e.tile

/-- A copy from the node's memory or a store meets an uncorrectable word (R84, R166, R202): the bytes that had landed stay. -/
def landBad (s : State) (e : Elem) (dst : Nat) (d : List Byte) (n : Nat) (src : ElemSrc) : State :=
  let ctx := e.slot.bind (fun k => (admOf s k.val).map (·.req.ctx))
  let s1 :=
    match src with
    | .tile off => storeUncorr s (.tile e.tile) (off + n) ctx
    | .pod off => storeUncorr s (.pod (Fin.ofNat 8 (podOfTile e.tile.val))) (off + n) ctx
    | .node addr => modelBad (homeBlockBad (lastingMem s (addr + n) ctx) e (addr + n)) e (addr + n)
  landData s1 e dst (d.take n) .unreadable

/-- The burst that a DIRW element meets as uncorrectable: byte `n` of group g1 of its operand's item, or byte `n` - 1,024 of g2
(R52, R207); none where the node holds no copy of the shard, and so reads no group. -/
def dirBurst (s : State) (e : Elem) (dst n : Nat) : Option (Nat × CtxId) :=
  match e.slot.bind (fun k => (admOf s k.val).map (·.req.ctx)) with
  | none => none
  | some c =>
    let item : BitVec 36 := BitVec.ofNat 36 (bitsOf (leAt (tileRead s e.tile.val dst 16) 0 16) 64 36)
    (itemCopy s c.toNat item).map (fun k =>
      if n < 1024 then (dirAddr k (dirGroup1 k.dirLog2 item.toNat) 0 + n, c)
      else (dirAddr k (dirGroup2 k.dirLog2 item.toNat) 0 + (n - 1024) % 1024, c))

/-- A group of a DIRW is uncorrectable (R84, R207): the access is counted and raised, the status is MEDIA_ERROR, and the
element is UNREADABLE. `d` is what lands before the status. -/
def dirBad (s : State) (e : Elem) (dst n : Nat) (at_ : Nat) (d : List Byte) : State :=
  match dirBurst s e dst n with
  | none => s
  | some (a, c) => landData (lastingMem s a (some c)) e at_ (d ++ leBytes 8 stMediaError.toNat) .unreadable

/-- A write to node memory that meets an uncorrectable partial burst does not happen (R120, R202). -/
def storeBad (s : State) (e : Elem) (n : Nat) : State :=
  match s.memWrites.find? (fun w => w.elem == e.id) with
  | none => s
  | some w =>
    let ctx := e.slot.bind (fun k => (admOf s k.val).map (·.req.ctx))
    endElem (lastingMem { s with memWrites := s.memWrites.filter (fun w => w.elem != e.id) } (w.addr + n) ctx) e .unreadable

/-- Whether bytes `d` from byte `off` of a vector input hold a whole element that is NaN or infinite: binary16 elements for
INPUT_KIND 0, binary32 for 1 (R442). -/
def inputBad (kind off : Nat) (d : List Byte) : Bool :=
  let w := if kind = 0 then 2 else 4
  let skip := (w - off % w) % w
  (List.range ((d.length - skip) / w)).any (fun i =>
    let n := leAt d (skip + w * i) w
    if kind = 0 then !f16Finite (BitVec.ofNat 16 n) else fisNaN (BitVec.ofNat 32 n) || fisInf (BitVec.ofNat 32 n))

/-- The node looks at an upserted vector as its bytes come from the host: a NaN or an infinite element makes the upsert end with
BAD_FIELD (R72, log 112). -/
def inputChecked (s : State) (e : Elem) (off : Nat) (d : List Byte) : State :=
  match e.slot with
  | none => s
  | some k =>
    match admOf s k.val with
    | none => s
    | some a =>
      if a.req.op = 0x02 ∧ inputBad a.req.inKind off d = true then
        onAdm s k.val (fun a => { a with fault := a.fault.or (some stBadField) })
      else s

/-- What an element does on landing. A landing that does not fit the element's kind is no event of it (log 3). -/
def landElem (s : State) (e : Elem) (how : Landing) : State :=
  match e.kind, how with
  | .load dst d _, .ok _ => landData s e dst d .arrived
  | .load dst d src, .uncorrectable n => landBad s e dst d n src
  | .loadHost dst n off, .data d => if d.length = n then landData (inputChecked s e off d) e dst d .arrived else s
  | .loadHost _ _ _, .hostFailed => hostReadFailed s e
  | .storeNode, .ok _ => endElem s e (if elemLate s e then .late else .arrived)
  | .storeNode, .uncorrectable n => storeBad s e n
  | .storeHost, .ok _ => endElem s e (if elemLate s e then .late else .arrived)
  | .storePod, .ok _ => endElem s e (if elemLate s e then .late else .arrived)
  | .gather _ dst d _, .ok _ => landData s e dst d .arrived
  | .gather _ dst d src, .uncorrectable n => landBad s e dst d n src
  | .fetch _ dst d _ p, .ok _ =>
    if elemLate s e then landData s e dst d .arrived else queuePromotion (landData s e dst d .arrived) p
  | .fetch _ dst d addr none, .uncorrectable n => landBad s e dst d n (.node addr)
  | .dirw dst d, .ok _ => landData s e dst d .arrived
  | .dirw dst d, .uncorrectable n => dirBad s e dst n dst (d.take 16)
  | .dirwWait dst, .uncorrectable n =>
    dirBad { s with dirWrites := s.dirWrites.filter (fun w => w.elem != e.id) } e dst n (dst + 16) []
  | _, _ => s

/-- Data read from a pseudo-channel whose last redundant lane has failed are uncorrectable (R502), and so are bursts stored as they
could not be corrected (R83, R151). -/
def readLanding (s : State) (a n : Nat) : Landing :=
  if rangeDead s a n then .uncorrectable 0
  else
    match (rawIn s a n).map (·.1) with
    | [] => .ok 0
    | x :: l => .uncorrectable (l.foldl min x - a)

/-- Data read from a store hold the words whose error is lasting (R166). -/
def storeLanding (bad : List Nat) (off n : Nat) (corrected : Nat) : Landing :=
  match badIn bad off n with
  | [] => .ok (min corrected (rangeWords [(off, n)]))
  | x :: l => .uncorrectable (l.foldl min x - off)

/-- A landing as the state of the memory and the stores makes it. -/
def landingOf (s : State) (e : Elem) (how : Landing) : Landing :=
  let at_ (src : ElemSrc) (n k : Nat) : Landing :=
    match src with
    | .node a => readLanding s a n
    | .tile off => storeLanding (tileOf s e.tile.val).bad off n k
    | .pod off => storeLanding (podOf s (podOfTile e.tile.val)).bad off n k
  match e.kind, how with
  | .load _ d src, .ok k => at_ src d.length k
  | .gather _ _ d src, .ok k => at_ src d.length k
  | .fetch _ _ d a none, .ok _ => readLanding s a d.length
  | _, .ok _ => .ok 0
  | _, _ => how

/-- The words that a landing's read of a store corrected (R166, R177). -/
def correctedIn : Landing → Nat
  | .ok k => k
  | _ => 0

/-- ASYNC_ELEMENT_LAND (R142, R202, R258): not while the element's access is held. -/
def execAsyncElementLand (id : Nat) (how : Landing) (s : State) : Host.Outcome State Fault Refusal :=
  .next (
    match elemOf s id with
    | some e =>
      if elemHeld s id then s
      else
        let l := landingOf s e how
        landElem (bumpBy s .sramCorr (correctedIn l)) e l
    | none => s)

/-! ### WAIT_DEADLINE_END (R162, R189, R190) -/

/-- A flash read that is still queued when its deadline tick ends is cancelled (R334). -/
def cancelQueued (s : State) (id : Nat) : State :=
  let hit (r : FRead) : Bool := r.why == .elem id && r.stage == .queued
  if s.fl.reads.any hit then
    bump { s with fl := { s.fl with reads := s.fl.reads.filter (fun r => !hit r) } } .flashCancel
  else s

/-- An outstanding element ends LATE. -/
def endLate (s : State) (e : Elem) : State := endElem (cancelQueued s e.id) e .late

/-- The end of the deadline tick of wait object `w`: outstanding elements end LATE, cells that have not come are LATE, tags
of its remote reads are free (R391), and an AWAIT that holds the tile completes (R190). -/
def deadlineEnd (s : State) (t : Fin 192) (w : Fin 64) : State :=
  let s1 := (s.elems.filter (fun e => e.tile == t && e.wait == w)).foldl endLate s
  let s2 : State := { s1 with fab := { s1.fab with tags := s1.fab.tags.filter (fun x => !(x.tile == t && x.wait == w)) } }
  let s3 := onWait s2 t w (fun o => { o with late := o.late + (o.exp - o.cells), final := true })
  onTile s3 t.val (fun x =>
    match x.awaiting with
    | some (d, pd, v) => if v = w then { awaitEnds (tickCycles s2) x d pd v with awaiting := none } else x
    | none => x)

/-- WAIT_DEADLINE_END (R189): due once for an armed wait object whose deadline tick has come. -/
def execWaitDeadlineEnd (t : Fin 192) (w : Fin 64) (s : State) : Host.Outcome State Fault Refusal :=
  .next (
    let o := waitOf s t w
    if o.armed && !o.final && decide (o.dl ≤ s.clk.tick) then deadlineEnd s t w else s)

end Sys2Proof.Machine
end

