-- ==== Sys2Proof/Machine/BeanIssue.lean ====
section
/-! DEFINITION. BISSUE: Bean command lists enter the controllers' queues (R154, R208 to R211). -/

namespace Sys2Proof.Machine

open Sys2Proof

/-- A Bean issue descriptor (R208). -/
structure IssueDesc where
  list : Nat
  start : Nat
  patchMax : Nat
  patchFirst : Nat
deriving DecidableEq, Repr

def issueDescOf (n : Nat) : IssueDesc := ⟨bitsOf n 112 16, bitsOf n 92 20, bitsOf n 84 8, bitsOf n 68 16⟩

/-- An entry of a Bean command list (R154), if its opcode is one of R124's. -/
structure ListEnt where
  issue : Nat
  bean : Nat
  op : BeanOp
  w : BeanWord
deriving DecidableEq, Repr

def listEntOf (n : Nat) : Option ListEnt :=
  (beanOpOf (bitsOf n 60 4)).map (fun op => ⟨bitsOf n 104 24, bitsOf n 91 13, op, beanWordOf (bitsOf n 0 64)⟩)

/-- Bytes of the data area that an entry takes (R209). -/
def dataBytes (e : ListEnt) : Nat :=
  match e.op with
  | .bldq => 32 * e.w.len.toNat
  | .bldw => 32 * e.w.len.toNat
  | .bldp => 64
  | .bldx => 64
  | _ => 0

/-- A patch entry (R210): skipped, bad, or the fields it sets. -/
inductive Patch where
  | keep
  | skip
  | bad (bean : Nat)
  | set (bean : Nat) (w : BeanWord)
deriving DecidableEq, Repr

/-- The patch word of a patchable entry applied and checked (R210): R123, R153, the presence of the Bean, and reserved
bits. -/
def patchOf (s : State) (e : ListEnt) (n : Nat) : Patch :=
  if bitOf n 0 = false then .skip
  else
    let bean := bitsOf n 35 13
    let w := { e.w with pairRow := BitVec.ofNat 16 (bitsOf n 19 16), off := BitVec.ofNat 6 (bitsOf n 13 6),
                        len := BitVec.ofNat 5 (bitsOf n 8 5) }
    if bitsOf n 48 16 ≠ 0 ∨ bitsOf n 1 7 ≠ 0 ∨ 6144 ≤ bean ∨ beanWordOk e.op w = false then .bad bean
    else if bit s.stk.beanOut bean ∨ bit s.stk.present bean = false then .bad bean
    else .set bean w

/-- The run of a BISSUE over its list. -/
structure IssueRun where
  st : State
  data : Nat
  brdl : Nat
  bad : List Nat
deriving DecidableEq, Repr

/-- What the commands of one BISSUE share. -/
structure IssueCtx where
  tile : Fin 192
  wait : Fin 64
  list : Nat
  start : Nat
  dataOff : Nat
  resOff : Nat
  snap : Option Nat
  refused : Bool
deriving DecidableEq, Repr

/-- A command joins its controller's queue. -/
def pushBean (s : State) (c : IssueCtx) (e : ListEnt) (bean : Nat) (w : BeanWord) (data : List Byte) (elem dst : Nat)
    (refused : Bool) : State :=
  let q : QueuedBean := ⟨c.list, c.start, e.issue, Fin.ofNat 6144 bean, e.op, w, data, c.tile, elem, dst, c.snap, refused⟩
  { s with stk := { s.stk with queue := s.stk.queue ++ [q] } }

/-- One entry of the list (R208 to R210, R271). -/
def issueEntry (c : IssueCtx) (r : IssueRun) (e : ListEnt) (p : Patch) : IssueRun :=
  let n := dataBytes e
  let d := srcRead r.st c.tile.val (c.dataOff + r.data) n
  let r1 := { r with data := r.data + n }
  match e.op with
  | .brdl =>
    let dst := c.resOff + 160 * r.brdl
    let hit := r.bad.contains e.bean
    let s1 := addElem r.st c.tile c.wait (.brdlWait dst c.list)
    { r1 with st := pushBean s1 c e e.bean e.w [] r.st.nextElem dst hit, brdl := r.brdl + 1,
              bad := r.bad.filter (· != e.bean) }
  | _ =>
    match p with
    | .keep => { r1 with st := pushBean r.st c e e.bean e.w d 0 0 (c.refused && e.op == .bscan) }
    | .skip => r1
    | .bad bean => { r1 with st := bump r.st .patchBad, bad := r.bad ++ [bean] }
    | .set bean w => { r1 with st := pushBean r.st c e bean w d 0 0 c.refused }

/-- Beans whose patched command was not sent and whose BRDL is not of this list wait for their next BRDL (R210). -/
def markBad (s : State) (l : List Nat) : State :=
  l.foldl (fun s b => if b < 6144 then onBean s b (fun x => { x with badPatch := true }) else s) s

/-- The entries of a list with their patches: patch p is of entry PATCH_FIRST + p (R210). -/
def patched (s : State) (t : Fin 192) (d : IssueDesc) (table : Nat) (l : List ListEnt) : List (ListEnt × Patch) :=
  (List.range l.length).filterMap (fun k =>
    (l[k]?).map (fun e =>
      if d.patchFirst ≤ k ∧ k < d.patchFirst + d.patchMax then
        (e, patchOf s e (leAt (srcRead s t.val (table + 8 * (k - d.patchFirst)) 8) 0 8))
      else (e, .keep)))

/-- The queues hold commands in the order of their issue times. -/
def sortQueue (s : State) : State :=
  let key (q : QueuedBean) : Nat := q.start * 320 + q.issue
  { s with stk := { s.stk with queue := sortBy (fun a b => decide (key a < key b)) s.stk.queue } }

/-- A SEARCH request's snapshot (R294). -/
def searchSnap (s : State) (t : Fin 192) : Option Nat :=
  match boundAdm s (tileOf s t.val), s.plan.active with
  | some a, some p => match p.pipes[a.req.pipe]? with | some q => if q.kind = 0 then some a.t else none | none => none
  | _, _ => none

/-- BISSUE of a list whose areas lie in the tile's data region (R208 to R210). -/
def bissueRun (s : State) (t : Fin 192) (d : IssueDesc) (l : List ListEnt) (a b c : Nat) (w : Fin 64) : State :=
  let x := tileOf s t.val
  let ctx : IssueCtx := ⟨t, w, s.stk.nextList, x.phaseTick + d.start, a, b, searchSnap s t, x.phaseRefused⟩
  let s0 : State := { s with stk := { s.stk with nextList := s.stk.nextList + 1 } }
  let r := (patched s t d c l).foldl (fun r ep => issueEntry ctx r ep.1 ep.2) ⟨s0, 0, 0, []⟩
  sortQueue (markBad r.st r.bad)

/-- BISSUE (R208): an area outside the tile's data region sends nothing, and each BRDL's element is REFUSED (log 17); a data area or
patch table that holds an uncorrectable word sends nothing, and each BRDL's element is UNREADABLE (R83, R166, log 16). -/
def bissueEff (s : State) (t : Fin 192) (d : IssueDesc) (ecc : Ecc) (a b c : Nat) (w : Fin 64) : State :=
  let l := ((s.plan.active.bind (fun p => p.lists[d.list]?)).getD []).filterMap (fun n => listEntOf n.toNat)
  let n := (l.map dataBytes).foldl (· + ·) 0
  let reads := (l.filter (fun e => e.op == .brdl)).length
  let ok (off len : Nat) : Bool := spanOk s t.val off len
  if ok a n && ok b (160 * reads) && ok c (8 * d.patchMax) then
    let (s1, clean) := tileReport s t [(a, n), (c, 8 * d.patchMax)] ecc
    if clean then bissueRun s1 t d l a b c w
    else (List.range reads).foldl (fun s _ => addEnded s t w .unreadable) s1
  else bump ((List.range reads).foldl (fun s _ => addEnded s t w .refused) s) .addrFault

/-- BISSUE (R208). -/
def execBissue (t : Fin 192) (g : Guard) (a b c : Fin 32) (i : Fin 1024) (w : Fin 64) (s : State) :
    Host.Outcome State Fault Refusal :=
  .next (issue s t g (.bissue t g a b c i w) (fun s1 =>
    let x := (tileOf s1 t.val).src.s
    bissueEff s1 t (issueDescOf (constOf s1 t.val i.val)) g.ecc (x[a]).toNat (x[b]).toNat (x[c]).toNat w))

end Sys2Proof.Machine
end

