-- ==== Sys2Proof/Machine/RegOps.lean ====
section
/-! DEFINITION. The registers of the functions: the BAR layout (R432, R433, R438), what a write of each register does
(R11 to R13), and WRITE_STATUS (R435). -/

namespace Sys2Proof.Machine

open Sys2Proof

/-! ### Where registers stand -/

/-- The registers of the physical function that R432 to R434 and R456 place, and those of the unit region. -/
inductive Reg where
  | nodeCap | nodeId | beanPresent | writeStatus | admCtl | dbgRow | mbxCmd | mbxGo | mbxState | mbxReply
  | beanOut | bootStatus | chg | cressCtl | cressStatus | epochStatus | evtBase | evtDoorbell | evtHead | evtRingCtl
  | evtTail | fabFence | flashGeom | ledger | memClass | memTrain | nextEpoch | planFault | planStatus | podClk
  | poolCtl | poolMap | portCtl | portStatus | pwrCap | pwrStatus | rehCtl | rehStart | remap | resetCause
  | stageCtl | tempStatus | textStatus | tickAlign | tickNow | tileFault | counter
deriving DecidableEq, Repr

/-- The unit registers in ascending ASCII order of name (R433): width in bytes and number of instances. -/
def unitRegs : List (Reg × Nat × Nat) :=
  [(.beanOut, 4, 192), (.bootStatus, 8, 1), (.chg, 64, 4096), (.cressCtl, 8, 1), (.cressStatus, 8, 1),
   (.epochStatus, 8, 1), (.evtBase, 8, 1), (.evtDoorbell, 8, 1), (.evtHead, 4, 1), (.evtRingCtl, 8, 1),
   (.evtTail, 4, 1), (.fabFence, 4, 1), (.flashGeom, 8, 1), (.ledger, 8, 1024), (.memClass, 4, 1), (.memTrain, 4, 1),
   (.nextEpoch, 8, 1), (.planFault, 8, 1), (.planStatus, 8, 1), (.podClk, 2, 1), (.poolCtl, 8, 1), (.poolMap, 8, 1),
   (.portCtl, 4, 6), (.portStatus, 8, 6), (.pwrCap, 4, 1), (.pwrStatus, 8, 1), (.rehCtl, 8, 1), (.rehStart, 8, 1),
   (.remap, 8, 32768), (.resetCause, 1, 1), (.stageCtl, 8, 1), (.tempStatus, 8, 1), (.textStatus, 4, 1),
   (.tickAlign, 4, 1), (.tickNow, 8, 1), (.tileFault, 4, 7)]

/-- The next multiple of a width. -/
def alignUp (a w : Nat) : Nat := (a + w - 1) / w * w

/-- Each unit register at the next multiple of its width (R433): name, offset, width, instances. -/
def unitLayout : Nat → List (Reg × Nat × Nat) → List (Reg × Nat × Nat × Nat)
  | _, [] => []
  | a, (r, w, n) :: l => (r, alignUp a w, w, n) :: unitLayout (alignUp a w + w * n) l

/-- The layout of the physical function's BAR0 (R432 to R434, R456). -/
def pfLayout : List (Reg × Nat × Nat × Nat) :=
  [(.nodeCap, 0, 8, 1), (.nodeId, 8, 8, 1), (.beanPresent, 0x100, 4, 192), (.writeStatus, 0x1000, 8, 1),
   (.admCtl, 0x1008, 8, 1), (.dbgRow, 0x1010, 4, 1), (.mbxCmd, 0x10000, 8, 8), (.mbxGo, 0x10040, 4, 1),
   (.mbxState, 0x10048, 8, 1), (.mbxReply, 0x10050, 8, 4), (.counter, 0x40000, 4, 96)] ++ unitLayout 0x100000 unitRegs

/-- The register whose bytes start at an offset: register, instance, width. -/
def regAt (off : Nat) : Option (Reg × Nat × Nat) :=
  (pfLayout.find? (fun x => decide (x.2.1 ≤ off) && decide (off < x.2.1 + x.2.2.1 * x.2.2.2))).bind (fun x =>
    let d := off - x.2.1
    if d % x.2.2.1 = 0 then some (x.1, d / x.2.2.1, x.2.2.1) else none)

/-- Whether a register has no writable field, every field RO or RC: it takes no write (R11, R12). -/
def takesNoWrite (r : Reg) : Bool :=
  match r with
  | .nodeCap | .nodeId | .beanPresent | .writeStatus | .mbxState | .mbxReply | .bootStatus | .chg | .cressStatus | .epochStatus
  | .evtTail | .flashGeom | .ledger | .memClass | .nextEpoch | .planFault | .planStatus | .podClk | .portStatus | .pwrStatus
  | .remap | .resetCause | .tempStatus | .textStatus | .tickAlign | .tickNow | .counter => true
  | _ => false

/-- The register some byte of which stands at an offset. -/
def regCovering (off : Nat) : Option Reg :=
  (pfLayout.find? (fun x => decide (x.2.1 ≤ off) && decide (off < x.2.1 + x.2.2.1 * x.2.2.2))).map (·.1)

/-- The offset of a register (its first instance). -/
def regOffset (r : Reg) : Nat := ((pfLayout.find? (fun x => x.1 == r)).map (·.2.1)).getD 0

/-! ### WRITE_STATUS (R435) -/

/-- A rejected write is recorded (R13, R435). -/
def noteReject (w : WriteStatus) (off : Nat) (st : BitVec 8) : WriteStatus :=
  if w.valid then { w with more := true } else ⟨true, false, st, BitVec.ofNat 32 off⟩

def rejectWrite (s : State) (fn off : Nat) (st : BitVec 8) : State :=
  onFunc s fn (fun f => { f with ws := noteReject f.ws off st })

/-- The outcome of a write: a state, or the status that rejects it. -/
abbrev Wr := Except (BitVec 8) State

/-- A write settled: a rejected one changes nothing but WRITE_STATUS (R13). -/
def settle (s : State) (fn off : Nat) (w : Wr) : State :=
  match w with
  | .ok s1 => s1
  | .error st => rejectWrite s fn off st

/-- A write that is rejected with a status unless a condition holds. -/
def need (c : Bool) (st : BitVec 8) (w : Wr) : Wr := if c then w else .error st

/-! ### Queue registers (R439, R440) -/

/-- SQ_TAIL (R439). -/
def wrSqTail (s : State) (fn v : Nat) : Wr :=
  let f := funcOf s fn
  let n : BitVec 9 := BitVec.ofNat 9 v
  need (decide (v < 512)) stBadField
    (need (decide ((f.sqTail - f.sqHead).toNat ≤ (n - f.sqHead).toNat)) stBadField
      (.ok (onFunc s fn (fun f => { f with sqTail := n }))))

/-- CQ_BASE (R439). -/
def wrCqBase (s : State) (fn v : Nat) : Wr :=
  need (v % 4096 == 0) stBadField
    (need (!(funcOf s fn).en) stBadField (.ok (onFunc s fn (fun f => { f with cqBase := BitVec.ofNat 64 v }))))

/-- CQ_HEAD (R439): cyclically from the old HEAD to CQ_TAIL. -/
def wrCqHead (s : State) (fn v : Nat) : Wr :=
  let f := funcOf s fn
  let n := 2 ^ f.log2.toNat
  need (decide (v < 65536) && decide (v < n)) stBadField
    (need (decide ((v + n - f.cqHead.toNat) % n ≤ (f.cqTail.toNat + n - f.cqHead.toNat) % n)) stBadField
      (.ok (onFunc s fn (fun f => { f with cqHead := BitVec.ofNat 16 v }))))

/-- Consumed requests remain incomplete after EN was cleared (R439). -/
def drainingFn (f : Func) : Bool := !f.en && decide (0 < f.open_)

/-- CQ_CTL (R439, R440): setting EN starts the rings afresh; clearing it stops consumption; FAULT is cleared by writing 1. -/
def wrCqCtl (s : State) (fn v : Nat) : Wr :=
  let f := funcOf s fn
  let en := bitOf v 63
  let lg := bitsOf v 0 5
  need (bitsOf v 5 56 == 0) stBadField
    (need (decide (4 ≤ lg) && decide (lg ≤ 16) && (!f.en || lg == f.log2.toNat)) stBadField
      (need (!(bitOf v 61 && f.en)) stBadField
        (need (!(en && drainingFn f)) stQueueFull
          (.ok (onFunc s fn (fun f =>
            let g := { f with en := en, log2 := BitVec.ofNat 5 lg, fault := f.fault && !bitOf v 61 }
            if en && !f.en then
              { g with sqHead := f.sqTail, sqSeen := f.sqTail, cqSeen := 0, cqHead := 0, cqTail := 0, phase := true }
            else g))))))

/-- Bytes of a submission-ring write that fall into one slot. -/
def ringPart (rel : Nat) (d : List Byte) (slot : Nat) (old : BitVec 512) : BitVec 512 :=
  let a := max rel (64 * slot)
  let b := min (rel + d.length) (64 * slot + 64)
  BitVec.ofNat 512 (leNat (splice (leBytes 64 old.toNat) (a - 64 * slot) ((d.drop (a - rel)).take (b - a))))

/-- A write of the submission ring (R438, R439): slots from SQ_HEAD to SQ_TAIL - 1 belong to the node. -/
def wrRing (s : State) (fn rel : Nat) (d : List Byte) : Wr :=
  let f := funcOf s fn
  let slots := (List.range ((rel + d.length - 1) / 64 + 1 - rel / 64)).map (· + rel / 64)
  let held := (f.sqTail - f.sqHead).toNat
  need (!slots.any (fun i => decide ((BitVec.ofNat 9 i - f.sqHead).toNat < held))) stNoRights
    (.ok (onFunc s fn (fun f =>
      { f with ring := slots.foldl (fun r i => tput 0 r i (ringPart rel d i (tget 0 r i))) f.ring })))

/-- The queue registers that take no write (R11, R439), as ranges of offsets: FUNC_ID, WRITE_STATUS, SQ_HEAD, CQ_TAIL, Q_COUNT. -/
def queueNoWrite (rel : Nat) : Bool := decide (rel < 0x10) || (decide (0x18 ≤ rel) && decide (rel < 0x20)) || (decide (0x38 ≤ rel) && decide (rel < 0x48))

/-- A write of a function's queue space (R438, R439). A register takes its whole 8 bytes, or 4 where its table lists no bit
above 31; one that takes no write keeps its value whatever the write's width (R11, R12). -/
def wrQueue (s : State) (fn rel : Nat) (d : List Byte) : Wr :=
  let v := leNat d
  let n := d.length
  if 0x8000 ≤ rel then need (decide (rel + n ≤ 0x10000)) stBadField (wrRing s fn (rel - 0x8000) d)
  else if queueNoWrite rel then .ok s
  else
    let short := n == 8 || n == 4
    match rel with
    | 0x10 => need short stBadField (wrSqTail s fn v)
    | 0x20 => need (n == 8) stBadField (wrCqBase s fn v)
    | 0x28 => need (n == 8) stBadField (wrCqCtl s fn v)
    | 0x30 => need short stBadField (wrCqHead s fn v)
    | _ => .error stBadField

/-! ### Registers of the physical function -/

/-- An RWL field (R11): from plan-ready on, a write that would change it is rejected. -/
def lockedOk (s : State) (same : Bool) : Bool := !s.plan.ready || same

/-- ADM_CTL (R454). -/
def wrAdmCtl (s : State) (v : Nat) : Wr :=
  need (bitsOf v 48 14 == 0 && bitsOf v 0 32 == 0) stBadField
    (.ok { s with host := { s.host with admNext := some (BitVec.ofNat 2 (bitsOf v 62 2), BitVec.ofNat 16 (bitsOf v 32 16)) } })

/-- DBG_ROW (R437). -/
def wrDbgRow (s : State) (v : Nat) : Wr :=
  need (decide (v < 536870912) && decide (v + 32768 ≤ memRows)) stBadField
    (.ok { s with host := { s.host with dbgNext := some (BitVec.ofNat 29 v) } })

/-- MBX_CMD (R456). -/
def wrMbxCmd (s : State) (i v : Nat) : Wr :=
  need (!s.host.mbx.busy) stQueueFull
    (.ok { s with host := { s.host with mbx := { s.host.mbx with
      cmd := BitVec.ofNat 512 (leNat (splice (leBytes 64 s.host.mbx.cmd.toNat) (8 * i) (leBytes 8 v))) } } })

/-- MBX_GO (R456). -/
def wrMbxGo (s : State) (v : Nat) : Wr :=
  need (decide (v < 2)) stBadField
    (need (!(v == 1 && s.host.mbx.busy)) stQueueFull
      (.ok (if v = 1 then { s with host := { s.host with mbx := { s.host.mbx with busy := true } } } else s)))

/-- BEAN_OUT_i (R153): each 1 readmits its Bean at the next boundary. -/
def wrBeanOut (s : State) (i v : Nat) : Wr :=
  let m : BitVec 6144 := BitVec.ofNat 6144 (v % 4294967296 * 2 ^ (32 * i))
  .ok { s with stk := { s.stk with readmit := s.stk.readmit ||| (m &&& s.stk.beanOut) } }

/-- CRESS_CTL (R336). A write that both carries an illegal field and would change a locked one is answered BAD_FIELD, here and in
POOL_CTL and STAGE_CTL: the spec gives no order (DESIGN CHOICE, log 147). -/
def wrCressCtl (s : State) (v : Nat) : Wr :=
  let slc := bitsOf v 60 4
  let gc := bitsOf v 20 11
  let pw := bitsOf v 0 8
  need (decide (2 ≤ slc) && decide (slc ≤ 6) && decide (2 ≤ gc) && decide (gc ≤ 2039) && decide (1 ≤ pw)) stBadField
    (need (lockedOk s (slc == s.fl.slcPct.toNat)) stNoRights
      (.ok { s with fl := { s.fl with
        slcPct := BitVec.ofNat 4 slc, wInv := BitVec.ofNat 8 (bitsOf v 52 8), wAge := BitVec.ofNat 8 (bitsOf v 44 8),
        wWear := BitVec.ofNat 8 (bitsOf v 36 8), ageShift := BitVec.ofNat 5 (bitsOf v 31 5), gcLow := BitVec.ofNat 11 gc,
        overhead := BitVec.ofNat 12 (bitsOf v 8 12), packWait := BitVec.ofNat 8 pw } }))

/-- EVT_BASE (R479). -/
def wrEvtBase (s : State) (v : Nat) : Wr :=
  need (v % 4096 == 0 && !s.evt.en) stBadField (.ok { s with evt := { s.evt with base := BitVec.ofNat 64 v } })

/-- EVT_RING_CTL (R479). -/
def wrEvtRingCtl (s : State) (v : Nat) : Wr :=
  let lg := bitsOf v 0 4
  let en := bitOf v 63
  need (bitsOf v 4 59 == 0 && decide (4 ≤ lg) && (!s.evt.en || lg == s.evt.log2.toNat)) stBadField
    (.ok (let e := { s.evt with en := en, log2 := BitVec.ofNat 4 lg }
          { s with evt := if en && !s.evt.en then { e with tail := 0, phase := true } else e }))

/-- EVT_HEAD (R479). -/
def wrEvtHead (s : State) (v : Nat) : Wr :=
  let n := 2 ^ s.evt.log2.toNat
  need (decide (v < 65536) && decide (v < n)) stBadField
    (need (decide ((v + n - s.evt.head.toNat % n) % n ≤ (s.evt.tail.toNat + n - s.evt.head.toNat % n) % n)) stBadField
      (.ok { s with evt := { s.evt with head := BitVec.ofNat 16 v } }))

/-- EVT_DOORBELL (R474, R479): posts a software source. -/
def wrEvtDoorbell (s : State) (v : Nat) : Wr :=
  need (bitsOf v 9 7 == 0) stBadField
    (need (decide (448 ≤ bitsOf v 0 9)) stNoRights (.ok (raiseEvent s (bitsOf v 0 9) (bitsOf v 16 48))))

/-- A pair whose ports are absent (R362). -/
def pairAbsent (s : State) (pair : Fin 3) : Bool := s.fab.ports[portPlus pair].state == .absent

/-- FAB_FENCE (R364): 1 closes a pair's bypass, 0 asks to open it. -/
def wrFence (s : State) (v : Nat) : Wr :=
  need (bitsOf v 12 20 == 0 && bitsOf v 3 3 == 0) stBadField
    (need (allPairs.all (fun p => bitOf v p.val || !pairAbsent s p)) stBadField
      (.ok (allPairs.foldl (fun s p => if bitOf v p.val then fencePair s p else unfencePair s p) s)))

/-- MEM_TRAIN (R503). -/
def wrMemTrain (s : State) (v : Nat) : Wr :=
  need (bitsOf v 9 7 == 0 && decide (0 < bitsOf v 16 16)) stBadField
    (.ok { s with stk := { s.stk with memRetryMax := BitVec.ofNat 16 (bitsOf v 16 16) } })

/-- POOL_CTL (R398). -/
def wrPoolCtl (s : State) (v : Nat) : Wr :=
  let base := bitsOf v 35 29
  let rows := bitsOf v 6 29
  let lg := bitsOf v 3 3
  let blockRows := 16 * 2 ^ lg
  need (bitsOf v 0 3 == 0 && lg != 7) stBadField
    (need (rows == 0 || (rows % blockRows == 0 && decide (2048 ≤ rows / blockRows) && decide (base + rows ≤ memRows)))
      stBadField
      (need (regionOk s .pool (base * 1024, rows * 1024)) stBadField
        (need (lockedOk s (base == s.pool.base && rows == s.pool.rows && lg == s.pool.blockLog2.toNat)) stNoRights
          (.ok { s with pool := { s.pool with base := base, rows := rows, blockLog2 := BitVec.ofNat 3 lg } }))))

/-- POOL_MAP (R403). -/
def wrPoolMap (s : State) (v : Nat) : Wr :=
  .ok { s with pool := { s.pool with
    mapValid := BitVec.ofNat 4 (bitsOf v 60 4),
    cands := [45, 30, 15, 0].map (fun lo => BitVec.ofNat 15 (bitsOf v lo 15)) } }

/-- PORT_CTL_p (R396). -/
def wrPortCtl (s : State) (i v : Nat) : Wr :=
  let p : Fin 6 := Fin.ofNat 6 i
  need (s.fab.ports[p].state != .absent) stUnitAbsent
    (need (bitsOf v 0 16 == 0 && decide (0 < bitsOf v 16 16)) stBadField
      (.ok (onPort s p (fun x => { x with retryMax := BitVec.ofNat 16 (bitsOf v 16 16) }))))

/-- PWR_CAP (R470). -/
def capLegal (s : State) (w : Nat) : Bool := w == 0 || (decide (200 ≤ w) && decide (w ≤ s.aon.powerLimit.toNat))

def wrPwrCap (s : State) (v : Nat) : Wr :=
  need (bitsOf v 16 16 == 0 && capLegal s (bitsOf v 0 16)) stBadField
    (.ok { s with pow := { s.pow with capW := BitVec.ofNat 16 v } })

/-- STAGE_CTL (R305). -/
def wrStageCtl (s : State) (v : Nat) : Wr :=
  let base := bitsOf v 35 29
  let rows := bitsOf v 6 29
  need (bitsOf v 0 6 == 0 && decide (rows + base ≤ memRows)) stBadField
    (need (regionOk s .staging (base * 1024, rows * 1024)) stBadField
      (need (lockedOk s (base == s.upd.stageBase && rows == s.upd.stageRows)) stNoRights
        (.ok { s with upd := { s.upd with stageBase := base, stageRows := rows } })))

/-- TILE_FAULT_i (R176). -/
def wrTileFault (s : State) (i v : Nat) : Wr :=
  if i < 6 then .ok { s with tileFault := s.tileFault &&& ~~~(BitVec.ofNat 192 (v % 4294967296 * 2 ^ (32 * i))) }
  else need (decide (v < 256)) stBadField (.ok { s with podFault := s.podFault &&& ~~~(BitVec.ofNat 8 v) })

/-! ### Rehearsals (R423, R424) -/

/-- Whether a unit that a rehearsal names exists: none when the target is out of range. -/
def rehTargetStatus (s : State) (kind target : Nat) : BitVec 8 :=
  match kind with
  | 0 => stDone
  | 1 => if target = 0 then stDone else stBadField
  | 2 => if target ≤ 2 then (if pairAbsent s (Fin.ofNat 3 target) then stUnitAbsent else stDone) else stBadField
  | 3 => if target < 6144 then (if bit s.stk.present target then stDone else stUnitAbsent) else stBadField
  | 4 => if target = 0 then stDone else stBadField
  | 5 => if target < 6144 then (if bit s.stk.present target then stDone else stUnitAbsent) else stBadField
  | 6 => if target < 512 then (if s.fl.usable.contains (16 * (target / 256) + target % 16) then stDone else stUnitAbsent) else stBadField
  | 7 => if target < 6 then (if s.fab.ports[(Fin.ofNat 6 target)].state == .absent then stUnitAbsent else stDone) else stBadField
  | _ => stBadField

def msgRehearsal : Nat := 9

/-- An armed rehearsal is sent to the steward (R425). -/
def announceRehearsal (s : State) : State :=
  let a := s.mach.rehStart.toNat
  let b := if s.mach.rehKind = 1 then openWindow else a + s.mach.rehLen.toNat - 1
  if s.mach.role = .steward then { s with mach := { s.mach with windows := s.mach.windows ++ [(a, b, s.aon.nodeId)] } }
  else sendMsg s s.mach.steward msgRehearsal (leBytes 8 a ++ leBytes 8 b)

/-- REH_CTL (R423). -/
def wrRehCtl (s : State) (v : Nat) : Wr :=
  let len := bitsOf v 32 32
  let kind := bitsOf v 28 4
  let target := bitsOf v 13 15
  let m := { s.mach with rehLen := BitVec.ofNat 32 len, rehKind := BitVec.ofNat 4 kind, rehTarget := BitVec.ofNat 15 target }
  let s1 : State := { s with mach := m }
  need (bitsOf v 2 11 == 0) stBadField
    (if bitOf v 1 then
      need (decide (s.clk.tick + 2048 ≤ s.mach.rehStart.toNat) && decide (0 < len) && !s.mach.rehArmed) stBadField
        (need (rehTargetStatus s kind target == stDone) (rehTargetStatus s kind target)
          (.ok (announceRehearsal { s1 with mach := { m with rehArmed := true } })))
    else .ok s1)

/-- REH_START (R423). -/
def wrRehStart (s : State) (v : Nat) : Wr := .ok { s with mach := { s.mach with rehStart := BitVec.ofNat 64 v } }

/-! ### A write by offset (R432) -/

/-- The write of a register of the physical function. One whose fields are all RO or RC takes no write (R11, R12). -/
def wrReg (s : State) (r : Reg) (i v : Nat) : Wr :=
  match r with
  | .admCtl => wrAdmCtl s v
  | .dbgRow => wrDbgRow s v
  | .mbxCmd => wrMbxCmd s i v
  | .mbxGo => wrMbxGo s v
  | .beanOut => wrBeanOut s i v
  | .cressCtl => wrCressCtl s v
  | .evtBase => wrEvtBase s v
  | .evtDoorbell => wrEvtDoorbell s v
  | .evtHead => wrEvtHead s v
  | .evtRingCtl => wrEvtRingCtl s v
  | .fabFence => wrFence s v
  | .memTrain => wrMemTrain s v
  | .poolCtl => wrPoolCtl s v
  | .poolMap => wrPoolMap s v
  | .portCtl => wrPortCtl s i v
  | .pwrCap => wrPwrCap s v
  | .rehCtl => wrRehCtl s v
  | .rehStart => wrRehStart s v
  | .stageCtl => wrStageCtl s v
  | .tileFault => wrTileFault s i v
  | _ => .ok s

/-- Whether the host reaches the node (R484, R495, R517): out of reset and past stage FIRMWARE, or stopped there by the
rail check. -/
def pcieUp (s : State) : Bool :=
  s.aon.powered && !s.aon.inReset && !s.aon.halted && s.aon.stage != .rom
  && (s.aon.stage != .firmware || s.aon.fail != 0)

/-- What a host's access does, where it reaches the node. -/
def hostDoes (s : State) (f : State → State) : State := if pcieUp s then f s else s

/-- A write of the physical function's BAR0 (R11, R12, R432, R437): its queue block, the debug window, a register that takes no write,
or one covered whole. -/
def wrPf (s : State) (off : Nat) (d : List Byte) : Wr :=
  if 0x20000 ≤ off ∧ off < 0x30000 then wrQueue s 0 (off - 0x20000) d
  else if 0x2000000 ≤ off then .error stNoRights
  else if (regCovering off).any takesNoWrite then .ok s
  else
    match regAt off with
    | none => .error stBadField
    | some (r, i, w) => need (d.length == w || (r == .mbxGo && d.length == 8)) stBadField (wrReg s r i (leNat d))

/-- A write of a function's space. -/
def wrSpace (s : State) (fn off : Nat) (d : List Byte) : Wr :=
  if fn = 0 then wrPf s off d else if off < 0x10000 then wrQueue s fn off d else .error stBadField

/-- The register that a special row writes, with its value: rejected writes name the register's own offset. -/
def regWrite (s : State) (r : Reg) (v : Nat) : State := settle s 0 (regOffset r) (wrReg s r 0 v)

/-- A queue register written by offset within the queue space; for function 0, WRITE_STATUS names the offset in BAR0. -/
def queueWrite (s : State) (fn rel v : Nat) : State :=
  settle s fn (if fn = 0 then 0x20000 + rel else rel) (wrQueue s fn rel (leBytes 8 v))

end Sys2Proof.Machine
end

