-- ==== Sys2Proof/Machine/Ed25519.lean ====
section
/-! DEFINITION. Ed25519 (RFC 8032), which the boot chain (R487, R493), firmware staging (R506) and attestation (R504)
name. The curve, the encodings and the equations are the RFC's; verification takes the equation without the cofactor,
which the RFC allows (log 12). -/

namespace Sys2Proof.Machine

open Sys2Proof

def edP : Nat := 2 ^ 255 - 19
def edL : Nat := 2 ^ 252 + 27742317777372353535851937790883648493

/-- b^e modulo p, over `n` bits of e from the top. -/
def edPow (b e : Nat) : Nat → Nat
  | 0 => 1
  | n + 1 =>
    let r := edPow b (e / 2) n
    r * r * (if e % 2 = 1 then b else 1) % edP

def edInv (a : Nat) : Nat := edPow a (edP - 2) 256

def edD : Nat := (edP - 121665) * edInv 121666 % edP

def edSub (a b : Nat) : Nat := (a + edP - b % edP) % edP

/-- A point in extended coordinates. -/
structure EdPoint where
  x : Nat
  y : Nat
  z : Nat
  t : Nat
deriving DecidableEq, Repr

def edZero : EdPoint := ⟨0, 1, 1, 0⟩

/-- Addition on the curve (RFC 8032 section 5.1.4). -/
def edAdd (p q : EdPoint) : EdPoint :=
  let a := edSub p.y p.x * edSub q.y q.x % edP
  let b := (p.y + p.x) * (q.y + q.x) % edP
  let c := 2 * p.t * q.t % edP * edD % edP
  let d := 2 * p.z * q.z % edP
  let e := edSub b a
  let f := edSub d c
  let g := (d + c) % edP
  let h := (b + a) % edP
  ⟨e * f % edP, g * h % edP, f * g % edP, e * h % edP⟩

/-- k times a point, over `n` bits of k from the top. -/
def edMul (k : Nat) (p : EdPoint) : Nat → EdPoint
  | 0 => edZero
  | n + 1 =>
    let r := edMul (k / 2) p n
    let d := edAdd r r
    if k % 2 = 1 then edAdd d p else d

def edSame (p q : EdPoint) : Bool :=
  p.x * q.z % edP == q.x * p.z % edP && p.y * q.z % edP == q.y * p.z % edP

/-- The x coordinate of a point of y coordinate `y` and sign bit `s`, if there is one (section 5.1.3). -/
def edRecoverX (y s : Nat) : Option Nat :=
  if y ≥ edP then none
  else
    let u := edSub (y * y) 1
    let v := (edD * (y * y % edP) + 1) % edP
    let x2 := u * edInv v % edP
    if x2 = 0 then (if s = 1 then none else some 0)
    else
      let x := edPow x2 ((edP + 3) / 8) 256
      let x := if x * x % edP = x2 then x else x * edPow 2 ((edP - 1) / 4) 256 % edP
      if x * x % edP ≠ x2 then none
      else some (if x % 2 = s then x else edP - x)

def edDecode (b : List Byte) : Option EdPoint :=
  let n := leNat b
  let y := n % 2 ^ 255
  match edRecoverX y (n / 2 ^ 255 % 2) with
  | none => none
  | some x => some ⟨x, y, 1, x * y % edP⟩

def edEncode (p : EdPoint) : List Byte :=
  let zi := edInv p.z
  let x := p.x * zi % edP
  let y := p.y * zi % edP
  leBytes 32 (y + (x % 2) * 2 ^ 255)

/-- The base point. -/
def edBase : EdPoint :=
  match edRecoverX (4 * edInv 5 % edP) 0 with
  | some x => ⟨x, 4 * edInv 5 % edP, 1, x * (4 * edInv 5 % edP) % edP⟩
  | none => edZero

/-- The scalar and the prefix of a 32-byte secret key. -/
def edExpand (secret : List Byte) : Nat × List Byte :=
  let h := sha512 secret
  let a := leNat (h.take 32)
  (a % 2 ^ 254 / 8 * 8 + 2 ^ 254, h.drop 32)

def edPublic (secret : List Byte) : List Byte := edEncode (edMul (edExpand secret).1 edBase 256)

/-- The 64-byte signature of a message. -/
def edSign (secret msg : List Byte) : List Byte :=
  let (a, pre) := edExpand secret
  let pub := edEncode (edMul a edBase 256)
  let r := leNat (sha512 (pre ++ msg)) % edL
  let rp := edEncode (edMul r edBase 256)
  let k := leNat (sha512 (rp ++ pub ++ msg)) % edL
  rp ++ leBytes 32 ((r + k * a) % edL)

/-- Whether a signature verifies. -/
def edVerify (pub msg sig : List Byte) : Bool :=
  if pub.length ≠ 32 ∨ sig.length ≠ 64 then false
  else
    match edDecode pub, edDecode (sig.take 32) with
    | some a, some r =>
      let s := leNat (sig.drop 32)
      let k := leNat (sha512 (sig.take 32 ++ pub ++ msg)) % edL
      decide (s < edL) && edSame (edMul s edBase 256) (edAdd r (edMul k a 256))
    | _, _ => false

end Sys2Proof.Machine
end

