-- ==== Sys2Proof/Machine/ResetOps.lean ====
section
/-! DEFINITION. The whole-node reset (R18, R484, R515, R519), and the records of the boot flash (R486 to R488, R493). -/

namespace Sys2Proof.Machine

open Sys2Proof

/-! ### Resets -/

/-- A bypass as a reset leaves it (R18, R364): closed, or closing when it was not. -/
def resetByp (b : BypState) : BypState := if b = .closed then .closed else .closing

/-- The always-on domain as a reset leaves it (R484): what it keeps, and the cause. The straps sampled at power-on (R521),
the reset inputs and BF_OWN are not the node's to change, the boot flash is outside it, the slot named by FW_SELECT
outlives the reset it asks for (R496), and the sideband answers throughout (R481). -/
def resetAon (a : Aon) (c : Cause) : Aon :=
  { Aon.reset with
      powered := a.powered, resetN := a.resetN, perstN := a.perstN, bfOwn := a.bfOwn, bfBoard := a.bfBoard, cause := c,
      smbAddr := a.smbAddr, nodeId := a.nodeId, oscLocked := a.oscLocked, sensC := a.sensC, sensIo := a.sensIo,
      sensMem := a.sensMem, seed := a.seed, flash := a.flash, fwFirst := a.fwFirst, smbReply := a.smbReply,
      hold := a.hold, tripN := a.tripN }

/-- The fabric as a reset leaves it: every FENCE bit set, every bypass closing, every port DOWN (R18, R484). -/
def resetFabric (f : Fabric) : Fabric := { Fabric.reset with byp := f.byp.map resetByp }

/-- Cress keeps its block table over a reset, and nothing else (R319). -/
def resetFlash (f : Flash) : Flash := { Flash.reset with blockTab := f.blockTab, retiredCnt := f.retiredCnt }

/-- The whole node resets, with a cause (R484). The commands that wait, and what has left the node, are not the node's
state. -/
def resetNode (s : State) (c : Cause) : State :=
  { State.reset with
      pending := s.pending, free := s.free, io := s.io, aon := resetAon s.aon c, fab := resetFabric s.fab,
      fl := resetFlash s.fl }

/-- The node has left reset and runs. -/
def nodeRuns (s : State) : Bool := s.aon.powered && !s.aon.inReset

/-- Whether nothing holds the node in reset (R519, R520, R468). -/
def mayLeaveReset (a : Aon) : Bool := a.powered && a.inReset && a.resetN && a.perstN && !a.bfOwn && !a.hold

/-- The node leaves reset where nothing holds it, and samples its NODE_ID straps (R519, R521). -/
def leaveReset (s : State) (straps : NodeId) : State :=
  if mayLeaveReset s.aon then
    { s with aon := { s.aon with inReset := false, nodeId := straps, stage := .rom, wdog := 0 } }
  else s

/-- The node is at READY (R495). -/
def atReady (s : State) : Bool := nodeRuns s && s.aon.stage == .ready

/-! ### Records (R486 to R488) -/

/-- A record's header, and its body. -/
structure BootHead where
  sig : List Byte
  signer : List Byte
  keyIndex : Nat
  type : Nat
  version : BitVec 32
  length : Nat
  deviceId : BitVec 128
  reserved : Nat
  format : Nat
deriving DecidableEq, Repr

/-- The fields of R486, bit 0 the least of byte 0. -/
def bootHeadOf (b : List Byte) : BootHead :=
  { sig := slice b 64 64, signer := slice b 32 32, keyIndex := leAt b 31 1, type := leAt b 30 1,
    version := BitVec.ofNat 32 (leAt b 26 4), length := leAt b 22 4, deviceId := BitVec.ofNat 128 (leAt b 6 16),
    reserved := leAt b 2 4, format := leAt b 0 2 }

/-- The header's bytes 0 to 63. -/
def bootHeadLow (h : BootHead) : List Byte :=
  leBytes 2 h.format ++ leBytes 4 h.reserved ++ leBytes 16 h.deviceId.toNat ++ leBytes 4 h.length
  ++ leBytes 4 h.version.toNat ++ leBytes 1 h.type ++ leBytes 1 h.keyIndex ++ h.signer

/-- The body that a record's LENGTH names. -/
def recBody (b : List Byte) : List Byte := slice b 128 (bootHeadOf b).length

/-- MEAS of a record (R487). -/
def recMeas (b : List Byte) : List Byte := sha512 (b.take 64 ++ recBody b)

/-- The header rules of R486 for a record of one type, and the record holds the body it announces. -/
def headOk (type : Nat) (b : List Byte) : Bool :=
  let h := bootHeadOf b
  decide (128 ≤ b.length) && h.format == 1 && h.reserved == 0 && h.type == type
  && decide (1 ≤ h.length) && decide (h.length ≤ 16777216) && decide (128 + h.length ≤ b.length)
  && (h.keyIndex == 0 || h.keyIndex == 1 || (h.keyIndex == 0xFF && type == 7))

/-- A record signed with a vendor root key (R487). -/
def rootSigned (b : List Byte) : Bool :=
  let h := bootHeadOf b
  (h.keyIndex == 0 || h.keyIndex == 1) && sha512Word h.signer == Config.rootHash (h.keyIndex == 1)
  && edVerify h.signer (recMeas b) h.sig

/-- A record signed with the device key (R487, R493): TRAIN records alone. -/
def deviceSigned (pub : BitVec 256) (b : List Byte) : Bool :=
  let h := bootHeadOf b
  h.keyIndex == 0xFF && h.signer == leBytes 32 pub.toNat && edVerify h.signer (0xA2#8 :: recMeas b) h.sig

/-- DEVICE_ID is the device's own, or zero in a FIRMWARE record (R487). -/
def deviceOk (dev : BitVec 128) (type : Nat) (b : List Byte) : Bool :=
  let d := (bootHeadOf b).deviceId
  if type = 6 then d == 0 else d == dev

/-- A record of types 1 to 6 is accepted (R487, R488). -/
def recAccepted (dev : BitVec 128) (type : Nat) (b : List Byte) : Bool :=
  headOk type b && rootSigned b && deviceOk dev type b

/-! ### The directory -/

/-- The entries of the directory (64 at most) of one type. -/
def recsOf (s : State) (type : Nat) : List BootRec := (s.aon.flash.take 64).filter (fun r => r.type.toNat == type)

/-- The record that a type is present with exactly once (R489). -/
def onlyRec (s : State) (type : Nat) : Option (List Byte) :=
  match recsOf s type with
  | [r] => some r.bytes
  | _ => none

/-- The FIRMWARE record of a slot. -/
def fwRec (s : State) (slot : Bool) : Option (List Byte) :=
  ((recsOf s 6).find? (fun r => r.slot.toNat == b2n slot)).map (·.bytes)

/-- A record put into the boot flash in place of the entry of its type and slot, or in a new entry. -/
def putRec (s : State) (r : BootRec) : State :=
  let keep := s.aon.flash.filter (fun x => !(x.type == r.type && x.slot == r.slot))
  { s with aon := { s.aon with flash := keep ++ [r] } }

def dropRecs (s : State) (type : Nat) : State :=
  { s with aon := { s.aon with flash := s.aon.flash.filter (fun x => x.type.toNat != type) } }

/-! ### Keys (R491, R493) -/

/-- The device's secret key from its seed. -/
def secretOf (seed : BitVec 256) : List Byte := (sha512 (leBytes 32 seed.toNat ++ [0x4B])).take 32

/-- DEVICE_ID from the public key. -/
def deviceIdOf (pub : List Byte) : BitVec 128 := BitVec.ofNat 128 (leNat ((sha512 pub).take 16))

/-- The two kinds of message that the signing engine signs (R493). -/
def signable (m : List Byte) : Bool := m.head? == some 0xA1 || (m.head? == some 0xA2 && m.length == 65)

/-- The signing engine (R493). -/
def engineSign (s : State) (m : List Byte) : Option (List Byte) :=
  match s.aon.seed with
  | some seed => if signable m then some (edSign (secretOf seed) m) else none
  | none => none

end Sys2Proof.Machine
end

