-- ==== Sys2Proof/Machine/Boot.lean ====
section
/-! DEFINITION. Power, resets and the boot stages (R484 to R500, R515 to R523). -/

namespace Sys2Proof.Machine

open Sys2Proof

/-! ### Power and reset inputs (R515, R516, R519, R520) -/

/-- POWER_ON (R484, R515, R521): AON_PWRGOOD rises. The boot flash and the parts' block tables alone outlast the power. -/
def execPowerOn (smbAddr : BitVec 2) (s : State) : Host.Outcome State Fault Refusal :=
  .next (
    let fl := { Flash.reset with blockTab := s.fl.blockTab, retiredCnt := s.fl.retiredCnt }
    let aon := { Aon.reset with flash := s.aon.flash, smbAddr := smbAddr }
    { State.reset with pending := s.pending, free := s.free, io := s.io, aon := aon, fl := fl })

/-- AON_PWRGOOD_FALL (R516, R523): the AON domain loses power, and THERMTRIP_N is released. -/
def execAonPwrgoodFall (s : State) : Host.Outcome State Fault Refusal :=
  .next (
    let fl := { Flash.reset with blockTab := s.fl.blockTab, retiredCnt := s.fl.retiredCnt }
    let aon := { Aon.reset with flash := s.aon.flash, powered := false, oscLocked := false }
    { State.reset with pending := s.pending, free := s.free, io := s.io, aon := aon, fl := fl, fab := resetFabric s.fab })

/-- NODE_RESET_N_FALL (R519): a fall after the node has left reset resets it with cause SMBUS. -/
def execNodeResetNFall (s : State) : Host.Outcome State Fault Refusal :=
  .next (
    let s1 := if nodeRuns s then resetNode s .smbus else s
    { s1 with aon := { s1.aon with resetN := false } })

/-- PERST_N_FALL (R429, R519): as NODE_RESET_N, with cause PF_FLR. -/
def execPerstNFall (s : State) : Host.Outcome State Fault Refusal :=
  .next (
    let s1 := if nodeRuns s then resetNode s .pfFlr else s
    { s1 with aon := { s1.aon with perstN := false } })

/-- RESET_RELEASE (R519 to R521): both inputs are high; the node leaves reset unless BF_OWN or a thermal hold keeps it. -/
def execResetRelease (straps : NodeId) (s : State) : Host.Outcome State Fault Refusal :=
  .next (
    if s.aon.powered then leaveReset { s with aon := { s.aon with resetN := true, perstN := true } } straps else s)

/-- BF_OWN_HANDOVER (R520): with NODE_RESET_N low and BF_OWN high the board owns the boot flash, and leaves in it what it
will. -/
def execBfOwnHandover (flash : List BootRec) (s : State) : Host.Outcome State Fault Refusal :=
  .next (
    if s.aon.powered && s.aon.inReset && !s.aon.resetN then
      { s with aon := { s.aon with bfOwn := true, bfBoard := true, flash := flash } }
    else s)

/-- BF_OWN_RELEASE (R520): BF_OWN falls; the node leaves reset when both inputs are high. -/
def execBfOwnRelease (straps : NodeId) (s : State) : Host.Outcome State Fault Refusal :=
  .next (leaveReset { s with aon := { s.aon with bfOwn := false, bfBoard := false } } straps)

/-! ### Watchdog and thermal trip (R468, R480, R523) -/

/-- AON cycles of the watchdog's period (R480). -/
def watchdogPeriod : Nat := 16777216

/-- Two consecutive readings at a trip temperature (R468). -/
def tripDue (a : Aon) : Bool := decide (2 ≤ a.tripCompute) || decide (2 ≤ a.tripMem)

/-- A thermal trip (R468, R523): the node resets with cause THERMAL, holds itself in reset and drives THERMTRIP_N low. -/
def thermalReset (s : State) : State :=
  let s1 := resetNode s .thermal
  { s1 with aon := { s1.aon with hold := true, tripN := false } }

/-- WATCHDOG_EXPIRY (R480): a trip in the same AON cycle records THERMAL. -/
def execWatchdogExpiry (withTrip : Bool) (s : State) : Host.Outcome State Fault Refusal :=
  .next (
    if nodeRuns s && decide (watchdogPeriod ≤ s.aon.wdog) then
      (if withTrip && tripDue s.aon then thermalReset s else resetNode s .watchdog)
    else s)

/-- WATCHDOG_RESTART (R480): Shallot's firmware restarts the count. -/
def execWatchdogRestart (s : State) : Host.Outcome State Fault Refusal :=
  .next (
    if nodeRuns s && !s.aon.halted && s.aon.stage != .rom then { s with aon := { s.aon with wdog := 0 } } else s)

/-- THERMAL_TRIP (R468). -/
def execThermalTrip (s : State) : Host.Outcome State Fault Refusal :=
  .next (if nodeRuns s && tripDue s.aon then thermalReset s else s)

/-- THERMAL_HOLD_END (R468, R523): every sensor reads at least 20 °C below its trip. -/
def execThermalHoldEnd (s : State) : Host.Outcome State Fault Refusal :=
  .next (
    if s.aon.hold && decide (s.aon.sensC.toNat ≤ 95) && decide (s.aon.sensIo.toNat ≤ 95)
        && decide (s.aon.sensMem.toNat ≤ 85) then
      { s with aon := { s.aon with hold := false, tripN := true } }
    else s)

/-! ### Stage ROM (R486 to R496) -/

/-- A legal VARIANT body (R434, R488). -/
def variantOk (b : List Byte) : Bool :=
  b.length == 5 && decide (leAt b 0 1 ≤ 2) && decide (leAt b 1 1 ≤ 2)
  && decide (bitsOf (leAt b 4 1) 4 4 = 0)
  && (bitsOf (leAt b 4 1) 2 2 == 1 || bitsOf (leAt b 4 1) 2 2 == 2)

/-- The entries of a REPAIR body: an entry's reserved bits are zero and its BANK lies below 48 (R156, R490). -/
def remapBits (n : Nat) : Remap :=
  { valid := bitOf n 63, factory := true, ch := BitVec.ofNat 4 (bitsOf n 42 4), pc := bitOf n 41,
    bank := BitVec.ofNat 6 (bitsOf n 35 6), row := BitVec.ofNat 15 (bitsOf n 20 15), spare := BitVec.ofNat 6 (bitsOf n 14 6) }

def remapBitsOk (n : Nat) : Bool := bitsOf n 46 16 == 0 && bitsOf n 0 14 == 0 && decide (bitsOf n 35 6 < 48)

def repairCount (b : List Byte) : Nat := leAt b 776 4

/-- A legal REPAIR body (R488, R490). -/
def repairOk (b : List Byte) : Bool :=
  let n := repairCount b
  decide (n ≤ 32768) && b.length == 780 + 8 * n
  && (b.take 8).all (fun t => decide (t.toNat ≤ 24))
  && (List.range n).all (fun i => remapBitsOk (leAt b (780 + 8 * i) 8 % 2 ^ 62))

/-- The SubjectPublicKeyInfo of an Ed25519 key up to its key bytes (RFC 8410). -/
def spkiPrefix : List Byte := [0x30, 0x2A, 0x30, 0x05, 0x06, 0x03, 0x2B, 0x65, 0x70, 0x03, 0x21, 0x00]

/-- The subject key of a certificate (R494): the 32 bytes after the first SubjectPublicKeyInfo prefix. -/
def certKey (cert : List Byte) : Option (List Byte) :=
  match (List.range cert.length).find? (fun i => slice cert i 12 == spkiPrefix) with
  | some i => if i + 44 ≤ cert.length then some (slice cert (i + 12) 32) else none
  | none => none

/-- The seed (R491, R492): the sealed one, or rebuilt from the PUF with one retry. -/
def seedFor (s : State) (puf1 puf2 : List Byte) (helper : List Byte) : Option (BitVec 256) :=
  match s.aon.seed with
  | some x => some x
  | none => (Config.pufSeed puf1 helper).or (Config.pufSeed puf2 helper)

/-- The ROM halts (R489), with the status it records. -/
def halt (s : State) (st : BitVec 8) : State := { s with aon := { s.aon with halted := true, fail := st } }

/-- The firmware that starts (R496): the slot named first, else the other. -/
def chooseFw (s : State) (dev : BitVec 128) : Option (Bool × List Byte) :=
  let try_ (slot : Bool) : Option (Bool × List Byte) :=
    match fwRec s slot with
    | some b => if recAccepted dev 6 b then some (slot, b) else none
    | none => none
  (try_ s.aon.fwFirst).or (try_ (!s.aon.fwFirst))

/-- The saved training tags (R500): those of an accepted TRAIN record whose FORMAT is the running firmware's. -/
def trainSaved (s : State) (pub : BitVec 256) (dev : BitVec 128) (fwBody : List Byte) : List (BitVec 8) :=
  match (recsOf s 7).find? (fun r => headOk 7 r.bytes && deviceSigned pub r.bytes && deviceOk dev 7 r.bytes) with
  | some r =>
    let (fmt, tags) := Config.trainTags (recBody r.bytes)
    if fmt = Config.trainFormat fwBody then tags else []
  | none => []

/-- What a VARIANT and a REPAIR record set (R434, R490): units, limits, present Beans, remap entries. -/
def applyUnits (s : State) (v rep : List Byte) : State :=
  let u := leAt v 4 1
  let aon := { s.aon with
    variant := BitVec.ofNat 8 (leAt v 0 1), clockClass := BitVec.ofNat 2 (leAt v 1 1),
    powerLimit := BitVec.ofNat 16 (leAt v 2 2), textUnit := bitOf u 0, zPorts := bitOf u 1,
    flashGroups := BitVec.ofNat 2 (bitsOf u 2 2), tileOut := rep.take 8 }
  let remap := (List.range (repairCount rep)).foldl
    (fun t i => tput Remap.reset t i (remapBits (leAt rep (780 + 8 * i) 8))) []
  let spares := remap.filterMap (fun kv =>
    let r := kv.2
    if r.valid then some (bankNumber (kv.1 / 4096) r.ch.toNat (b2n r.pc) r.bank.toNat, r.spare.toNat) else none)
  let stk := { s.stk with present := BitVec.ofNat 6144 (leAt rep 8 768), remap := remap, spareUsed := spares }
  let pow := { s.pow with capEff := aon.powerLimit }
  let z (p : Nat) : Bool := decide (4 ≤ p) && (!bitOf u 1 || Config.nz == 1)
  let ports := Vector.ofFn (fun p : Fin 6 =>
    let x := s.fab.ports[p]
    { x with state := if z p.val then PortState.absent else x.state })
  { s with aon := aon, stk := stk, pow := pow, fab := { s.fab with ports := ports } }

/-- ROM_STAGE (R487 to R496): `puf1` and `puf2` are what the PUF reads at the first reading and at the retry. -/
def romStage (s : State) (puf1 puf2 : List Byte) : State :=
  match onlyRec s 1, onlyRec s 2, onlyRec s 3, onlyRec s 4, onlyRec s 5 with
  | some v, some rep, some trim, some helper, some cert =>
    if headOk 4 helper && rootSigned helper then
      match seedFor s puf1 puf2 (recBody helper) with
      | none => halt s stMediaError
      | some seed =>
        let pub := edPublic (secretOf seed)
        let dev := deviceIdOf pub
        let ok := recAccepted dev 1 v && recAccepted dev 2 rep && recAccepted dev 3 trim && recAccepted dev 4 helper
          && recAccepted dev 5 cert && variantOk (recBody v) && repairOk (recBody rep)
          && certKey (recBody cert) == some pub
        if ok then
          match chooseFw s dev with
          | none => halt s 0
          | some (slot, fw) =>
            let s1 := applyUnits s (recBody v) (recBody rep)
            let pubW : BitVec 256 := BitVec.ofNat 256 (leNat pub)
            { s1 with aon := { s1.aon with
                stage := .firmware, seed := some seed, pubKey := pubW, deviceId := dev, trim := recBody trim,
                cert := recBody cert, fwBody := recBody fw, fwVersion := (bootHeadOf fw).version, fwSlot := slot,
                measFw := BitVec.ofNat 512 (leNat (recMeas fw)),
                measRecs := [v, rep, trim, helper, cert].map (fun b => BitVec.ofNat 512 (leNat (recMeas b))),
                trainTags := trainSaved s pubW dev (recBody fw) } }
        else halt s 0
    else halt s 0
  | _, _, _, _, _ => halt s 0

/-- ROM_STAGE. -/
def execRomStage (puf1 puf2 : List Byte) (s : State) : Host.Outcome State Fault Refusal :=
  .next (if nodeRuns s && s.aon.stage == .rom && !s.aon.halted then romStage s puf1 puf2 else s)

/-! ### Stage FIRMWARE (R495, R517) -/

/-- A rail within a tolerance in percent of its nominal, in millivolts (R513). -/
def railOk (mv nominal percent : Nat) : Bool :=
  decide (nominal * (100 - percent) ≤ mv * 100) && decide (mv * 100 ≤ nominal * (100 + percent))

/-- VDD_CMP's nominal by variant (R513). -/
def cmpNominal (variant : Nat) : Nat := if variant = 0 then 800 else if variant = 1 then 750 else 700

/-- Every main rail within its tolerance (R513, R517). -/
def railsOk (variant : Nat) (r : Rails) : Bool :=
  railOk r.vddCmp (cmpNominal variant) 3 && railOk r.vddcMem 1100 3 && railOk r.vddqMem 400 3 && railOk r.vppMem 1800 5
  && railOk r.vddIo 800 3 && railOk r.vddOpt 900 3 && railOk r.vccLaser 3300 5 && railOk r.vddBrg 750 3
  && railOk r.vccqFlash 1200 5

/-- The event configuration that the firmware sets (R476): sources 0 to 447, EVT_CTL and the hold-offs. -/
def firmwareEvents (e : Events) (fw : List Byte) : Events :=
  let src := (List.range 448).foldl (fun t i => tput Events.srcReset t i (Config.fwEvtSrc fw i &&& 0xCF)) e.src
  let hold := (List.range 64).foldl (fun t g => tput 0 t g (Config.fwHoldoff fw g)) e.holdoff
  let c := (Config.fwEvtCtl fw).toNat
  { e with src := src, holdoff := hold, vecBase := BitVec.ofNat 19 (bitsOf c 13 19),
           split := if bitsOf c 0 3 ≤ 4 then BitVec.ofNat 3 c else e.split }

/-- FIRMWARE_STAGE (R463, R476, R495, R517): Shallot starts, the PLLs lock, every main rail is checked. -/
def execFirmwareStage (rails : Rails) (s : State) : Host.Outcome State Fault Refusal :=
  .next (
    if nodeRuns s && s.aon.stage == .firmware && s.aon.fail == 0 then
      (if railsOk s.aon.variant.toNat rails then
        let s1 := (List.range 8).foldl (fun s p => onPod s p (fun x => { x with clk := .gated })) s
        { s1 with evt := firmwareEvents s1.evt s1.aon.fwBody, aon := { s1.aon with stage := .training } }
      else { s with aon := { s.aon with fail := stFenced } })
    else s)

/-! ### Stage TRAINING (R313, R314, R335, R497 to R500) -/

/-- Whether a unit starts from its saved settings (R499). -/
def fromSaved (s : State) (tag : Option (BitVec 8)) (u : UnitTrain) : Bool :=
  match tag with
  | some t => s.aon.cause != .thermal && decide (t.toNat ≤ u.temp.toNat + 15) && decide (u.temp.toNat ≤ t.toNat + 15) && u.check
  | none => false

/-- The outcome of one unit: started from saved settings, trained at all, the tag in use. -/
structure Trained where
  saved : Bool
  ok : Bool
  tag : BitVec 8
deriving DecidableEq, Repr

def trainUnit (s : State) (i : Nat) (u : UnitTrain) : Trained :=
  let t := s.aon.trainTags[i]?
  if fromSaved s t u then ⟨true, true, t.getD 0⟩ else ⟨false, u.full, u.temp⟩

def badUnit : UnitTrain := ⟨0, false, false⟩

/-- The 342 units in the order of R498. -/
def trainAll (s : State) (r : TrainReport) : List Trained :=
  (List.range 342).map (fun i =>
    trainUnit s i (if i < 256 then r.pcs.getD i badUnit else if i < 288 then r.flash.getD (i - 256) badUnit
      else r.lanes.getD (i - 288) badUnit))

/-- Why a flash part is left unused (R313, R475). -/
def partReason (s : State) (p : FlashPart) : Option Nat :=
  if !Config.trimHas s.aon.trim p.family then some 0
  else if p.bitsPerCell ≠ 3 then some 1
  else if p.pageBytes < 18432 ∨ p.pagesPerBlock < 3 ∨ 4095 < p.pagesPerBlock ∨ p.pagesPerBlock % 3 ≠ 0 then some 2
  else none

/-- The part on a channel and chip enable, where the node uses it. -/
def goodPart (s : State) (r : TrainReport) (ch ce : Nat) : Option FlashPart :=
  match r.parts.getD (8 * ch + ce) none with
  | some p => if (partReason s p).isNone then some p else none
  | none => none

def samePart (a b : FlashPart) : Bool :=
  a.family == b.family && a.pageBytes == b.pageBytes && a.pagesPerBlock == b.pagesPerBlock
  && a.blocksPerLun == b.blocksPerLun && a.luns == b.luns

/-- The part of a usable position (R314): all 16 channels of the group carry it, trained. Position 16 × group + 2 × CE +
LUN. -/
def positionPart (s : State) (r : TrainReport) (chOk : Nat → Bool) (pos : Nat) : Option FlashPart :=
  let g := pos / 16
  let ce := pos / 2 % 8
  match goodPart s r (16 * g) ce with
  | some p =>
    if g < s.aon.flashGroups.toNat ∧ pos % 2 < p.luns
        ∧ (List.range 16).all (fun k => chOk (16 * g + k) &&
            (match goodPart s r (16 * g + k) ce with | some q => samePart p q | none => false)) = true then some p
    else none
  | none => none

/-- The positions in use: those of the family and geometry that the lowest usable one has, which FLASH_GEOM gives. -/
def usablePositions (s : State) (r : TrainReport) (chOk : Nat → Bool) : Option (FlashPart × List Nat) :=
  match (List.range 32).findSome? (positionPart s r chOk) with
  | none => none
  | some p =>
    some (p, (List.range 32).filter (fun pos =>
      match positionPart s r chOk pos with
      | some q => samePart p q
      | none => false))

/-- The events of parts left unused (R313). -/
def partEvents (s : State) (r : TrainReport) : State :=
  ((List.range 256).filter (fun i => decide (i / 8 < 16 * s.aon.flashGroups.toNat))).foldl (fun s i =>
    match r.parts.getD i none with
    | some p =>
      match partReason s p with
      | some why => raiseEvent s evFlashPart (packFields [(5, i / 8), (3, i % 8), (8, why)])
      | none => s
    | none => s) s

/-- FLASH_GEOM's fields and the usable positions (R314, R335). SEGMENTS stays 0 until the segments are formed. -/
def trainFlash (s : State) (r : TrainReport) (ts : List Trained) : State :=
  let chOk (c : Nat) : Bool := (ts.getD (256 + c) ⟨false, false, 0⟩).ok
  let tags := (List.range 32).map (fun c => (ts.getD (256 + c) ⟨false, false, 0⟩).tag)
  let fl0 := { s.fl with chanTag := tags }
  match usablePositions s r chOk with
  | none => { s with fl := fl0 }
  | some (p, l) =>
    { s with fl := { fl0 with
        pages := BitVec.ofNat 12 p.pagesPerBlock, blocks := BitVec.ofNat 16 p.blocksPerLun, family := p.family,
        eraseLimit := Config.trimEraseLimit s.aon.trim p.family, lunsPerCe := BitVec.ofNat 2 p.luns,
        groups := BitVec.ofNat 2 (b2n (l.any (fun x => decide (x < 16))) + b2n (l.any (fun x => decide (16 ≤ x)))),
        usable := l } }

/-- One fabric port after training (R395 to R397, R484): TRAINED with at most one failed lane, else DOWN. -/
def trainPort (ts : List Trained) (meas : List (BitVec 10)) (p : Fin 6) (x : Port) : Port :=
  let lane (l : Nat) : Trained := ts.getD (288 + 9 * p.val + l) ⟨false, false, 0⟩
  let bad := (List.range 9).filter (fun l => !(lane l).ok)
  if x.state = .absent then x
  else if bad.length ≤ 1 then
    { x with state := .trained, laneFail := BitVec.ofNat 9 (bad.foldl (fun n l => n + 2 ^ l) 0),
             spare := if bad = [] then 8 else 15, meas := meas.getD p.val 0,
             laneTags := (List.range 9).map (fun l => (lane l).tag) }
  else { x with laneFail := BitVec.ofNat 9 (bad.foldl (fun n l => n + 2 ^ l) 0) }

/-- Whether the node has a unit that training covers (R498): every pseudo-channel, the flash channels of its groups, the lanes of its
ports. -/
def hasUnit (s : State) (i : Nat) : Bool :=
  if i < 256 then true
  else if i < 288 then decide (i - 256 < 16 * s.aon.flashGroups.toNat)
  else s.fab.ports[Fin.ofNat 6 ((i - 288) / 9)].state != .absent

/-- TRAINING_STAGE (R497 to R500): a memory stack that fails ends the boot; the other failures leave the node usable. A bypass that was
asked to open does so once its ports have trained (R364). -/
def trainingStage (s : State) (r : TrainReport) : State :=
  let ts := trainAll s r
  let mine := ts.zipIdx.filter (fun t => hasUnit s t.2)
  let fast := mine.any (·.1.saved)
  let full := mine.any (fun t => !t.1.saved)
  if (ts.take 256).any (fun t => !t.ok) then { s with aon := { s.aon with fail := stMediaError, fast := fast } }
  else
    let pcs := (List.range 256).foldl (fun t i =>
      tput PcTrain.reset t i { PcTrain.reset with tag := (ts.getD i ⟨false, false, 0⟩).tag }) []
    let ports := Vector.ofFn (fun p : Fin 6 => trainPort ts r.meas p s.fab.ports[p])
    let s1 := trainFlash (partEvents s r) r ts
    let s2 : State := { s1 with stk := { s1.stk with pcs := pcs }, fab := { s1.fab with ports := ports },
                                aon := { s1.aon with stage := .zeroing, fast := fast, trainWriting := full } }
    allPairs.foldl tryOpen s2

/-- TRAINING_STAGE. -/
def execTrainingStage (report : TrainReport) (s : State) : Host.Outcome State Fault Refusal :=
  .next (if nodeRuns s && s.aon.stage == .training && s.aon.fail == 0 then trainingStage s report else s)

/-- The tags of every unit in the copy held in memory (R498, R500). -/
def trainTagsNow (s : State) : List (BitVec 8) :=
  (List.range 256).map (fun i => (tget PcTrain.reset s.stk.pcs i).tag) ++ s.fl.chanTag
  ++ (List.finRange 6).flatMap (fun p => s.fab.ports[p].laneTags)

/-- The TRAIN record (R486, R487, R500), signed with the device key. -/
def trainRecord (s : State) : Option (List Byte) :=
  let body := Config.trainBody (Config.trainFormat s.aon.fwBody) (trainTagsNow s)
  let h : BootHead := ⟨[], leBytes 32 s.aon.pubKey.toNat, 0xFF, 7, 0, body.length, s.aon.deviceId, 0, 1⟩
  let low := bootHeadLow h
  (engineSign s (0xA2#8 :: sha512 (low ++ body))).map (fun sig => low ++ sig ++ body)

/-- TRAIN_RECORD_WRITE (R493, R500): the record asked for by a boot or by TRAIN_SAVE is in the boot flash. -/
def execTrainRecordWrite (s : State) : Host.Outcome State Fault Refusal :=
  .next (
    if nodeRuns s && s.aon.trainWriting then
      let s1 : State := { s with aon := { s.aon with trainWriting := false } }
      match trainRecord s with
      | some b => putRec (dropRecs s1 7) ⟨7, 0, b⟩
      | none => s1
    else s)

/-! ### Stages ZEROING and READY (R319, R485, R495) -/

/-- ZEROING_STAGE (R319, R484, R495): every memory row is zero, every segment FREE; the block tables have been read. -/
def execZeroingStage (s : State) : Host.Outcome State Fault Refusal :=
  .next (
    if nodeRuns s && s.aon.stage == .zeroing && !s.aon.zeroed then
      { s with mem := [], raw := [], fl := { s.fl with segs := [], store := [] }, aon := { s.aon with zeroed := true } }
    else s)

/-- The next multiple of 16,384 after a tick. -/
def nextEpochTick (t : Nat) : Nat := (t / 16384 + 1) * 16384

/-- READY_STAGE (R485, R495): the mailbox is fully open; the node stands alone and is its own steward. -/
def execReadyStage (s : State) : Host.Outcome State Fault Refusal :=
  .next (
    if nodeRuns s && s.aon.stage == .zeroing && s.aon.zeroed then
      let id := s.aon.nodeId
      let s1 := setSteward { s with aon := { s.aon with stage := .ready } } id
      { s1 with mach := { s1.mach with role := .steward, members := [id], nextMembers := [id],
                                        nextEpoch := nextEpochTick s1.clk.tick } }
    else s)

end Sys2Proof.Machine
end

