-- ==== Sys2Proof/Machine/Updates.lean ====
section
/-! DEFINITION. Changes of items: apply, acknowledgement, decision, rollback and close (R282 to R299), and the reload of
exclusion lists (R295). -/

namespace Sys2Proof.Machine

open Sys2Proof

/-- The version of an item's present image (R289, R333): its newest open change's, else its record's; none for an item without
either. -/
def presentVersion (s : State) (ctx : CtxId) (item : BitVec 36) : Option (BitVec 24) :=
  match copyOf s ctx.toNat (shardOf (ctxOf s ctx.toNat).ns item.toNat) with
  | none => none
  | some c =>
    match (itemChgs s ctx c.shard item).getLast? with
    | some kv => some kv.2.version
    | none => seenVersion s c ⟨dirLook s c item, none⟩

/-! ### Apply (R287 to R289) -/

/-- The entry prepared for a change's request, if it is held still (R299). -/
def preparedOf (s : State) (m : Change) : Option (List Byte) :=
  (s.upd.prepared.find? (fun p =>
    p.entryNode == m.entryNode && p.fn == m.fn && p.sq == m.sq && p.ctx == m.ctx && p.item == m.item)).map (·.entry)

/-- Every prepared entry of an item goes when a change of it opens: an apply of another request then finds none (R299). -/
def dropPrepared (s : State) (c : CtxId) (item : BitVec 36) : State :=
  { s with upd := { s.upd with prepared := s.upd.prepared.filter (fun p => !(p.ctx == c && p.item == item)) } }

/-- The neighbour fields of a graph entry (R56, R57): those of the prepared entry, or none for a new item. -/
def neighboursOf (prep : List Byte) : List Byte :=
  if prep = [] then List.replicate 16 0 ++ (List.replicate 32 (leBytes 5 itemNone.toNat)).flatten else slice prep 16 176

/-- The image that a holder writes: with its version, and in a graph context with the item's neighbours (R57, R289, R299). -/
def newImageOf (c : Ctx) (m : Change) (v : BitVec 24) (prep : List Byte) : List Byte :=
  let b := withVersion (slice m.image 0 (fvSize c)) v
  if c.graph = 0 then b else splice b 16 (neighboursOf prep)

/-- The record that a holder writes: with its version, live, as the home or the spill copy (R39, R287, R289). -/
def newRecordOf (size : Nat) (m : Change) (v : BitVec 24) (spill : Bool) : List Byte :=
  let b := slice m.record 0 (16 * size)
  headerBytes { headerOf b with version := v, live := true, tombstone := false, spill := spill, item := m.item } ++ b.drop 16

/-- The new slots of an upsert (R42), or those that the source of a fill chose (R418). -/
def newSlots (s : State) (c : ShardCopy) (m : Change) : Option (BitVec 28 × BitVec 28) :=
  if m.delete then some (noSlot, noSlot)
  else
    match m.slots with
    | some x => some x
    | none =>
      match nextSlot s c m.home.toNat, m.spill with
      | none, _ => none
      | some h, none => some (h, noSlot)
      | some h, some p => (nextSlot s c p.toNat).map (fun l => (h, l))

/-- Room in the directory and spill groups (R52, R54, R287). -/
def groupsHaveRoom (s : State) (c : ShardCopy) (m : Change) : Bool :=
  ((dirFind s c m.item).isSome || (dirPlaceFor s c m.item.toNat).isSome)
  && (m.delete || m.spill.isNone || (spillFind s c m.item).isSome || (spillPlaceFor s c m.item.toNat).isSome)

/-- The change entry that a change with commit tick `t` opens (R284, R287). -/
def chgFor (s : State) (c : ShardCopy) (m : Change) (t : Nat) (v : BitVec 24) (loc : BitVec 28 × BitVec 28) (img : Option Nat) :
    Chg :=
  let old := dirLook s c m.item
  { state := .applied, kind := if m.delete then .delete else .upsert, ctx := c.ctx, shard := c.shard, item := m.item,
    version := v, commitTick := t, closeTick := t + hold s + 1, newHome := loc.1, newSpill := loc.2,
    oldHome := (old.map (·.recLoc)).getD noSlot,
    oldSpill := match old with
      | some e => if e.spilled && !e.deleted then (spillLook s c m.item).getD noSlot else noSlot
      | none => noSlot,
    oldEntry := BitVec.ofNat 128 ((old.map dirEntNat).getD 0), newImage := img, u := m.u, entryNode := m.entryNode,
    slot := m.slot, spillWas := (spillLook s c m.item).getD noSlot, rolled := false, closed := false }

/-- The directory entry of the new state (R55, R287). -/
def newEntry (s : State) (m : Change) (old : Option DirEnt) (e : Chg) : DirEnt :=
  if m.delete then dirtied s e.ctx { old.getD DirEnt.none_ with deleted := true }
  else
    dirtied s e.ctx
      { recLoc := e.newHome, item := m.item, valid := true, flash := false, dirty := false, staged := true,
        spilled := e.newSpill != noSlot, deleted := false, fvLoc := e.newImage.getD 0 / 32 }

/-- The state in which a change may apply to a copy (R287, R291, R418): its single or serving holder, with no UNSURE entry. -/
def copyTakes (s : State) (c : ShardCopy) : Bool :=
  (shardEnt s c.ctx.toNat c.shard.toNat).state != .lost && !copyUnsure s c.ctx c.shard

/-- The new state's writes: directory, spill table, image, exclusion lists, records (R287 steps 2 and 3, R295). -/
def writeNewState (s : State) (c : ShardCopy) (m : Change) (e : Chg) (prep : List Byte) : State :=
  let x := ctxOf s c.ctx.toNat
  let old := dirLook s c m.item
  let s1 := writeEntry s c (newEntry s m old e)
  if m.delete then s1
  else
    let size := ctxRecSize s c.ctx.toNat
    let s2 := coverRow (coverRow (writeSpill s1 c m.item e.newSpill) c e.newHome) c e.newSpill
    let s3 :=
      match e.newImage with
      | none => s2
      | some a =>
        let s3 := stageImage s2 ⟨a, fvSize x, c.ctx, c.shard, m.item, false, s.clk.tick⟩
        if m.stageBad then lastingMem s3 a (some c.ctx) else memWrite s3 a (newImageOf x m e.version prep)
    let s4 := (newBeans s3 e).foldl reloadExcl s3
    if m.putAbandoned then s4
    else
      let s5 := putRecord s4 c size e.newHome (newRecordOf size m e.version false)
      if e.newSpill = noSlot then s5 else putRecord s5 c size e.newSpill (newRecordOf size m e.version true)

/-- The change applied: the entry opens, the item's prepared entries go, one application counts (R78). -/
def openChange (s : State) (c : ShardCopy) (m : Change) (k : Nat) (e : Chg) (prep : List Byte) : State :=
  let s1 := writeNewState (putChg s k e) c m e prep
  onCtx (dropPrepared s1 c.ctx m.item) c.ctx.toNat (fun x => { x with rate := x.rate + 1 })

/-- Whether a group in which a change looks its item up cannot be corrected (R84, R287): on this access, or as it is stored. -/
def groupsBad (s : State) (c : ShardCopy) (item : BitVec 36) (now : Bool) : Bool :=
  now || (deadAt s (dirGroups c item.toNat ++ spillGroups c item.toNat)).isSome

/-- What a holder does with a change whose commit tick is `t`: the state after, and the status and version it acknowledges (R287
to R289). -/
def holderApply (s : State) (c : ShardCopy) (m : Change) (t : Nat) : State × BitVec 8 × BitVec 24 :=
  let x := ctxOf s c.ctx.toNat
  let prep := preparedOf s m
  let v := newVersion s c m.item (prep.getD [])
  let old := dirLook s c m.item
  let bad := groupsBad s c m.item m.groupBad
  if copyTakes s c = false then (s, stFenced, v)
  else if (itemChgs s c.ctx c.shard m.item).any (fun kv => kv.2.state == .applied) then (s, stQueueFull, v)
  else if x.graph ≠ 0 ∧ prep = none then (s, stQueueFull, v)
  else if m.delete ∧ bad = false ∧ (match old with | none => true | some e => e.deleted) = true then (s, stDone, v)
  else
    match freeChg s with
    | none => (s, stQueueFull, v)
    | some k =>
      let slots := newSlots s c m
      let img := if m.delete then some 0 else stagePlace s (fvSize x)
      let e := chgFor s c m t v (slots.getD (noSlot, noSlot)) (if m.delete then none else img)
      if refsOk s e = false then (s, stQueueFull, v)
      else if groupsHaveRoom s c m = false ∨ slots = none ∨ img = none then (s, stCapacity, v)
      else if bad then (uncorrMem s 0 0 (some c.ctx), stMediaError, v)
      else (openChange s c m k e (prep.getD []), stDone, v)

/-- The acknowledgement (R288): status and version, to the entry node. -/
def sendAck (s : State) (m : Change) (st : BitVec 8) (v : BitVec 24) : State :=
  sendMsg s m.entryNode msgApplyAck (leBytes 2 m.slot.toNat ++ leBytes 8 m.u ++ leBytes 1 st.toNat ++ leBytes 3 v.toNat)

/-- Whether the node is the destination of a fill of the shard (R418). -/
def fillsInto (s : State) (c : ShardCopy) : Bool :=
  let e := shardEnt s c.ctx.toNat c.shard.toNat
  e.state == .filling && e.partner == s.aon.nodeId

/-- A change with commit tick `t` reaches one of its holders (R287): a holder whose BPUT was abandoned or withheld, or whose staging
write failed, sends nothing (R271, R288); a fill's destination that fails to apply a change ends the fill (R418). -/
def applyAtHolder (s : State) (c : ShardCopy) (m : Change) (t : Nat) : State :=
  let (s1, st, v) := holderApply s c m t
  let silent := st == stDone && (m.putAbandoned || m.stageBad)
  if fillsInto s c then
    (if st = stDone ∧ silent = false then s1 else abandonFill s1 c.ctx.toNat c.shard.toNat)
  else if silent then s1 else sendAck s1 m st v

/-- The copy of an item's shard that the node holds as primary or partner. -/
def heldCopy (s : State) (c : CtxId) (item : BitVec 36) : Option ShardCopy :=
  let x := ctxOf s c.toNat
  if x.live then
    match copyOf s c.toNat (shardOf x.ns item.toNat) with
    | some k => if k.role = 2 then none else some k
    | none => none
  else none

/-- Whether a change has been applied here already. -/
def alreadyApplied (s : State) (m : Change) : Bool :=
  (openChgs s).any (fun kv => kv.2.u == m.u && kv.2.entryNode == m.entryNode && kv.2.slot == m.slot && kv.2.kind != .move)

/-! ### The apply boundary (R286, R287) -/

/-- The pipeline that carries a change, and the phase table index of its FINAL phase whose ticks hold A - 1, for the apply boundary
A = `now` (R286, R287): U is an opportunity of the pipeline, and A comes before C. -/
def changePhase (s : State) (m : Change) (now : Nat) : Option (Plan × Pipe × Nat) :=
  match s.plan.active with
  | none => none
  | some p =>
    match p.pipes[m.pipe.val]? with
    | none => none
    | some q =>
      let holds (k : Nat) : Bool :=
        match p.phases[k]? with
        | some h => h.final && decide (m.u + h.start + 1 ≤ now) && decide (now ≤ m.u + h.start + h.len)
        | none => false
      if q.kind = (if m.delete then 2 else 1) ∧ m.u % q.period = q.phase ∧ q.length ≤ 8 ∧ now < m.u + q.length then
        (((List.range q.phaseNum).map (q.phaseFirst + ·)).find? holds).map (fun k => (p, q, k))
      else none

/-- Whether refusal withholds the patched writes of that phase (R271): as the phase began on its tiles, else by the class in force. -/
def writesWithheld (s : State) (m : Change) (p : Plan) (k : Nat) : Bool :=
  match s.tiles.find? (fun kv => kv.2.phase == k && kv.2.phasePipe == m.pipe.val && kv.2.phaseT == m.u) with
  | some kv => kv.2.phaseRefused
  | none => decide (p.timingClass < nodeClass s)

/-- One change of the boundary at the holder of its item, if it is due. -/
def applyChange (s : State) (m : Change) : State :=
  match heldCopy s m.ctx m.item, changePhase s m s.clk.tick with
  | some c, some (p, q, k) =>
    if alreadyApplied s m then s
    else
      let held := m.putAbandoned || writesWithheld s m p k
      applyAtHolder s c { m with putAbandoned := held } (m.u + q.length)
  | _, _ => s

/-- The order of the changes of one boundary (R287). -/
def changeBefore (a b : Change) : Bool :=
  decide (a.u < b.u) || (a.u == b.u && (decide (a.entryNode < b.entryNode)
    || (a.entryNode == b.entryNode && decide (a.slot < b.slot))))

/-- Places taken at a boundary taken again in ascending ITEM_ID (R53): each (item, address, bytes) is free again, then each goes where
`place` says. Where one would find no room the places stand as they are (log 137). -/
def placeAgain (s : State) (free : List Byte) (place : State → Nat → Option Nat) (l : List (BitVec 36 × Nat × List Byte)) : State :=
  let s1 := l.foldl (fun s x => memWrite s x.2.1 free) s
  (l.foldl (fun acc x => acc.bind (fun s => (place s x.1.toNat).map (fun a => memWrite s a x.2.2))) (some s1)).getD s

/-- The entries that the boundary's changes have put into the directory and the spill table of a copy since `s0` lie as if put
there in ascending ITEM_ID (R53, R54). -/
def orderInserts (s0 s : State) (c : ShardCopy) (items : List (BitVec 36)) : State :=
  let l := sortBy (fun a b => decide (a < b)) items
  let new (find : State → BitVec 36 → Option Nat) (n : Nat) : List (BitVec 36 × Nat × List Byte) :=
    l.filterMap (fun i =>
      match find s0 i, find s i with
      | none, some a => some (i, a, memRead s a n)
      | _, _ => none)
  let dir := new (fun s i => dirFind s c i) 16
  let spill := new (fun s i => spillFind s c i) 8
  let s1 := placeAgain s (List.replicate 16 0) (fun s i => dirPlaceFor s c i) dir
  placeAgain s1 (List.replicate 8 0xFF) (fun s i => spillPlaceFor s c i) spill

/-- UPDATE_APPLY (R53, R286, R287, R310): the changes whose apply boundary opens this tick, once in the tick. -/
def execUpdateApply (ms : List Change) (s : State) : Host.Outcome State Fault Refusal :=
  .next (
    if s.clk.did.applied then s
    else
      let s0 : State := { s with clk := { s.clk with did := { s.clk.did with applied := true } } }
      let s1 := (sortBy changeBefore ms).foldl applyChange s0
      (uniq (ms.filterMap (fun m => heldCopy s m.ctx m.item))).foldl (fun s2 c =>
        orderInserts s0 s2 c (uniq ((ms.filter (fun m => heldCopy s m.ctx m.item == some c)).map (·.item)))) s1)

/-- EXCLUSION_RELOAD (R295). -/
def execExclusionReload (b : Fin 6144) (s : State) : Host.Outcome State Fault Refusal := .next (reloadExcl s b.val)

/-! ### The entry node (R258, R290) -/

/-- The commit tick of an admitted upsert or delete (R26, R290): the tick in which its pipeline writes the marker. -/
def commitTickOf (s : State) (a : Adm) : Option Nat :=
  if a.req.op = 2 ∨ a.req.op = 3 then
    (s.plan.active.bind (fun p => p.pipes[a.req.pipe]?)).map (fun q => a.t + q.length)
  else none

/-- The commit record of an admitted update. -/
def commitOf (s : State) (slot : Fin 1024) (u : Nat) : Commit :=
  (s.upd.commits.find? (fun c => c.slot == slot && c.u == u)).getD ⟨slot, u, none, none⟩

def putCommit (s : State) (c : Commit) : State :=
  { s with upd := { s.upd with commits := s.upd.commits.filter (fun x => x.slot != c.slot) ++ [c] } }

/-- APPLY_ACK_RECEIVE (R258, R288): one that lands after its deadline is discarded. The acknowledgement of one holder counts
once. -/
def execApplyAckReceive (slot : Fin 1024) (primary : Bool) (status : BitVec 8) (version : BitVec 24) (s : State) :
    Host.Outcome State Fault Refusal :=
  .next (
    match admOf s slot.val with
    | none => s
    | some a =>
      match commitTickOf s a with
      | none => s
      | some c =>
        if s.clk.tick < c then
          let k := commitOf s slot a.t
          putCommit s (if primary then { k with primary := k.primary.or (some (status, version)) }
            else { k with partner := k.partner.or (some (status, version)) })
        else s)

/-- Whether the commit of a change of a shard waits for both holders (R290, R418). -/
def needsPartner (e : ShardEnt) : Bool := e.state == .serving

/-- The status of an update at its commit tick (R283, R290, R418): an earlier fault, the primary's refusal, the partner's,
different versions, a missing acknowledgement, else DONE. -/
def decideStatus (a : Adm) (e : ShardEnt) (k : Commit) : BitVec 8 :=
  let bad (x : Option (BitVec 8 × BitVec 24)) : Option (BitVec 8) :=
    x.bind (fun y => if y.1 = stDone then none else some y.1)
  let partner := if needsPartner e then k.partner else none
  match a.fault, bad k.primary, bad partner with
  | some st, _, _ => st
  | none, some st, _ => st
  | none, none, some st => st
  | none, none, none =>
    match k.primary, partner with
    | some p, some q => if p.2 = q.2 then stDone else stAborted
    | some _, none => if needsPartner e then stTimeout else stDone
    | none, _ => stTimeout

/-- The decision goes to both holders, in both directions round the ring, due by the end of C + 2 (R290), and is kept for 65,536
ticks after C (R421). -/
def sendDecision (s : State) (slot : Fin 1024) (a : Adm) (e : ShardEnt) (c : Nat) (commit : Bool) : State :=
  let d : Decision := ⟨BitVec.ofNat 10 slot.val, a.t, c, commit⟩
  let keep := s.upd.decisions.filter (fun x => decide (s.clk.tick ≤ x.c + 65536))
  let s1 : State := { s with upd := { s.upd with decisions := keep ++ [d], commits := s.upd.commits.filter (fun x => x.slot != slot) } }
  (uniq [e.primary, e.partner]).foldl (fun s n =>
    sendRing s n (c + 2) msgDecision (leBytes 2 slot.val ++ leBytes 8 a.t ++ leBytes 1 (b2n commit))) s1

/-- UPDATE_DECISION (R290): at C, for the update in an admission slot. -/
def execUpdateDecision (slot : Fin 1024) (s : State) : Host.Outcome State Fault Refusal :=
  .next (
    match admOf s slot.val with
    | none => s
    | some a =>
      if commitTickOf s a = some s.clk.tick then
        let x := ctxOf s a.req.ctx.toNat
        let e := shardEnt s a.req.ctx.toNat (shardOf x.ns a.req.item.toNat)
        let k := commitOf s slot a.t
        let st := decideStatus a e k
        let v := (k.primary.map (·.2)).getD 0
        sendDecision (completeAdm s slot.val { Result.of st with version := v.toNat }) slot a e s.clk.tick (st == stDone)
      else s)

/-! ### The holders at C + 3 (R291) -/

/-- The decision that the node itself made, for an entry whose entry node it is. -/
def ownDecision (s : State) (e : Chg) : Option Bool :=
  if e.entryNode = s.aon.nodeId then (s.upd.decisions.find? (fun d => d.slot == e.slot && d.u == e.u)).map (·.commit) else none

/-- STATE after a decision (R291). -/
def decided (s : State) (k : Nat) (commit : Bool) : State :=
  onChg s k (fun e => { e with state := if commit then .committed else .aborted })

/-- The UNSURE event's payload (R475), which the report to the steward carries too. -/
def unsurePayload (e : Chg) : Nat := packFields [(36, e.item.toNat), (20, e.shard.toNat), (12, e.ctx.toNat), (24, e.version.toNat)]

/-- DECISION_APPLY (R291): at C + 3, with the decision received, if either copy of it came. -/
def execDecisionApply (e : Fin 4096) (d : Option Bool) (s : State) : Host.Outcome State Fault Refusal :=
  .next (
    let x := chgOf s e.val
    if x.state = .applied ∧ x.commitTick + 3 ≤ s.clk.tick then
      match (ownDecision s x).or d with
      | some b => decided s e.val b
      | none =>
        let s1 := raiseEvent (bump (onChg s e.val (fun y => { y with state := .unsure })) .decisionMiss) evUnsure (unsurePayload x)
        sendMsg s1 s.mach.steward msgReport (leBytes 12 (unsurePayload x))
    else s)

/-- ABORT_ROLLBACK (R291): the writes of an ABORTED entry's update window. The entry is FREE at the next boundary. -/
def execAbortRollback (e : Fin 4096) (s : State) : Host.Outcome State Fault Refusal :=
  .next (if (chgOf s e.val).state = .aborted ∧ (chgOf s e.val).rolled = false then rollBack s e.val else s)

/-! ### Close (R297) -/

/-- The old state of an entry that closes. -/
def closeOld (s : State) (c : ShardCopy) (x : Chg) : State :=
  let size := ctxRecSize s x.ctx.toNat
  let s1 := if x.kind = .delete then tombSlot s c size x.oldHome else zeroSlot s c size x.oldHome
  let s2 := zeroSlot s1 c size x.oldSpill
  if x.kind = .move ∨ x.oldEntry = 0 then s2 else releaseImage s2 (ctxOf s2 x.ctx.toNat) (dirEntOf x.oldEntry.toNat)

/-- A deleted item's tombstone waits for its purge from the delete's CLOSE_TICK (R300). -/
def noteTomb (s : State) (x : Chg) : State :=
  let l := s.upd.tombs.filter (fun t => !(t.1 == x.ctx && t.2.1 == x.item))
  { s with upd := { s.upd with tombs := if x.kind = .delete then l ++ [(x.ctx, x.item, x.closeTick)]
                                        else if x.kind = .upsert then l else s.upd.tombs } }

/-- CHANGE_ENTRY_CLOSE (R297): a COMMITTED entry, from its CLOSE_TICK. -/
def execChangeEntryClose (e : Fin 4096) (s : State) : Host.Outcome State Fault Refusal :=
  .next (
    let x := chgOf s e.val
    if x.state = .committed ∧ x.closed = false ∧ x.closeTick ≤ s.clk.tick then
      let s1 := noteTomb (onChg s e.val (fun y => { y with closed := true })) x
      match copyOf s x.ctx.toNat x.shard.toNat with
      | some c => closeOld s1 c x
      | none => s1
    else s)

/-- CHANGE_ENTRY_FREE (R297): a closed entry, from CLOSE_TICK + 1. -/
def execChangeEntryFree (e : Fin 4096) (s : State) : Host.Outcome State Fault Refusal :=
  .next (
    let x := chgOf s e.val
    if x.closed = true ∧ x.closeTick + 1 ≤ s.clk.tick then putChg s e.val Chg.reset else s)

/-! ### UNSURE entries (R421) -/

/-- Whether a node has been declared lost (R416, R421): it is no member of the epoch. -/
def nodeLost (s : State) (n : NodeId) : Bool := !isMember s n

/-- The other holder of an entry's shard. -/
def otherHolder (s : State) (x : Chg) : NodeId :=
  let e := shardEnt s x.ctx.toNat x.shard.toNat
  if e.primary = s.aon.nodeId then e.partner else e.primary

/-- What an answer decides (R421): the entry node's word; with the entry node lost, the two holders' agreement; with the other
holder lost too, a commit. -/
def unsureDecision (s : State) (x : Chg) (a : UnsureAnswer) : Option Bool :=
  match a with
  | .decision b => if nodeLost s x.entryNode then none else some b
  | .other held v =>
    if nodeLost s x.entryNode && !nodeLost s (otherHolder s x) then some (held && v == x.version) else none
  | .alone =>
    let o := otherHolder s x
    if nodeLost s x.entryNode && (o == s.aon.nodeId || nodeLost s o) then some true else none

/-- UNSURE_RESOLVE (R421). -/
def execUnsureResolve (e : Fin 4096) (a : UnsureAnswer) (s : State) : Host.Outcome State Fault Refusal :=
  .next (
    let x := chgOf s e.val
    if x.state = .unsure then
      match unsureDecision s x a with
      | some b => decided s e.val b
      | none => s
    else s)

/-! ### The prepare stage (R299) -/

/-- A prepared entry takes its place in the buffer, and the report goes back (R299 steps 2 and 4). A second entry of the same
request takes the place of the first. -/
def prepareDone (s : State) (x : Prepared) : State :=
  let rest := s.upd.prepared.filter (fun p => !(p.entryNode == x.entryNode && p.fn == x.fn && p.sq == x.sq))
  let full := decide (256 ≤ rest.length)
  let s1 : State := if full then s else { s with upd := { s.upd with prepared := rest ++ [x] } }
  sendMsg s1 x.entryNode msgReport (leBytes 2 x.fn.val ++ leBytes 2 x.sq.val ++ leBytes 2 x.ctx.toNat ++ leBytes 5 x.item.toNat
    ++ leBytes 1 (b2n full))

/-- The item's graph entry as it was read: one that is not the item's image is uncorrectable data (R50), and no report goes out. -/
def prepareLands (s : State) (x : Prepared) (img : List Byte) : State :=
  if imageRight (ctxOf s x.ctx.toNat) x.item none img then prepareDone s { x with entry := img } else uncorrMem s 0 0 (some x.ctx)

/-- A holder reads an item's present graph entry (R299 step 2): from flash, from staging or from its hot slot. An item that has no
entry, or whose delete has closed, prepares none. Groups that read uncorrectable, and an entry that does, give no report. -/
def prepareRead (s : State) (n : NodeId) (fn : Fin 513) (sq : Fin 512) (ctx : CtxId) (item : BitVec 36)
    (odd : List (Nat × Burst × Burst)) : State :=
  match heldCopy s ctx item with
  | none => s
  | some c =>
    let x : Prepared := ⟨n, fn, sq, ctx, item, []⟩
    match deadAt s (dirGroups c item.toNat), dirLook s c item with
    | some a, _ => lastingMem s a (some ctx)
    | none, none => prepareDone s x
    | none, some e =>
      if e.deleted && (itemChgs s c.ctx c.shard item).isEmpty then prepareDone s x
      else if e.flash then queueRead s (.prepare n fn sq) ctx item none e.fvLoc 1 (s.clk.tick + 512)
      else
        match nodeRead s (32 * e.fvLoc) (fvSize (ctxOf s ctx.toNat)) odd (some ctx) with
        | (s1, some d) => prepareLands s1 x d
        | (s1, none) => s1

/-- The request that waits in a function's submission slot for its prepare stage. -/
def preparing (s : State) (fn : Fin 513) (sq : Fin 512) : Option Req :=
  s.host.queued.find? (fun r => r.fn == fn && r.sq == sq && r.prep.isSome)

/-- A holder's report reaches the entry node (R299 steps 3 and 4). -/
def prepareReport (s : State) (fn : Fin 513) (sq : Fin 512) (primary full : Bool) : State :=
  match preparing s fn sq with
  | none => s
  | some r =>
    if full then failQueued s r stQueueFull
    else
      let f (p : Prep) : Prep := if primary then { p with primary := true } else { p with partner := true }
      let g (x : Req) : Req := if x = r then { x with prep := x.prep.map f } else x
      { s with host := { s.host with queued := s.host.queued.map g } }

/-- GRAPH_PREPARE (R299). -/
def execGraphPrepare (p : PrepareEvent) (s : State) : Host.Outcome State Fault Refusal :=
  .next (
    match p with
    | .read n fn sq c item odd => prepareRead s n fn sq c item odd
    | .report fn sq primary full => prepareReport s fn sq primary full)

/-- GRAPH_PREPARE_TIMEOUT (R299 step 4): a report still missing 512 ticks after the request was seen. -/
def execGraphPrepareTimeout (fn : Fin 513) (sqIndex : Fin 512) (s : State) : Host.Outcome State Fault Refusal :=
  .next (
    match preparing s fn sqIndex with
    | none => s
    | some r => if prepDone r = false ∧ r.seen + 512 ≤ s.clk.tick then failQueued s r stTimeout else s)

end Sys2Proof.Machine
end

