-- ==== Sys2Proof/Machine/Migrate.lean ====
section
/-! DEFINITION. Purge and compaction (R300, R301), migrations (R306 to R309), and changes of tier (R303). -/

namespace Sys2Proof.Machine

open Sys2Proof

/-! ### Purge (R300) -/

/-- The CLOSE_TICK of a deleted item's delete. -/
def tombTick (s : State) (c : CtxId) (item : BitVec 36) : Option Nat :=
  (s.upd.tombs.find? (fun t => t.1 == c && t.2.1 == item)).map (·.2.2)

/-- An item purged: its directory and spill-table entries are free, its tombstone slot is zero. -/
def purgeItem (s : State) (c : ShardCopy) (item : BitVec 36) (e : DirEnt) (a : Nat) : State :=
  let s1 := memWrite s a (List.replicate 16 0)
  let s2 := zeroSlot (writeSpill s1 c item noSlot) c (ctxRecSize s c.ctx.toNat) e.recLoc
  bump { s2 with upd := { s2.upd with tombs := s2.upd.tombs.filter (fun t => !(t.1 == c.ctx && t.2.1 == item)) } } .purge

/-- PURGE (R300): 2^PURGE_LOG2 ticks after the delete's CLOSE_TICK, unless a later change of the item has opened. -/
def execPurge (ctx : CtxId) (item : BitVec 36) (s : State) : Host.Outcome State Fault Refusal :=
  .next (
    match heldCopy s ctx item, tombTick s ctx item with
    | some c, some t =>
      match dirFind s c item with
      | none => s
      | some a =>
        let e := dirEntOf (memNat s a 16)
        if e.deleted = true ∧ itemChgs s ctx c.shard item = [] ∧ t + 2 ^ (ctxOf s ctx.toNat).tier.purgeLog2 ≤ s.clk.tick then
          purgeItem s c item e a
        else s
    | _, _ => s)

/-! ### Compaction (R301) -/

/-- The slots of a partition's rows below its last one, in order: row (from REC_BASE) and slot. -/
def lowerSlots (d : Part) : List (Nat × Nat) :=
  (List.range (d.rowCount - 1)).flatMap (fun r => (List.range (slotsPerRow d.recSize)).map (fun j => (d.rowBase + r, j)))

/-- The empty ones. -/
def emptyLower (s : State) (c : ShardCopy) (d : Part) : List (Nat × Nat) :=
  (lowerSlots d).filter (fun x => slotEmpty s (recAddr c d.recSize x.1 x.2))

/-- The live record in the highest slot of the last row whose item has no open entry. -/
def movable (s : State) (c : ShardCopy) (d : Part) : Option (BitVec 28 × Header) :=
  let row := d.rowBase + d.rowCount - 1
  ((List.range (slotsPerRow d.recSize)).reverse.filterMap (fun j =>
    let h := headerOf (memRead s (recAddr c d.recSize row j) 16)
    if h.live && (itemChgs s c.ctx c.shard h.item).isEmpty then some (locOf row j, h) else none)).head?

/-- The MOVE entry of a record (R301): visible from its own boundary. -/
def moveChg (s : State) (c : ShardCopy) (h : Header) (src dst : BitVec 28) : Chg :=
  { state := .committed, kind := .move, ctx := c.ctx, shard := c.shard, item := h.item, version := h.version,
    commitTick := s.clk.tick, closeTick := s.clk.tick + hold s + 1, newHome := if h.spill then noSlot else dst,
    newSpill := if h.spill then dst else noSlot, oldHome := if h.spill then noSlot else src,
    oldSpill := if h.spill then src else noSlot,
    oldEntry := BitVec.ofNat 128 (((dirLook s c h.item).map dirEntNat).getD 0), newImage := none, u := 0, entryNode := 0,
    slot := 0, spillWas := noSlot, rolled := false, closed := false }

/-- The copy of a record, and its location in the directory or the spill table (R301 step 3). -/
def moveRecord (s : State) (c : ShardCopy) (size : Nat) (h : Header) (src dst : BitVec 28) : State :=
  let s1 := (newBeans s (moveChg s c h src dst)).foldl reloadExcl s
  let s2 := putRecord s1 c size dst (memRead s1 (locAddr c size src) (16 * size))
  if h.spill then writeSpill s2 c h.item dst
  else
    match dirFind s2 c h.item with
    | some a => putDirEnt s2 a { dirEntOf (memNat s2 a 16) with recLoc := dst }
    | none => s2

/-- COMPACTION_MOVE (R301, R473): one record of a partition with enough empty slots below its last row, under the checks of R287
from the third row on. -/
def execCompactionMove (ctx : CtxId) (shard part : BitVec 20) (groupBad : Bool) (s : State) : Host.Outcome State Fault Refusal :=
  .next (
    match copyOf s ctx.toNat shard.toNat with
    | none => s
    | some c =>
      let d := readPart s c part.toNat
      if c.role = 2 ∨ c.loaded.contains part.toNat = false ∨ s.pow.shed ≠ 0 then s
      else
        let l := emptyLower s c d
        if slotsPerRow d.recSize ≤ l.length then
          match movable s c d, l.head?, freeChg s with
          | some (src, h), some x, some k =>
            let dst := locOf x.1 x.2
            let e := moveChg s c h src dst
            if refsOk s e = false then s
            else if groupsBad s c h.item groupBad then uncorrMem s 0 0 (some ctx)
            else bump (moveRecord (putChg s k e) c d.recSize h src dst) .compactMove
          | _, _, _ => s
        else s)

/-- Whether an open entry refers to a slot of a row. -/
def rowReferenced (s : State) (c : ShardCopy) (row : Nat) : Bool :=
  (openChgs s).any (fun kv => kv.2.ctx == c.ctx && kv.2.shard == c.shard && (chgRefs kv.2).any (fun l => l.toNat / 32 == row))

/-- ROW_COUNT_DECREMENT (R301): a last row of empty slots with no reference. -/
def execRowCountDecrement (ctx : CtxId) (shard part : BitVec 20) (s : State) : Host.Outcome State Fault Refusal :=
  .next (
    match copyOf s ctx.toNat shard.toNat with
    | none => s
    | some c =>
      let d := readPart s c part.toNat
      let row := d.rowBase + d.rowCount - 1
      if c.role ≠ 2 ∧ c.loaded.contains part.toNat = true ∧ d.rowCount ≠ 0 ∧ rowReferenced s c row = false
          ∧ (List.range (slotsPerRow d.recSize)).all (fun j => slotEmpty s (recAddr c d.recSize row j)) = true then
        writePart s c part.toNat { d with rowCount := d.rowCount - 1 }
      else s)

/-! ### Migrations (R306 to R308) -/

/-- An item's directory entry in a held copy: its address and fields. -/
def migEntry (s : State) (m : Mig) : Option (Nat × DirEnt) :=
  (copyOf s m.ctx.toNat m.shard.toNat).bind (fun c => (dirFind s c m.item).map (fun a => (a, dirEntOf (memNat s a 16))))

/-- Whether the directory names the source of a migration: staging, flash, a hot slot, or for the relocation of a hot
image's flash copy the hot slot whose trailer names it (R307, R326). -/
def namesSource (s : State) (m : Mig) (e : DirEnt) : Bool :=
  let x := ctxOf s m.ctx.toNat
  !e.deleted &&
  match m.kind with
  | .durable => !e.flash && e.staged && e.fvLoc == m.src
  | .promotion => e.flash && e.fvLoc == m.src
  | .demotion => !e.flash && !e.staged && e.fvLoc == m.src
  | .relocation => (e.flash && e.fvLoc == m.src)
      || (!e.flash && !e.staged && trailerOf s x (32 * e.fvLoc) == m.src)

/-- A released memory location waits 64 ticks (R309). -/
def release (s : State) (addr len : Nat) (staged : Bool) : State :=
  { s with upd := { s.upd with released := s.upd.released ++ [⟨addr, len, s.clk.tick, staged⟩] } }

/-- The flip (R307, R326): the mapping word, or a hot image's trailer, and what it releases. -/
def flipMig (s : State) (m : Mig) (a : Nat) (e : DirEnt) : State :=
  let x := ctxOf s m.ctx.toNat
  let s1 := dropMig s m.id
  match m.kind with
  | .durable =>
    release (putDirMap s1 a { e with flash := true, staged := false, fvLoc := m.dst }) (32 * m.src) (fvSize x) true
  | .promotion => putDirMap s1 a { e with flash := false, staged := false, fvLoc := m.dst }
  | .demotion => release (putDirMap s1 a { e with flash := true, staged := false, fvLoc := m.dst }) (32 * m.src) (hotSlotSize x) false
  | .relocation =>
    let s2 :=
      if e.flash then putDirMap s1 a { e with fvLoc := m.dst }
      else memWrite s1 (32 * e.fvLoc + fvSize x) (leBytes 8 m.dst)
    onSeg (releaseFlash (bump s2 .gcRelocate) m.src (fvSize x)) (faddrOf m.src).seg (fun g => { g with lastFlip := s.clk.tick })

/-- Whether the flip may be made (R308). -/
def mayFlip (s : State) (m : Mig) (e : DirEnt) : Bool := !e.dirty && (itemChgs s m.ctx m.shard m.item).isEmpty

/-- The migration waits: DIRTY is cleared (R308 steps 1 and 2). -/
def waitMig (s : State) (m : Mig) : State :=
  let s1 := putMig s { m with waiting := true }
  match migEntry s m with
  | some (a, e) => putDirMap s1 a { e with dirty := false }
  | none => s1

/-- MIGRATION_FLIP (R307, R308, R320): at a boundary, a migration whose copy landed in an earlier tick. One that DIRTY, an open entry or a directory that no longer
names its source keeps from flipping waits. -/
def execMigrationFlip (id : Nat) (s : State) : Host.Outcome State Fault Refusal :=
  .next (
    match migOf s id with
    | none => s
    | some m =>
      if m.landed = false ∨ s.clk.tick ≤ m.landTick ∨ m.waiting = true then s
      else
        match migEntry s m with
        | some (a, e) => if mayFlip s m e && namesSource s m e then flipMig s m a e else waitMig s m
        | none => waitMig s m)

/-- A migration dropped (R308 step 4): its destination is free at once, and the flash copy it wrote is released. -/
def giveUpMig (s : State) (m : Mig) : State :=
  let x := ctxOf s m.ctx.toNat
  let s1 :=
    match m.kind with
    | .durable => if m.landed then releaseFlash (dropMig s m.id) m.dst (fvSize x) else dropMig s m.id
    | .promotion => cancelPromotion s m
    | .demotion => dropMig s m.id
    | .relocation => if m.landed then releaseFlash (dropMig s m.id) m.dst (fvSize x) else dropMig s m.id
  bump s1 .migrateDrop

/-- Whether a waiting migration may be copied again (R308 step 3): the directory names a location of its source tier, with
STAGED = 0 and DELETED = 0. -/
def mayRecopy (m : Mig) (e : DirEnt) : Bool :=
  !e.staged && !e.deleted &&
  match m.kind with
  | .durable => false
  | .promotion => e.flash
  | .demotion => !e.flash && e.fvLoc == m.src
  | .relocation => e.flash

/-- The copy made again (R308 step 3): from the location the directory names. A demotion has none. -/
def recopy (s : State) (m : Mig) (e : DirEnt) : State :=
  let s1 := bump s .migrateRecopy
  match m.kind with
  | .promotion =>
    queueRead (putMig s1 { m with src := e.fvLoc, landed := false, recopies := m.recopies + 1, waiting := false })
      (.promotion m.id) m.ctx m.item (presentVersion s m.ctx m.item) e.fvLoc 3 0
  | .relocation =>
    queueRead (putMig (releaseFlash s1 m.dst (fvSize (ctxOf s m.ctx.toNat)))
      { m with src := e.fvLoc, landed := false, recopies := m.recopies + 1, waiting := false })
      (.relocation m.id) m.ctx m.item (presentVersion s m.ctx m.item) e.fvLoc 3 0
  | _ => putMig s1 { m with recopies := m.recopies + 1, waiting := false, landTick := s.clk.tick }

/-- MIGRATION_RECOPY_OR_DROP (R308): a waiting migration, once its item has no open entry. -/
def execMigrationRecopyOrDrop (id : Nat) (s : State) : Host.Outcome State Fault Refusal :=
  .next (
    match migOf s id with
    | none => s
    | some m =>
      if m.waiting = true ∧ itemChgs s m.ctx m.shard m.item = [] then
        match migEntry s m with
        | some (_, e) => if m.recopies < 2 ∧ mayRecopy m e = true then recopy s m e else giveUpMig s m
        | none => giveUpMig s m
      else s)

/-! ### Promotions (R307) -/

/-- A hot slot's image to be demoted before its slot is used: a migration with no copy. -/
def startDemotion (s : State) (c : CtxId) (hot : Nat) (item : BitVec 36) : State :=
  let x := ctxOf s c.toNat
  addMig s .demotion c (BitVec.ofNat 20 (shardOf x.ns item.toNat)) item (hot / 32) (trailerOf s x hot) true

/-- Whether a hot slot's image is already on its way out. -/
def leaving (s : State) (hot : Nat) : Bool :=
  s.upd.migs.any (fun m => m.kind == .demotion && m.src == hot / 32) || s.upd.released.any (fun r => r.addr == hot)

/-- The copy starts (R307): the slot is taken, and the image is read from flash. -/
def startCopy (s : State) (p : CtxId × BitVec 36 × Nat) (i : Nat) : State :=
  let c := ctxOf s p.1.toNat
  let hot := hotAddr c i
  let sh : BitVec 20 := BitVec.ofNat 20 (shardOf c.ns p.2.1.toNat)
  let s1 := addMig (useHot s hot p.1 p.2.1) .promotion p.1 sh p.2.1 p.2.2 (hot / 32) false
  let s2 := onCtx s1 p.1.toNat (fun x => { x with hotHead := if x.tier.localHot then x.hotHead else (i + 1) % max 1 (hotSlots c) })
  queueRead s2 (.promotion s.upd.nextMig) p.1 p.2.1 (presentVersion s p.1 p.2.1) p.2.2 3 0

/-- A promotion whose image the directory no longer names in flash, or whose item already migrates, is not started. -/
def stillCold (s : State) (p : CtxId × BitVec 36 × Nat) : Bool :=
  match heldCopy s p.1 p.2.1 with
  | none => false
  | some c =>
    match dirLook s c p.2.1 with
    | none => false
    | some e => e.flash && !e.deleted && e.fvLoc == p.2.2 && !migrating s p.1 p.2.1

/-- The first queued promotion (R307): in deep-queue mode into the slot at the ring's head, whose image is demoted first; in
local-hot mode into the lowest free slot. -/
def promoteNext (s : State) (p : CtxId × BitVec 36 × Nat) (rest : List (CtxId × BitVec 36 × Nat)) : State :=
  let c := ctxOf s p.1.toNat
  let pop : State := { s with upd := { s.upd with promoteQ := rest } }
  let n := hotSlots c
  if stillCold s p = false ∨ n = 0 then pop
  else if c.tier.localHot then
    match (List.range n).find? (fun i => (hotOccupant s (hotAddr c i)).isNone) with
    | some i => startCopy pop p i
    | none => s
  else
    let i := c.hotHead % n
    match hotOccupant s (hotAddr c i) with
    | none => startCopy pop p i
    | some o => if leaving s (hotAddr c i) then s else startDemotion s o.1 (hotAddr c i) o.2

/-- PROMOTION_COPY_START (R307, R308, R473): not while power is shed, nor for a context whose tier changes, nor with 256
migrations in progress. -/
def execPromotionCopyStart (s : State) : Host.Outcome State Fault Refusal :=
  .next (
    match s.upd.promoteQ with
    | [] => s
    | p :: rest =>
      if s.pow.shed ≠ 0 ∨ 256 ≤ s.upd.migs.length ∨ (ctxOf s p.1.toNat).tierChange ≠ none then s else promoteNext s p rest)

/-! ### Reclaiming (R309) -/

/-- One released location reclaimed. -/
def reclaim (s : State) (r : Released) : State := if r.staged then freeStaged s r.addr else freeHot s r.addr

/-- RELEASED_LOCATION_RECLAIM (R309): every location that a flip released 64 ticks ago or more. -/
def execReleasedLocationReclaim (s : State) : Host.Outcome State Fault Refusal :=
  .next (
    let due (r : Released) : Bool := decide (r.flip + 64 ≤ s.clk.tick)
    let s1 : State := { s with upd := { s.upd with released := s.upd.released.filter (fun r => !due r) } }
    (s.upd.released.filter due).foldl reclaim s1)

/-! ### Changes of tier (R303) -/

/-- The hot images of a context that have still to be demoted, in ascending slot order. -/
def hotImages (s : State) (k : CtxId) : List (Nat × BitVec 36) :=
  sortBy (fun a b => decide (a.1 < b.1))
    ((s.upd.hotUsed.filter (fun h => h.2.1 == k && !s.upd.released.any (fun r => r.addr == h.1))).map (fun h => (h.1, h.2.2)))

/-- The mapping word of a hot image goes back to its flash address, unless its item has an open entry (R303 step 2, R308). -/
def demoteFlip (s : State) (k : CtxId) (h : Nat × BitVec 36) : Option State :=
  match heldCopy s k h.2 with
  | none => none
  | some c =>
    match dirFind s c h.2 with
    | none => none
    | some a =>
      let e := dirEntOf (memNat s a 16)
      let x := ctxOf s k.toNat
      if (itemChgs s k c.shard h.2).isEmpty && !e.flash && !e.staged && e.fvLoc == h.1 / 32 then
        some (release (putDirMap s a { e with flash := true, fvLoc := trailerOf s x h.1 }) h.1 (hotSlotSize x) false)
      else none

/-- A pass over the hot images, at most `n` flips. -/
def demotePass (k : CtxId) : Nat → List (Nat × BitVec 36) → State → State
  | _, [], s => s
  | 0, _, s => s
  | n + 1, h :: r, s =>
    match demoteFlip s k h with
    | some s1 => demotePass k n r (onCtx s1 k.toNat (fun c => { c with tierChange := c.tierChange.map (fun t => { t with lastFlip := s.clk.tick }) }))
    | none => demotePass k (n + 1) r s

/-- TIER_CHANGE_DEMOTE (R303 step 2): one pass in a tick. -/
def execTierChangeDemote (ctx : CtxId) (s : State) : Host.Outcome State Fault Refusal :=
  .next (
    match (ctxOf s ctx.toNat).tierChange with
    | none => s
    | some t =>
      if t.ran = some s.clk.tick then s
      else
        let now := s.clk.tick
        demotePass ctx 256 (hotImages s ctx)
          (onCtx s ctx.toNat (fun c => { c with tierChange := c.tierChange.map (fun t => { t with ran := some now }) })))

/-- TIER_CHANGE_COMPLETE (R303 step 3): no hot image is left, and 64 ticks have passed since the last flip. -/
def execTierChangeComplete (ctx : CtxId) (s : State) : Host.Outcome State Fault Refusal :=
  .next (
    match (ctxOf s ctx.toNat).tierChange with
    | none => s
    | some t =>
      if hotImages s ctx = [] ∧ t.ran ≠ none ∧ t.lastFlip + 64 ≤ s.clk.tick then
        let s1 := (s.upd.hotUsed.filter (fun h => h.2.1 == ctx)).foldl (fun s h => freeHot s h.1) s
        let gone (r : Released) : Bool := s.upd.hotUsed.any (fun h => h.1 == r.addr && h.2.1 == ctx)
        let s2 : State := { s1 with upd := { s1.upd with released := s1.upd.released.filter (fun r => r.staged || !gone r) } }
        onCtx s2 ctx.toNat (fun c =>
          { c with tier := { c.tier with localHot := t.word.localHot, hotBase := t.word.hotBase, hotRows := t.word.hotRows },
                   tierChange := none, hotHead := 0 })
      else s)

end Sys2Proof.Machine
end

