-- ==== Sys2Proof/Machine/FlashRun.lean ====
section
/-! DEFINITION. The flash tier's own memory: superblocks, packing, programs, erases, folding, collection, retirement (R319 to
R326, R332, R335 to R337). -/

namespace Sys2Proof.Machine

open Sys2Proof

/-! ### Superblocks and segments (R314, R317, R321, R325) -/

def allSupers (s : State) : List (Nat × Super) := s.fl.supers.filter (fun kv => !kv.2.blocks.isEmpty)

/-- The erase counts of a superblock's 16 blocks, summed. -/
def superWear (s : State) (x : Super) : Nat :=
  ((List.range 16).map (fun k => (blockInfo s (posLun x.pos k) (x.blocks.getD k 0)).erases)).foldl (· + ·) 0

/-- Free superblocks of a kind, the least worn first, then the lowest number (R325). -/
def freeSupers (s : State) (slc : Bool) : List (Nat × Super) :=
  sortBy (fun a b => decide (superWear s a.2 < superWear s b.2))
    ((allSupers s).filter (fun kv => kv.2.slcPool == slc && !kv.2.inUse))

/-- FREE_SEGS (R337): free segments of TLC capacity. -/
def freeTlc (s : State) : Nat := (freeSupers s false).length

/-- The superblocks of the single-bit-per-cell buffer, and those that hold an OPEN or SLC segment (R321). -/
def slcPoolSize (s : State) : Nat := ((allSupers s).filter (fun kv => kv.2.slcPool)).length
def slcUsed (s : State) : Nat :=
  ((s.fl.segs.filter (fun kv => segIsSlc kv.2)).map (fun kv => kv.2.sbs.length)).foldl (· + ·) 0

/-- SLC_FILL (R321). -/
def slcFill (s : State) : Nat := if slcPoolSize s = 0 then 0 else min 65535 (65535 * slcUsed s / slcPoolSize s)

/-- The lowest FREE segment number. -/
def freeSeg (s : State) : Option Nat := (List.range s.fl.segments).find? (fun i => (segOf s i).state == .free)

/-- The superblocks that a segment opened for writing takes: in SLC mode three of the position of the first, in TLC mode one. -/
def openSupers (s : State) (reloc : Bool) : Option (List (Nat × Super)) :=
  if reloc then (freeSupers s false).head?.map (fun x => [x])
  else
    let l := freeSupers s true
    let at_ (p : Nat) := l.filter (fun x => x.2.pos == p)
    (l.find? (fun x => decide (3 ≤ (at_ x.2.pos).length))).map (fun x => (at_ x.2.pos).take 3)

/-- SPARE_MIN (R337). -/
def spareMin (s : State) : Nat :=
  let ls := s.fl.usable.flatMap (fun p => (List.range 16).map (fun k => (tget [] s.fl.spares (posLun p k)).length))
  match ls with
  | [] => 0
  | x :: r => min 255 (r.foldl min x)

/-- CRESS_STATUS (R337). -/
def cressStatusReg (s : State) : Nat :=
  packFields [(1, b2n s.fl.full), (7, 0), (8, spareMin s), (16, min 65535 s.fl.retiredCnt), (16, slcFill s), (16, freeTlc s)]

/-- FULL (R337): no segment is open and none can be opened; its changes raise CRESS_FULL (R474). -/
def updateFull (s : State) : State :=
  let full := s.fl.openSeg.isNone && ((openSupers s false).isNone || (freeSeg s).isNone)
  if full = s.fl.full then s
  else
    let s1 : State := { s with fl := { s.fl with full := full } }
    raiseEvent s1 evCressFull (cressStatusReg s1)

/-- Blocks joining the queue of their LUNs' erases. -/
def queueErase (s : State) (lun block : Nat) : State := onLun s lun (fun l => { l with eraseQ := l.eraseQ ++ [(block, false)] })

def eraseSuper (s : State) (i : Nat) : State :=
  let x := superOf s i
  (List.range 16).foldl (fun s k => queueErase s (posLun x.pos k) (x.blocks.getD k 0)) s

/-- A segment is opened for writing, if one can be (R325). -/
def openSegment (s : State) (reloc : Bool) : State :=
  match openSupers s reloc, freeSeg s with
  | some l, some i =>
    let g : Seg := { Seg.reset with state := .open_, slcMode := !reloc, pos := (l.headD (0, Super.reset)).2.pos, sbs := l.map (·.1) }
    let take (s : State) (x : Nat × Super) : State :=
      let s1 := putSuper s x.1 { x.2 with inUse := true, stale := false }
      if x.2.stale then eraseSuper s1 x.1 else s1
    let s1 := l.foldl take (putSeg s i g)
    if reloc then { s1 with fl := { s1.fl with relocSeg := some i } } else { s1 with fl := { s1.fl with openSeg := some i } }
  | _, _ => s

/-- Pages of a segment, a parity page in every row (R316). -/
def segPages (s : State) : Nat := 16 * s.fl.pages.toNat

def openOf (s : State) (reloc : Bool) : Option Nat := if reloc then s.fl.relocSeg else s.fl.openSeg
def setOpen (s : State) (reloc : Bool) (x : Option Nat) : State :=
  if reloc then { s with fl := { s.fl with relocSeg := x } } else { s with fl := { s.fl with openSeg := x } }

/-- A change of the segment map waits for the boundary (R317). -/
def queueMap (s : State) (x : MapChange) : State := { s with fl := { s.fl with mapNext := s.fl.mapNext ++ [x] } }

/-- Whether a segment's mapping is about to change. -/
def mapWaits (s : State) (i : Nat) : Bool := s.fl.mapNext.any (fun x => x.seg == i)

/-- A segment closes (R317, R325): it is written no more, and its state follows at the boundary. -/
def closeSeg (s : State) (i : Nat) : State :=
  let g := segOf s i
  let s1 := queueMap (onSeg s i (fun g => { g with closeTick := s.clk.tick })) ⟨i, if g.slcMode then .slc else .tlc, g.sbs⟩
  let s2 := if s1.fl.openSeg = some i then setOpen s1 false none else s1
  if s2.fl.relocSeg = some i then setOpen s2 true none else s2

/-- The boundary's part of R325: a segment opens for codewords that wait and have none open. -/
def openWanted (s : State) (reloc : Bool) : State :=
  if (openOf s reloc).isNone && s.fl.writeQ.any (fun p => p.reloc == reloc) then openSegment s reloc else s

/-- Cress forms its segments at plan-ready (R319, R321, R336): the first two good blocks of each LUN hold the block table;
superblock k takes the k-th good block of each channel's LUN; the first of each position are the SLC pool; what is left of
a LUN are its spares. -/
def formSegments (s : State) : State :=
  let good (lun : Nat) : List Nat := ((List.range s.fl.blocks.toNat).filter (fun b => !(blockInfo s lun b).retired)).drop 2
  let one (s : State) (pos : Nat) : State :=
    let ls := (List.range 16).map (fun k => good (posLun pos k))
    let n := (ls.map List.length).foldl min s.fl.blocks.toNat
    let pool := s.fl.blocks.toNat * s.fl.slcPct.toNat / 100
    let base := s.fl.supers.length
    let s1 := (List.range n).foldl (fun s k =>
      putSuper s (base + k) ⟨pos, ls.map (fun l => l.getD k 0), decide (k < pool), false, true⟩) s
    (List.range 16).foldl (fun s k =>
      { s with fl := { s.fl with spares := tput [] s.fl.spares (posLun pos k) ((ls.getD k []).drop n) } }) s1
  let s1 := s.fl.usable.foldl one { s with fl := { s.fl with supers := [], segs := [], spares := [] } }
  updateFull { s1 with fl := { s1.fl with segments := min 32767 (freeTlc s1 + slcPoolSize s1 / 3) } }

/-! ### Packing (R320) -/

/-- Images in a codeword (R49). -/
def imagesPerCw (size : Nat) : Nat := if size = 0 then 0 else 4096 / size

/-- A buffer's codeword waits to be written. -/
def sendPack (s : State) (p : PackBuf) : State :=
  { s with fl := { s.fl with packs := s.fl.packs.erase p, writeQ := s.fl.writeQ ++ [p] } }

/-- The buffer whose first image is oldest, the lower context on a tie (R320). -/
def oldestPack (s : State) : Option PackBuf :=
  bestBy (fun a b => decide (a.first < b.first) || (a.first == b.first && decide (a.ctx < b.ctx))) s.fl.packs

/-- An image placed in its context's assembly buffer, for durable writes or for relocations; a full one is written. -/
def packImage (s : State) (ctx : CtxId) (mig : Nat) (img : List Byte) (reloc : Bool) : State :=
  let n := imagesPerCw img.length
  let put (s : State) (p : PackBuf) : State :=
    let q := { p with migs := p.migs ++ [mig], bytes := p.bytes ++ img }
    let s1 : State := { s with fl := { s.fl with packs := s.fl.packs.erase p ++ [q] } }
    if n ≤ q.migs.length then sendPack s1 q else s1
  match s.fl.packs.find? (fun p => p.ctx == ctx && p.reloc == reloc) with
  | some p => put s p
  | none =>
    let s1 := if 512 ≤ s.fl.packs.length then (match oldestPack s with | some p => sendPack s p | none => s) else s
    put s1 ⟨ctx, s.clk.tick, [], [], reloc, false⟩

/-- The staged image at an address that waits for Cress. -/
def unpacked (s : State) (addr : Nat) : Option Staged := s.upd.staged.find? (fun x => x.addr == addr && !x.packed)

/-- CODEWORD_PACK (R320, R307, R308): the durable migration of a staged image begins. -/
def execCodewordPack (staged : Nat) (s : State) : Host.Outcome State Fault Refusal :=
  .next (
    match unpacked s staged with
    | none => s
    | some x =>
      if 256 ≤ s.upd.migs.length then s
      else
        let id := s.upd.nextMig
        let s1 := addMig s .durable x.ctx x.shard x.item (staged / 32) 0 false
        let l := s1.upd.staged.map (fun y => if y = x then { y with packed := true } else y)
        packImage { s1 with upd := { s1.upd with staged := l } } x.ctx id (memRead s staged x.len) false)

/-- PACK_WAIT_EXPIRY (R320): the partly filled codewords of a context whose first image came PACK_WAIT ticks ago. -/
def execPackWaitExpiry (ctx : CtxId) (s : State) : Host.Outcome State Fault Refusal :=
  .next (
    (s.fl.packs.filter (fun p => p.ctx == ctx && decide (p.first + s.fl.packWait.toNat ≤ s.clk.tick))).foldl sendPack s)

/-! ### Programs and erases (R323, R327) -/

/-- Whether a remedy of a read waits for a LUN, or runs on it (R331). -/
def remedyWaits (s : State) (lun : Nat) : Bool :=
  s.fl.reads.any (fun r => r.lun.val == lun && (r.stage == .ladder || r.stage == .soft))

/-- Reads that wait for a LUN, of classes up to `c` (R327). -/
def lunWaits (s : State) (lun c : Nat) : Bool :=
  s.fl.reads.any (fun r => r.lun.val == lun && r.stage == .queued && !r.absent && decide (r.cls ≤ c)) || remedyWaits s lun

/-- A channel in its low-power state (R327): nothing runs on its LUNs. -/
def chanAsleep (s : State) (lun : Nat) : Bool := bit s.fl.chanLow (lun / 16)

/-- Whether an operation is the program of a page of a segment that a test keeps. -/
def programs (f : Nat → Nat → Bool) (o : LunOp) : Bool :=
  match o with
  | .program i page _ _ => f i page
  | _ => false

/-- Whether a LUN runs, or holds suspended, an operation that a test keeps. -/
def lunsRun (s : State) (f : LunOp → Bool) : Bool :=
  s.fl.luns.any (fun kv => f kv.2.op || (match kv.2.suspended with | some o => f o | none => false))

/-- The codewords that the next page takes: up to four. -/
def nextPage (s : State) (reloc : Bool) : List PackBuf :=
  match s.fl.writeQ.filter (fun p => p.reloc == reloc) with
  | [] => []
  | p :: r => (p :: r.takeWhile (fun q => q.again == p.again)).take 4

/-- The page that is programmed next for durable writes or for relocations: segment, page row, column, codewords. The parity page of
a row follows its data pages, once none of them is being programmed (R316). -/
def pageNext (s : State) (reloc : Bool) : Option (Nat × Nat × Nat × List PackBuf) :=
  match openOf s reloc with
  | none => none
  | some i =>
    let n := (segOf s i).nextCw
    let page := n / 16
    let cws := if n % 16 = parityCol then [] else nextPage s reloc
    if s.fl.pages.toNat ≤ page then none
    else if n % 16 = parityCol then (if lunsRun s (programs (fun j k => j == i && k == page)) then none else some (i, page, parityCol, []))
    else if cws = [] then none else some (i, page, n % 16, cws)

/-- The LUN and block of a page of a segment. -/
def pagePhys (s : State) (seg page col : Nat) : Nat × Nat × Nat := segPhys s (segOf s seg) page (colChannel page col)

/-- Whether a LUN is free for a program of a block of its own (R327). -/
def lunFree (s : State) (lun block : Nat) : Bool :=
  let x := lunOf s lun
  x.op == .idle && x.suspended.isNone && !lunWaits s lun 3 && !chanAsleep s lun && s.plan.ready
  && !x.eraseQ.any (fun q => q.1 == block)

/-- A page program starts on its LUN, where this is the LUN that the next page lies on and it is free for it. -/
def tryProgram (s : State) (lun : Nat) (reloc : Bool) : Option State :=
  match pageNext s reloc with
  | none => none
  | some (i, page, col, cws) =>
    let (l, b, _) := pagePhys s i page col
    if l = lun ∧ lunFree s lun b = true then
      let s2 := onSeg s i (fun g => { g with nextCw := g.nextCw + 1 })
      let s3 : State := { s2 with fl := { s2.fl with writeQ := s2.fl.writeQ.filter (fun p => !cws.contains p) } }
      some (onLun s3 lun (fun x => { x with op := .program i page col cws }))
    else none

/-- The store keys of a page row's column in a segment that is folded: where the codeword lies, and where it goes (R322). -/
def foldKeys (s : State) (f : Fold) (page col cw : Nat) : Nat × Nat :=
  let k := colChannel page col
  let (l, b, pg) := segPhys s (segOf s f.seg) page k
  (cwKey l b pg cw, cwKey l ((superOf s f.target).blocks.getD k 0) page cw)

/-- Whether a page of a segment that is folded holds a codeword. -/
def foldHolds (s : State) (f : Fold) (n : Nat) : Bool :=
  (List.range 4).any (fun cw => (cwAt s (foldKeys s f (n / 16) (n % 16) cw).1).isSome)

/-- The page that a fold programs next: one to be repeated, else the next that holds a codeword. -/
def foldPage (s : State) (f : Fold) : Option Nat :=
  match f.again with
  | some n => some n
  | none => ((List.range (segPages s)).drop f.next).find? (foldHolds s f)

/-- Whether a fold still reads a codeword of a page (R322 step 1). -/
def foldReads (s : State) (f : Fold) (n : Nat) : Bool :=
  s.fl.reads.any (fun r =>
    let a := faddrOf r.addr
    r.why == .fold && a.seg == f.seg && a.page == n / 16 && a.col == n % 16)

/-- The LUN of a fold's next page, and the block it goes to, once its codewords have been read. -/
def foldNext (s : State) : Option (Fold × Nat × Nat × Nat) :=
  match s.fl.fold with
  | none => none
  | some f =>
    match foldPage s f with
    | none => none
    | some n =>
      let k := colChannel (n / 16) (n % 16)
      let x := superOf s f.target
      if foldReads s f n then none else some (f, n, posLun x.pos k, x.blocks.getD k 0)

/-- A fold's next page program starts (R322 step 2). -/
def tryFold (s : State) (lun : Nat) : Option State :=
  match foldNext s with
  | none => none
  | some (f, n, l, b) =>
    if l = lun ∧ lunFree s lun b = true then
      let g : Fold := if f.again = some n then f else { f with next := n + 1 }
      let s1 : State := { s with fl := { s.fl with fold := some g } }
      some (onLun s1 lun (fun x => { x with op := .fold (n / 16) (n % 16) }))
    else none

/-- The program that starts on a LUN, if one does: durable writes go ahead of relocations, those ahead of a fold. -/
def startProgram (s : State) (lun : Nat) : Option State :=
  ((tryProgram s lun false).or (tryProgram s lun true)).or (tryFold s lun)

/-- FLASH_PROGRAM (R320, R322, R326, R327). -/
def execFlashProgram (lun : Fin 512) (s : State) : Host.Outcome State Fault Refusal :=
  .next ((startProgram s lun.val).getD s)

/-! ### Channels (R327) -/

/-- The channels on which the next programs lie. -/
def programChannels (s : State) : List Nat :=
  ([pageNext s false, pageNext s true].filterMap (fun x => x.map (fun y => (pagePhys s y.1 y.2.1 y.2.2.1).1 / 16)))
  ++ ((foldNext s).map (fun x => x.2.2.1 / 16)).toList

/-- Whether a channel has something queued or running. -/
def chanBusy (s : State) (ch : Nat) : Bool :=
  s.fl.reads.any (fun r => r.lun.val / 16 == ch && !r.absent)
  || s.fl.luns.any (fun kv => kv.1 / 16 == ch && (kv.2.op != .idle || kv.2.suspended.isSome || !kv.2.eraseQ.isEmpty))
  || (s.plan.ready && (programChannels s).contains ch)

/-- A channel with nothing queued or running enters its low-power state. -/
def sleepChannel (s : State) (lun : Nat) : State :=
  if chanBusy s (lun / 16) then s else { s with fl := { s.fl with chanLow := setBit s.fl.chanLow (lun / 16) true } }

/-- CHANNEL_WAKE (R327): a channel with something queued leaves its low-power state. -/
def execChannelWake (ch : Fin 32) (s : State) : Host.Outcome State Fault Refusal :=
  .next (if chanBusy s ch.val then { s with fl := { s.fl with chanLow := setBit s.fl.chanLow ch.val false } } else s)

/-- A LUN's operation is over. -/
def lunDone (s : State) (lun : Nat) : State := onLun s lun (fun x => { x with op := .idle, resumed := none })

/-! ### Programs that end (R320, R323) -/

/-- The landed copy of one migration (R307, R324); an image whose migration has been dropped is dead. -/
def landCopy (s : State) (mig dst seg size : Nat) : State :=
  match migOf s mig with
  | some m =>
    onSeg (landMig s m dst) seg (fun g => { g with written := g.written + size / 32, live := g.live + size / 32 })
  | none => onSeg s seg (fun g => { g with written := g.written + size / 32 })

/-- One codeword programmed. -/
def landCw (s : State) (seg page col cw : Nat) (p : PackBuf) : State :=
  let g := segOf s seg
  let (l, b, pg) := segPhys s g page (colChannel page col)
  let size := fvSize (ctxOf s p.ctx.toNat)
  let s1 := putCw s (cwKey l b pg cw) (some (p.ctx, p.bytes))
  (List.range p.migs.length).foldl (fun s j =>
    landCopy s (p.migs.getD j 0) (faddrNat ⟨seg, col, page, cw, j * size / 32⟩) seg size) s1

/-- The write tick and program temperature of a block, as its first page since its erase is programmed (R330). -/
def markWritten (s : State) (lun block : Nat) : State :=
  let b := blockInfo s lun block
  if b.begun then s
  else putBlock s lun block { b with writeTick := s.clk.tick, progTemp := (lunOf s lun).temp, begun := true }

/-- The parity codeword of a row's codeword number, if the row has such a codeword (R316). -/
def putParity (s : State) (seg page cw : Nat) : State :=
  let a : FAddr := ⟨seg, parityCol, page, cw, 0⟩
  let (l, b, pg) := pagePhys s seg page parityCol
  if stripeOthers s a = [] then s else putCw s (cwKey l b pg cw) (some (0, stripeXor s a))

/-- A segment closes with its last page (R317, R325). -/
def closeFull (s : State) (seg : Nat) : State :=
  if segPages s ≤ (segOf s seg).nextCw ∧ lunsRun s (programs (fun i _ => i == seg)) = false ∧ (segOf s seg).state = .open_
      ∧ mapWaits s seg = false then closeSeg s seg else s

/-- A program that passed: its images are durable, or its row has its parity. -/
def programPassed (s : State) (lun seg page col : Nat) (cws : List PackBuf) : State :=
  let (l, b, _) := pagePhys s seg page col
  let s1 := markWritten (lunDone s lun) l b
  let s2 :=
    if col = parityCol then (List.range 4).foldl (fun s cw => putParity s seg page cw) s1
    else (List.range cws.length).foldl (fun s k => landCw s seg page col k (cws.getD k ⟨0, 0, [], [], false, false⟩)) s1
  closeFull s2 seg

/-- A block queued for retirement (R332). -/
def queueRetire (s : State) (lun block : Nat) (c : RetireCause) : State :=
  { s with fl := { s.fl with retireQ := s.fl.retireQ ++ [(lun, block, c)] } }

/-- A program that failed (R323): repeated once at the next page row, after the parity page of its own; then the block is retired, the
segment closes, and the codewords wait for the next open segment. A row whose parity page failed has none (log 140). -/
def programFailed (s : State) (lun seg page col : Nat) (cws : List PackBuf) : State :=
  let (l, b, _) := pagePhys s seg page col
  let s1 := bump (lunDone s lun) .flashProgFail
  let again := cws.any (·.again)
  let s2 : State := { s1 with fl := { s1.fl with writeQ := cws.map (fun p => { p with again := !again }) ++ s1.fl.writeQ } }
  if again then (if mapWaits s2 seg then queueRetire s2 l b .program else closeSeg (queueRetire s2 l b .program) seg)
  else closeFull (onSeg s2 seg (fun g => { g with nextCw := max g.nextCw (16 * page + parityCol) })) seg

/-- A fold ends: the map flips at the boundary (R317, R322 step 3). -/
def foldDone (s : State) (f : Fold) : State :=
  bump (queueMap { s with fl := { s.fl with fold := none } } ⟨f.seg, .tlc, [f.target]⟩) .fold

/-- Whether every page of a fold has been programmed. -/
def foldFull (s : State) (f : Fold) : Bool :=
  (foldPage s f).isNone && !lunsRun s (fun o => match o with | .fold _ _ => true | _ => false)

/-- A page of a fold is programmed (R322): its codewords, unchanged. -/
def foldPassed (s : State) (lun page col : Nat) : State :=
  match s.fl.fold with
  | none => lunDone s lun
  | some f =>
    let k := colChannel page col
    let s1 := markWritten (lunDone s lun) lun ((superOf s f.target).blocks.getD k 0)
    let s2 := (List.range 4).foldl (fun s cw =>
      let (a, b) := foldKeys s f page col cw
      putCw s b (cwAt s a)) s1
    let g : Fold := if f.again = some (16 * page + col) then { f with again := none } else f
    let s3 : State := { s2 with fl := { s2.fl with fold := some g } }
    if foldFull s3 g then foldDone s3 g else s3

/-- A fold given up: its reads that have not been sent go, and the superblock it wrote is erased. -/
def dropFold (s : State) (f : Fold) : State :=
  let rs := s.fl.reads.filter (fun r => !(r.why == .fold && r.stage == .queued))
  eraseSuper { s with fl := { s.fl with fold := none, reads := rs } } f.target

/-- A page program of a fold failed (R323): repeated once, and then the block is retired and the fold given up (log 139). -/
def foldFailed (s : State) (lun page col : Nat) : State :=
  let s1 := bump (lunDone s lun) .flashProgFail
  match s1.fl.fold with
  | none => s1
  | some f =>
    if f.again.isSome then
      dropFold (queueRetire s1 lun ((superOf s1 f.target).blocks.getD (colChannel page col) 0) .program) f
    else { s1 with fl := { s1.fl with fold := some { f with again := some (16 * page + col) } } }

/-- FLASH_PROGRAM_DONE (R320, R322, R323). -/
def execFlashProgramDone (lun : Fin 512) (pass : Bool) (s : State) : Host.Outcome State Fault Refusal :=
  .next (
    match (lunOf s lun.val).op with
    | .program seg page col cws =>
      sleepChannel (if pass then programPassed s lun.val seg page col cws else programFailed s lun.val seg page col cws) lun.val
    | .fold page col => sleepChannel (if pass then foldPassed s lun.val page col else foldFailed s lun.val page col) lun.val
    | _ => s)

/-- FLASH_ERASE (R323, R327): a queued erase starts on a LUN for which nothing of a lower class waits. -/
def execFlashErase (lun : Fin 512) (block : BitVec 16) (s : State) : Host.Outcome State Fault Refusal :=
  .next (
    let x := lunOf s lun.val
    match x.eraseQ.find? (fun q => q.1 == block.toNat) with
    | none => s
    | some q =>
      if x.op = .idle ∧ x.suspended = none ∧ lunWaits s lun.val 3 = false ∧ (startProgram s lun.val).isNone = true
          ∧ chanAsleep s lun.val = false then
        onLun s lun.val (fun x => { x with op := .erase q.1 q.2, eraseQ := x.eraseQ.erase q })
      else s)

/-! ### Superblocks after their segment (R326, R332) -/

/-- The superblock that holds a block of a LUN. -/
def superWith (s : State) (lun block : Nat) : Option Nat :=
  ((allSupers s).find? (fun kv => (List.range 16).any (fun k => posLun kv.2.pos k == lun && kv.2.blocks.getD k 0 == block))).map (·.1)

/-- Whether a segment, a fold, or a fold that left it behind still holds a superblock. -/
def superHeld (s : State) (i : Nat) : Bool :=
  s.fl.fold.any (fun f => f.target == i) || s.fl.mapNext.any (fun x => x.sbs.contains i) ||
  s.fl.segs.any (fun kv => kv.2.state != .free && kv.2.sbs.contains i) || s.fl.left.any (fun x => x.1 == i)

/-- Whether a block of a superblock waits for its erase or is being erased. -/
def superErasing (s : State) (x : Super) : Bool :=
  (List.range 16).any (fun k =>
    let l := lunOf s (posLun x.pos k)
    let b := x.blocks.getD k 0
    let on (o : LunOp) : Bool := match o with | .erase c _ => c == b | _ => false
    l.eraseQ.any (fun q => q.1 == b) || on l.op || (match l.suspended with | some o => on o | none => false))

/-- A superblock with a retired block is rebuilt with a spare of the same LUN; without one it is dissolved, and its other
blocks join their LUNs' spares (R332). -/
def rebuildSuper (s : State) (i : Nat) : State :=
  let x := superOf s i
  let bad := (List.range 16).filter (fun k => (blockInfo s (posLun x.pos k) (x.blocks.getD k 0)).retired)
  if bad = [] then s
  else if bad.all (fun k => !(tget [] s.fl.spares (posLun x.pos k)).isEmpty) then
    bad.foldl (fun s k =>
      let l := posLun x.pos k
      let sp := tget [] s.fl.spares l
      let y := superOf s i
      let s1 := putSuper s i { y with blocks := lset y.blocks k (sp.headD 0), stale := true }
      { s1 with fl := { s1.fl with spares := tput [] s1.fl.spares l sp.tail } }) s
  else
    let s1 := ((List.range 16).filter (fun k => !bad.contains k)).foldl (fun s k =>
      let l := posLun x.pos k
      { s with fl := { s.fl with spares := tput [] s.fl.spares l (tget [] s.fl.spares l ++ [x.blocks.getD k 0]) } }) s
    putSuper s1 i { x with blocks := [], inUse := true }

/-- A superblock that no segment holds and whose blocks are erased is free again. -/
def settleSuper (s : State) (i : Nat) : State :=
  let x := superOf s i
  if x.blocks = [] ∨ superHeld s i = true ∨ superErasing s x = true then s
  else updateFull (rebuildSuper (putSuper s i { x with inUse := false }) i)

def settleBlock (s : State) (lun block : Nat) : State :=
  match superWith s lun block with
  | some i => settleSuper s i
  | none => s

/-- The codewords of a block go as it is erased. -/
def clearBlock (s : State) (lun block : Nat) : State :=
  let lo := cwKey lun block 0 0
  let hi := cwKey lun (block + 1) 0 0
  { s with fl := { s.fl with store := s.fl.store.filter (fun kv => !(decide (lo ≤ kv.1) && decide (kv.1 < hi))) } }

/-- An erase ends (R323): it counts in the block table; a failed one is repeated once, and then the block is retired. -/
def eraseDone (s : State) (lun block : Nat) (again ok : Bool) : State :=
  let s1 := lunDone s lun
  let b := blockInfo s1 lun block
  if ok then settleBlock (clearBlock (putBlock s1 lun block { b with erases := b.erases + 1, begun := false }) lun block) lun block
  else
    let s2 := bump s1 .flashProgFail
    if again then queueRetire s2 lun block .erase
    else onLun s2 lun (fun x => { x with eraseQ := x.eraseQ ++ [(block, true)] })

/-- FLASH_ERASE_DONE (R323). -/
def execFlashEraseDone (lun : Fin 512) (ok : Bool) (s : State) : Host.Outcome State Fault Refusal :=
  .next (
    match (lunOf s lun.val).op with
    | .erase block again => sleepChannel (eraseDone s lun.val block again ok) lun.val
    | _ => s)

def retireCode : RetireCause → Nat
  | .program => 0
  | .erase => 1
  | .parity => 2
  | .replica => 3
  | .lost => 4

/-- A block retired (R332): marked, counted, its segment queued for refresh; a superblock that no segment holds is rebuilt at
once. -/
def retireBlock (s : State) (lun block : Nat) (c : RetireCause) : State :=
  let s1 := putBlock s lun block { blockInfo s lun block with retired := true }
  let s2 := bump { s1 with fl := { s1.fl with retiredCnt := min 65535 (s1.fl.retiredCnt + 1) } } .blockRetire
  let s3 := raiseEvent s2 (evBlockRetire (lun / 16))
    (packFields [(3, lun % 16 / 2), (1, lun % 2), (12, 0), (16, block), (8, retireCode c)])
  let sp := (tget [] s3.fl.spares lun).filter (· != block)
  let s4 : State := { s3 with fl := { s3.fl with spares := tput [] s3.fl.spares lun sp } }
  match superWith s4 lun block with
  | none => s4
  | some i =>
    let segs := tmapAll Seg.reset (fun _ g => if g.state != .free && g.sbs.contains i then { g with refresh := true } else g) s4.fl.segs
    settleSuper { s4 with fl := { s4.fl with segs := segs } } i

/-- BLOCK_RETIRE (R332): a block that a failed program, a failed erase or a remedy queued. One that is retired already has its
superblock rebuilt or dissolved if nothing holds it any more. -/
def execBlockRetire (lun : Fin 512) (block : BitVec 16) (cause : RetireCause) (s : State) : Host.Outcome State Fault Refusal :=
  .next (
    let x := (lun.val, block.toNat, cause)
    if s.fl.retireQ.contains x then
      let s1 : State := { s with fl := { s.fl with retireQ := s.fl.retireQ.filter (fun y => !(y.1 == lun.val && y.2.1 == block.toNat)) } }
      if (blockInfo s lun.val block.toNat).retired then settleBlock s1 lun.val block.toNat
      else retireBlock s1 lun.val block.toNat cause
    else s)

/-! ### Folding (R322) -/

/-- The segment that a fold takes: in SLC state, the earliest closed, the lowest on a tie. -/
def foldChoice (s : State) : Option Nat :=
  (bestBy (fun a b => decide (a.2.closeTick < b.2.closeTick))
    (s.fl.segs.filter (fun kv => kv.2.state == .slc && !mapWaits s kv.1))).map (·.1)

/-- The addresses of a segment's codewords that hold data, parity included. -/
def segCws (s : State) (i : Nat) : List FAddr :=
  ((List.range (segPages s)).flatMap (fun n => (List.range 4).map (fun cw => FAddr.mk i (n % 16) (n / 16) cw 0))).filter
    (fun a => (faddrCw s a).isSome)

/-- A fold begins (R322): a TLC superblock of the segment's position is taken, and the segment's codewords are read as relocation
reads. -/
def startFold (s : State) (i : Nat) (t : Nat × Super) : State :=
  let s1 := putSuper s t.1 { t.2 with inUse := true, stale := false }
  let s2 := if t.2.stale then eraseSuper s1 t.1 else s1
  let s3 : State := { s2 with fl := { s2.fl with fold := some ⟨i, t.1, 0, none⟩ } }
  let l := segCws s i
  if l = [] then foldDone s3 ⟨i, t.1, 0, none⟩
  else l.foldl (fun s a => queueRead s .fold (((faddrCw s a).map (·.1)).getD 0) 0 none (faddrNat a) 3 0) s3

/-- FOLD (R322, R473): while the buffer's fill is 70 % or more, 90 % while power is shed, one segment at a time. -/
def execFold (s : State) : Host.Outcome State Fault Refusal :=
  .next (
    let need := if s.pow.shed = 0 then 70 else 90
    if s.fl.fold = none ∧ slcPoolSize s ≠ 0 ∧ need * slcPoolSize s ≤ 100 * slcUsed s then
      match foldChoice s with
      | none => s
      | some i =>
        match (freeSupers s false).find? (fun x => x.2.pos == (segOf s i).pos) with
        | some t => startFold s i t
        | none => s
    else s)

/-! ### Collection (R325, R326) -/

/-- SCORE of a segment (R325). -/
def gcScore (s : State) (g : Seg) : Int :=
  let inv : Nat := if g.written = 0 then 0 else 65535 * (g.written - g.live) / g.written
  let age : Nat := min 65535 ((s.clk.tick - g.closeTick) / 2 ^ s.fl.ageShift.toNat)
  let mean : Nat := superWear s (superOf s (g.sbs.headD 0)) / 16
  let wear : Nat := if s.fl.eraseLimit = 0 then 65535 else min 65535 (65535 * mean / s.fl.eraseLimit.toNat)
  (s.fl.wInv.toNat * inv : Nat) + (s.fl.wAge.toNat * age : Nat) - (s.fl.wWear.toNat * wear : Nat)

/-- Whether collection for space is on (R325): from fewer than GC_LOW free segments until GC_LOW + 8. -/
def gcWanted (s : State) : Bool :=
  decide (freeTlc s < s.fl.gcLow.toNat) || (s.fl.gcOn && decide (freeTlc s < s.fl.gcLow.toNat + 8))

/-- Whether shedding lets collection run (R473). -/
def gcAllowed (s : State) : Bool := s.pow.shed == 0 || decide (freeTlc s < s.fl.gcLow.toNat / 2)

/-- The segment to collect: one queued for refresh first, else the TLC segment with the highest score, the lower on a tie. -/
def gcChoice (s : State) : Option Nat :=
  let closed := s.fl.segs.filter (fun kv => kv.2.state == .slc || kv.2.state == .tlc)
  match closed.find? (fun kv => kv.2.refresh) with
  | some kv => some kv.1
  | none =>
    if gcWanted s && gcAllowed s then
      (bestBy (fun a b => decide (gcScore s b.2 < gcScore s a.2)) (closed.filter (fun kv => kv.2.state == .tlc))).map (·.1)
    else none

/-- GARBAGE_COLLECT (R325). -/
def execGarbageCollect (s : State) : Host.Outcome State Fault Refusal :=
  .next (
    if s.fl.collecting.isSome then s
    else { s with fl := { s.fl with collecting := gcChoice s, gcOn := gcWanted s } })

/-- The live image at an address (R326 step 1): its context, shard copy and item. -/
def liveAt (s : State) (addr : Nat) : Option (CtxId × ShardCopy × BitVec 36) :=
  match faddrCw s (faddrOf addr) with
  | none => none
  | some (ctx, b) =>
    let c := ctxOf s ctx.toNat
    let item := (headerOf (slice b ((faddrOf addr).off * 32) 16)).item
    match heldCopy s ctx item with
    | none => none
    | some k =>
      match dirLook s k item with
      | none => none
      | some e =>
        if !e.deleted && ((e.flash && e.fvLoc == addr) || (!e.flash && !e.staged && trailerOf s c (32 * e.fvLoc) == addr)) then
          some (ctx, k, item)
        else none

/-- A relocation begins (R326): the image is read, and then packed for the relocation segment. -/
def startRelocation (s : State) (ctx : CtxId) (k : ShardCopy) (item : BitVec 36) (addr : Nat) : State :=
  let id := s.upd.nextMig
  queueRead (addMig s .relocation ctx k.shard item addr 0 false) (.relocation id) ctx item (presentVersion s ctx item) addr 3 0

/-- GC_RELOCATE (R326): an image of the segment being collected, with no open change entry. -/
def execGcRelocate (seg : BitVec 15) (addr : BitVec 40) (s : State) : Host.Outcome State Fault Refusal :=
  .next (
    if s.fl.collecting = some seg.toNat ∧ (faddrOf addr.toNat).seg = seg.toNat ∧ s.upd.migs.length < 256 then
      match liveAt s addr.toNat with
      | none => s
      | some (ctx, k, item) =>
        if migrating s ctx item = false ∧ itemChgs s ctx k.shard item = [] then startRelocation s ctx k item addr.toNat else s
    else s)

/-- Whether a queued or running read, or a remedy of one, names an address in a segment. -/
def segRead (s : State) (i : Nat) : Bool := s.fl.reads.any (fun r => (faddrOf r.addr).seg == i)

/-- The superblocks that a fold of the segment left behind are erased (R326). -/
def eraseLeft (s : State) (i : Nat) : State :=
  let due (x : Nat × Nat × Nat) : Bool := x.2.1 == i && decide (x.2.2 + 64 ≤ s.clk.tick)
  if segRead s i ∨ s.clk.tick < (segOf s i).lastFlip + 64 then s
  else
    let l := s.fl.left.filter due
    l.foldl (fun s x => eraseSuper s x.1) { s with fl := { s.fl with left := s.fl.left.filter (fun x => !due x) } }

/-- Whether a segment may become FREE (R326): closed, LIVE 0, 64 ticks after its last relocation flip, no read of it, no fold. -/
def mayFree (s : State) (i : Nat) : Bool :=
  let g := segOf s i
  (g.state == .slc || g.state == .tlc) && g.live == 0 && decide (g.lastFlip + 64 ≤ s.clk.tick) && !segRead s i
  && !s.fl.fold.any (fun f => f.seg == i)

/-- SEGMENT_ERASE_FREE (R317, R326): a closed segment with LIVE 0 becomes FREE at the boundary, and its blocks are erased. -/
def execSegmentEraseFree (seg : BitVec 15) (s : State) : Host.Outcome State Fault Refusal :=
  .next (
    let s0 := eraseLeft s seg.toNat
    if mayFree s0 seg.toNat && !mapWaits s0 seg.toNat then queueMap s0 ⟨seg.toNat, .free, []⟩ else s0)

/-! ### The boundary (R317) -/

/-- One change of the segment map. A segment that a read has come to name meanwhile stays; the superblocks that a fold leaves behind
wait for their erase (R326). -/
def mapChange (s : State) (x : MapChange) : State :=
  let g := segOf s x.seg
  if x.state = .free then
    if mayFree s x.seg then
      let s1 := g.sbs.foldl eraseSuper (putSeg s x.seg Seg.reset)
      { s1 with fl := { s1.fl with collecting := if s1.fl.collecting = some x.seg then none else s1.fl.collecting } }
    else s
  else
    let s1 := onSeg s x.seg (fun g => { g with state := x.state, sbs := x.sbs })
    let old := g.sbs.filter (fun b => !x.sbs.contains b)
    { s1 with fl := { s1.fl with left := s1.fl.left ++ old.map (fun b => (b, x.seg, s.clk.tick)) } }

/-- The segment map at the boundary (R317, R325, R337): the changes that waited take effect, and segments open for what waits to be
written. -/
def boundaryMap (s : State) : State :=
  let s1 := s.fl.mapNext.foldl mapChange { s with fl := { s.fl with mapNext := [] } }
  updateFull (openWanted (openWanted s1 false) true)

end Sys2Proof.Machine
end

