-- ==== Sys2Proof/Machine/FlashReads.lean ====
section
/-! DEFINITION. Flash reads: their queues, array reads and remedies, the partner replica, suspension, channels (R318, R327 to R334,
R501). -/

namespace Sys2Proof.Machine

open Sys2Proof

/-! ### Where data go -/

/-- The copy of a promotion lands (R306, R307): the image in its hot slot, with its trailer. A burst whose kept bytes stay
uncorrectable drops the migration (R120). -/
def promotionLands (s : State) (m : Mig) (img : List Byte) : State :=
  match nodeWrite s (32 * m.dst) (img ++ leBytes 5 m.src ++ List.replicate 27 0) [] (some m.ctx) with
  | (s1, true) => landMig s1 m m.dst
  | (s1, false) => bump (cancelPromotion s1 m) .migrateDrop

/-- A flash read whose data cannot be used (R50, R85): counted and raised with its location (R475). -/
def flashUncorr (s : State) (r : FRead) : State :=
  let a := faddrOf r.addr
  let (_, _, pg) := faddrPhys s a
  raiseUncorr (bump s .uncorrFlash) 5 (packFields [(9, r.lun.val), (16, r.block), (12, pg), (2, a.cw)]) (some r.ctx)

/-- A plan read's image lands (R258, R334): the bytes and ARRIVED; an image that is not the one looked for is UNREADABLE (R50,
R84); an ARRIVED one is queued for promotion (R307). -/
def elemLands (s : State) (r : FRead) (id : Nat) (img : List Byte) : State :=
  match elemOf s id with
  | none => s
  | some e =>
    match e.kind with
    | .fetchFlash _ dst _ =>
      if elemLate s e then endElem s e .late
      else if imageRight (ctxOf s r.ctx.toNat) r.item r.version img then
        queuePromotion (landData s e dst img .arrived) (some (r.ctx, r.item, r.addr))
      else endElem (flashUncorr s r) e .unreadable
    | _ => s

/-- A REPLICA frame's first cell: what it is (0 a request, 1 an image), context, item and version (log 18). -/
def replicaHead (kind : Nat) (ctx : CtxId) (item : BitVec 36) (v : BitVec 24) : List Byte :=
  leBytes 1 kind ++ leBytes 2 ctx.toNat ++ leBytes 5 item.toNat ++ leBytes 3 v.toNat

/-- The version that the image of a read must have: a request of the other holder names 0 for an image whose version it does not know
(log 142). -/
def askedVersion (r : FRead) : Option (BitVec 24) := if r.version = some 0 then none else r.version

/-- The image of a read goes to whatever it serves. A holder that was asked for an image sends the one of that version (R333); codewords
read for a fold or for die parity are used where they lie. -/
def deliver (s : State) (r : FRead) (img : List Byte) : State :=
  match r.why with
  | .elem id => elemLands s r id img
  | .promotion m => match migOf s m with | some x => promotionLands s x img | none => s
  | .relocation m => match migOf s m with | some x => packImage s x.ctx x.id img true | none => s
  | .replica src =>
    if imageRight (ctxOf s r.ctx.toNat) r.item (askedVersion r) img then
      sendFrame s tyReplica src false (cellsOf (replicaHead 1 r.ctx r.item (r.version.getD 0) ++ img))
    else s
  | .prepare n fn sq => prepareLands s ⟨n, fn, sq, r.ctx, r.item, []⟩ img
  | .fold => s
  | .stripe _ => s

/-- The bytes that a read names. -/
def readImage (s : State) (r : FRead) : List Byte := faddrBytes s (faddrOf r.addr) (fvSize (ctxOf s r.ctx.toNat))

/-! ### Reads that end -/

/-- A read is finished and leaves. -/
def endRead (s : State) (r : FRead) : State := sleepChannel (dropRead s r.id) r.lun.val

/-- A read that a remedy or the array answered, with the image it brings. -/
def finishRead (s : State) (r : FRead) (img : List Byte) : State := endRead (deliver s r img) r

/-- A read whose own codeword decoded. -/
def readDone (s : State) (r : FRead) : State := finishRead s r (readImage s r)

/-! ### Sending (R327, R328) -/

/-- Reads queued for a LUN whose location holds data (R318). -/
def sendable (s : State) (lun : Nat) : List FRead :=
  s.fl.reads.filter (fun r => r.lun.val == lun && r.stage == .queued && !r.absent)

/-- The heads of the contexts' class 1 queues on a LUN. -/
def planHeads (l : List FRead) : List FRead :=
  (l.filter (fun r => r.cls == 1)).foldl (fun acc r => if acc.any (fun x => x.ctx == r.ctx) then acc else acc ++ [r]) []

/-- A context's distance from a LUN's round-robin pointer. -/
def lunDist (s : State) (lun : Nat) (c : CtxId) : Nat := (c.toNat + 4096 - (lunOf s lun).rr % 4096) % 4096

/-- The read that goes next to a LUN (R327, R328): the lowest class; within class 1 the smallest finish time, then the pointer;
only classes 1 and 2 while an operation is suspended, or a remedy of class 2 waits (R331). -/
def nextRead (s : State) (lun : Nat) : Option FRead :=
  let l := sendable s lun
  match bestBy (fun a b => decide (a.finish < b.finish) || (a.finish == b.finish && decide (lunDist s lun a.ctx < lunDist s lun b.ctx)))
      (planHeads l) with
  | some r => some r
  | none =>
    match l.find? (fun r => r.cls == 2) with
    | some r => some r
    | none => if (lunOf s lun).suspended.isSome || remedyWaits s lun then none else l.find? (fun r => r.cls == 3)

/-- The next read of a context's queue becomes its head; `backlogged` when the one before it was sent (R327, R452). -/
def tagNextRead (s : State) (lun : Nat) (c : CtxId) (backlogged : Bool) : State :=
  match (planQueue s lun c).head? with
  | none => s
  | some r =>
    let (st, fi) := readTags s lun c backlogged
    onRead s r.id (fun x => { x with start := st, finish := fi })

/-- A read sent to its LUN, with the map as it stands (R317) and the first ladder step (R330). -/
def sendRead (s : State) (lun : Nat) (r : FRead) : State :=
  let (_, b, _) := faddrPhys s (faddrOf r.addr)
  let s1 := onRead s r.id (fun x => { x with stage := .sent, block := b, s0 := firstStep s lun b, tried := [firstStep s lun b] })
  let s2 := onLun s1 lun (fun x => { x with op := .read r.id })
  if r.cls = 1 then
    let s3 := onLun s2 lun (fun x => { x with vtime := max x.vtime r.finish, rr := (r.ctx.toNat + 1) % 4096 })
    tagNextRead { s3 with fl := { s3.fl with flast := tput 0 s3.fl.flast (lunCtxKey lun r.ctx) r.finish } } lun r.ctx true
  else s2

/-- FLASH_READ_SEND (R327): not while the active plan is refused (R271), for plan reads of phases that the refusal withholds are
never queued. -/
def execFlashReadSend (lun : Fin 512) (s : State) : Host.Outcome State Fault Refusal :=
  .next (
    if (lunOf s lun.val).op ≠ .idle ∨ chanAsleep s lun.val = true then s
    else
      match nextRead s lun.val with
      | some r => sendRead s lun.val r
      | none => s)

/-- Class 1 or class 2 reads wait for a LUN. -/
def urgentReads (s : State) (lun : Nat) : Bool := (sendable s lun).any (fun r => decide (r.cls ≤ 2)) || remedyWaits s lun

/-- Whether a LUN programs or erases. -/
def suspendable (o : LunOp) : Bool :=
  match o with
  | .program _ _ _ _ => true
  | .erase _ _ => true
  | .fold _ _ => true
  | _ => false

/-- The least run of an operation after a resume, 10 µs, in ticks of 0.64 µs (R328, R329). -/
def leastRun : Nat := 16

/-- FLASH_SUSPEND (R328): not before an operation that was resumed has run for 10 µs. -/
def execFlashSuspend (lun : Fin 512) (s : State) : Host.Outcome State Fault Refusal :=
  .next (
    let x := lunOf s lun.val
    let ran := match x.resumed with | none => true | some r => decide (r + leastRun ≤ s.clk.tick)
    if suspendable x.op && x.suspended.isNone && urgentReads s lun.val && ran then
      bump (onLun s lun.val (fun x => { x with suspended := some x.op, op := .idle })) .flashSuspend
    else s)

/-- FLASH_RESUME (R328): every class 1 and class 2 read queued for the LUN has been served. -/
def execFlashResume (lun : Fin 512) (s : State) : Host.Outcome State Fault Refusal :=
  .next (
    let x := lunOf s lun.val
    match x.suspended with
    | some o =>
      if x.op = .idle ∧ urgentReads s lun.val = false then
        onLun s lun.val (fun x => { x with op := o, suspended := none, resumed := some s.clk.tick })
      else s
    | none => s)

/-- FLASH_READ_CANCEL (R334): a plan read still queued when its deadline tick has ended. Where it headed its queue, the next one does
so now, as a queue that wakes. -/
def execFlashReadCancel (id : Nat) (s : State) : Host.Outcome State Fault Refusal :=
  .next (
    match readOf s id with
    | none => s
    | some r =>
      if r.cls = 1 ∧ r.stage = .queued ∧ r.absent = false ∧ r.deadline < s.clk.tick then
        let s1 := bump (endRead s r) .flashCancel
        let s2 := if (planQueue s r.lun.val r.ctx).head? = some r then tagNextRead s1 r.lun.val r.ctx false else s1
        match r.why with
        | .elem e => match elemOf s2 e with | some x => endElem s2 x .late | none => s2
        | _ => s2
      else s)

/-- A read of a discarded location reaches what it serves: zero bytes, ABSENT (R318). -/
def discardLands (s : State) (r : FRead) : State :=
  match r.why with
  | .elem id =>
    match elemOf s id with
    | some e => match e.kind with
      | .fetchFlash _ dst n => landData s e dst (List.replicate n 0) .absent
      | _ => s
    | none => s
  | .promotion m => match migOf s m with | some x => giveUpMig s x | none => s
  | .relocation m => match migOf s m with | some x => giveUpMig s x | none => s
  | _ => s

/-- A read of a location that holds no data ends (R318). -/
def discardRead (s : State) (r : FRead) : State := discardLands (bump (endRead s r) .flashDiscardRead) r

/-- FLASH_DISCARD_READ (R318): in the tick after the read was queued. -/
def execFlashDiscardRead (id : Nat) (s : State) : Host.Outcome State Fault Refusal :=
  .next (
    match readOf s id with
    | none => s
    | some r => if r.absent = true ∧ s.clk.tick = r.queued + 1 then discardRead s r else s)

/-- The reads of locations without data that were queued in the tick before have landed as the tick ends (R318). -/
def landDiscards (s : State) : State :=
  (s.fl.reads.filter (fun r => r.absent && decide (r.queued + 1 ≤ s.clk.tick))).foldl discardRead s

/-! ### Array reads and remedies (R329 to R332) -/

/-- The segment of a read is queued for refresh. -/
def refreshSeg (s : State) (r : FRead) : State := onSeg s (faddrOf r.addr).seg (fun g => { g with refresh := true })

/-- A FLASH_HARD rehearsal: first reads on the LUN fail their hard decode (R424). -/
def rehFlash (s : State) (lun : Nat) : Bool := s.mach.rehActive && s.mach.rehKind == 6 && s.mach.rehTarget.toNat == lun

/-- The channel's bus pointer moves past a LUN's position, whose data have been transferred (R327). -/
def busPass (s : State) (lun : Nat) : State :=
  { s with fl := { s.fl with busRr := tput 0 s.fl.busRr (lun / 16) ((lun % 16 + 1) % 16) } }

/-- A LUN position's distance from its channel's bus pointer. -/
def busDist (s : State) (lun : Nat) : Nat := (lun % 16 + 16 - tget 0 s.fl.busRr (lun / 16) % 16) % 16

/-- A codeword transferred and hard-decoded (R329, R332). -/
def transfer (s : State) (x : FRead × Bool) : State :=
  let r := x.1
  let s1 := busPass (onLun s r.lun.val (fun y => { y with op := .idle })) r.lun.val
  if x.2 && !rehFlash s r.lun.val then readDone (bump s1 .flashRead) r else onRead s1 r.id (fun y => { y with stage := .ladder })

/-- The order in which data that are ready go over their channels' buses (R327): by class, then from each channel's pointer on. -/
def busBefore (s : State) (a b : FRead × Bool) : Bool :=
  decide (a.1.cls < b.1.cls) || (a.1.cls == b.1.cls && decide (busDist s a.1.lun.val < busDist s b.1.lun.val))

/-- The transfers, one after the other: after each the pointer stands elsewhere. -/
def transferAll : Nat → List (FRead × Bool) → State → State
  | 0, _, s => s
  | n + 1, l, s =>
    match bestBy (busBefore s) l with
    | none => s
    | some x => transferAll n (l.erase x) (transfer s x)

/-- Whether a LUN's array read of a read is what it runs. -/
def readRuns (s : State) (r : FRead) : Bool := r.stage == .sent && (lunOf s r.lun.val).op == .read r.id

/-- FLASH_ARRAY_READ_DONE (R327, R329, R332): the data of array reads are ready; each is transferred as its channel's bus is arbited,
and hard-decoded. -/
def execFlashArrayReadDone (ready : List (Nat × Bool)) (s : State) : Host.Outcome State Fault Refusal :=
  .next (
    let l := ready.filterMap (fun x => (readOf s x.1).map (fun r => (r, x.2)))
    let one := l.filter (fun x => readRuns s x.1)
    transferAll one.length (uniq one) s)

/-- Whether a remedy of a read may use its LUN now (R327, R331): it runs in class 2. -/
def remedyMayRun (s : State) (r : FRead) : Bool :=
  (lunOf s r.lun.val).op == .idle && !chanAsleep s r.lun.val && !(sendable s r.lun.val).any (fun x => x.cls == 1)

/-- FLASH_LADDER_REREAD (R331): the next step of the ladder. -/
def execFlashLadderReread (id : Nat) (decodes : Bool) (s : State) : Host.Outcome State Fault Refusal :=
  .next (
    match readOf s id with
    | none => s
    | some r =>
      if r.stage = .ladder ∧ remedyMayRun s r = true then
        match (ladderSteps r.s0).drop (r.tried.length - 1) with
        | [] => onRead s id (fun x => { x with stage := .soft })
        | st :: rest =>
          if decodes then readDone (bump (refreshSeg (busPass s r.lun.val) r) .flashLadder) r
          else onRead (busPass s r.lun.val) id (fun x => { x with tried := x.tried ++ [st], stage := if rest = [] then .soft else .ladder })
      else s)

/-- Die parity begins (R331): the stripe's other codewords are read in class 2 on their channels. -/
def startParity (s : State) (r : FRead) : State :=
  (stripeOthers s (faddrOf r.addr)).foldl (fun s a => queueRead s (.stripe r.id) (((faddrCw s a).map (·.1)).getD 0) 0 none (faddrNat a) 2 0)
    (onRead s r.id (fun x => { x with stage := .parity }))

/-- A codeword fails remedies 1 and 2 (R331): one of another's stripe ends that die parity, any other has its own. -/
def softFailed (s : State) (r : FRead) : State :=
  match r.why with
  | .stripe p => endRead (onRead s p (fun x => { x with stripeBad := true })) r
  | _ => startParity s r

/-- FLASH_SOFT_DECODE (R331). -/
def execFlashSoftDecode (id : Nat) (decodes : Bool) (s : State) : Host.Outcome State Fault Refusal :=
  .next (
    match readOf s id with
    | none => s
    | some r =>
      if r.stage = .soft ∧ remedyMayRun s r = true then
        if decodes then readDone (bump (refreshSeg (busPass s r.lun.val) r) .flashSoft) r else softFailed (busPass s r.lun.val) r
      else s)

/-- Every remedy has failed (R332, R333, R334). -/
def readLost (s : State) (r : FRead) : State :=
  let s2 := flashUncorr (endRead (queueRetire s r.lun.val r.block .lost) r) r
  match r.why with
  | .elem id => match elemOf s2 id with | some e => endElem s2 e (if elemLate s2 e then .late else .unreadable) | none => s2
  | .promotion m => match migOf s2 m with | some x => giveUpMig s2 x | none => s2
  | .relocation m => match migOf s2 m with | some x => giveUpMig s2 x | none => s2
  | _ => s2

/-- Whether the stripe of a codeword is complete: its row has its parity page (R316). -/
def stripeWhole (s : State) (a : FAddr) : Bool :=
  decide (a.col = parityCol) || (faddrCw s { a with col := parityCol, off := 0 }).isSome

/-- FLASH_DIE_PARITY (R331): once the stripe's other codewords have been read. All corrected, their XOR is the lost codeword; a lasting
error retires the block (R332). A codeword that no image's read wanted, a fold's, has no replica to ask for. -/
def execFlashDieParity (id : Nat) (s : State) : Host.Outcome State Fault Refusal :=
  .next (
    match readOf s id with
    | none => s
    | some r =>
      let a := faddrOf r.addr
      if r.stage = .parity ∧ s.fl.reads.any (fun x => x.why == .stripe id) = false then
        if r.stripeBad = false ∧ stripeWhole s a = true then
          finishRead (bump (queueRetire s r.lun.val r.block .parity) .flashParity) r
            (imageIn a (fvSize (ctxOf s r.ctx.toNat)) (stripeXor s a))
        else if r.why = .fold then readLost s r
        else onRead s id (fun x => { x with stage := .replica })
      else s)

/-! ### The partner replica (R333) -/

/-- PARTNER_REPLICA_REQUEST (R333): once for a read whose local remedies have all failed. -/
def execPartnerReplicaRequest (id : Nat) (s : State) : Host.Outcome State Fault Refusal :=
  .next (
    match readOf s id with
    | none => s
    | some r =>
      if r.stage = .replica ∧ s.fl.replicas.any (fun x => x.1 == id) = false then
        let e := shardEnt s r.ctx.toNat (shardOf (ctxOf s r.ctx.toNat).ns r.item.toNat)
        let other := if e.primary = s.aon.nodeId then e.partner else e.primary
        let s1 : State := { s with fl := { s.fl with replicas := s.fl.replicas ++ [(id, s.clk.tick)] } }
        sendFrame s1 tyReplica other false (cellsOf (replicaHead 0 r.ctx r.item (r.version.getD 0)))
      else s)

/-- The image that the other holder sent (R333, R334): it serves the read, and while it is live it is written as a relocation. -/
def replicaArrives (s : State) (r : FRead) (img : List Byte) : State :=
  let s0 : State := { s with fl := { s.fl with replicas := s.fl.replicas.filter (fun x => x.1 != r.id) } }
  let s1 := bump (queueRetire s0 r.lun.val r.block .replica) .flashReplica
  let s2 := endRead (deliver s1 r img) r
  match liveAt s2 r.addr with
  | some (ctx, k, item) =>
    if s2.upd.migs.length < 256 ∧ migrating s2 ctx item = false ∧ itemChgs s2 ctx k.shard item = [] then
      packImage (addMig s2 .relocation ctx k.shard item r.addr 0 false) ctx s2.upd.nextMig img true
    else s2
  | none => s2

/-- The read that waits for the image of an item and version. -/
def replicaWaits (s : State) (ctx : CtxId) (item : BitVec 36) (v : BitVec 24) : Option FRead :=
  s.fl.reads.find? (fun r => r.stage == .replica && r.ctx == ctx && r.item == item && r.version.getD 0 == v
    && s.fl.replicas.any (fun x => x.1 == r.id))

/-- A REPLICA frame's bytes that hold an image reach the node that asked. -/
def replicaFrame (s : State) (d : List Byte) : State :=
  if leAt d 0 1 = 1 then
    let ctx : CtxId := BitVec.ofNat 12 (leAt d 1 2)
    match replicaWaits s ctx (BitVec.ofNat 36 (leAt d 3 5)) (BitVec.ofNat 24 (leAt d 8 3)) with
    | some r => replicaArrives s r (slice d 11 (fvSize (ctxOf s ctx.toNat)))
    | none => s
  else s

/-- PARTNER_REPLICA_SERVE (R333): the holder's copy, through its plan-read path in class 2; an image in memory is returned at
once. -/
def execPartnerReplicaServe (src : NodeId) (ctx : CtxId) (item : BitVec 36) (version : BitVec 24) (s : State) :
    Host.Outcome State Fault Refusal :=
  .next (
    match heldCopy s ctx item with
    | none => s
    | some k =>
      match dirLook s k item with
      | none => s
      | some e =>
        if e.deleted then s
        else if e.flash then queueRead s (.replica src) ctx item (some version) e.fvLoc 2 0
        else
          let img := memRead s (32 * e.fvLoc) (fvSize (ctxOf s ctx.toNat))
          if imageRight (ctxOf s ctx.toNat) item (if version = 0 then none else some version) img then
            sendFrame s tyReplica src false (cellsOf (replicaHead 1 ctx item version ++ img))
          else s)

/-- PARTNER_REPLICA_TIMEOUT (R333): no answer within 65,536 ticks. -/
def execPartnerReplicaTimeout (id : Nat) (s : State) : Host.Outcome State Fault Refusal :=
  .next (
    match readOf s id with
    | none => s
    | some r =>
      if s.fl.replicas.any (fun x => x.1 == id && decide (x.2 + 65536 ≤ s.clk.tick)) then
        let s0 : State := { s with fl := { s.fl with replicas := s.fl.replicas.filter (fun x => x.1 != id) } }
        let sh := shardOf (ctxOf s r.ctx.toNat).ns r.item.toNat
        readLost (raiseEvent s0 evReplicaFail
          (packFields [(36, r.item.toNat), (20, sh), (12, r.ctx.toNat), (24, (r.version.getD 0).toNat)])) r
      else s)

/-! ### Temperatures and retraining (R330, R501) -/

/-- LUN_TEMP_READ (R330). -/
def execLunTempRead (lun : Fin 512) (temp : Int) (s : State) : Host.Outcome State Fault Refusal :=
  .next (onLun s lun.val (fun x => { x with temp := temp }))

/-- FLASH_CHANNEL_RETRAIN (R501): a channel whose temperature has drifted from its tag, with no class 1 or class 2 read queued
for it. A retrain that passes takes the new tag; each counts. -/
def execFlashChannelRetrain (ch : Fin 32) (ok : Bool) (temp : BitVec 8) (s : State) : Host.Outcome State Fault Refusal :=
  .next (
    let waits := s.fl.reads.any (fun r => r.lun.val / 16 == ch.val && decide (r.cls ≤ 2) && r.stage == .queued)
    if drifted temp (s.fl.chanTag.getD ch.val 0) && !waits then
      let s1 := bump s .flashRetrain
      if ok then { s1 with fl := { s1.fl with chanTag := lset s1.fl.chanTag ch.val temp } } else s1
    else s)

end Sys2Proof.Machine
end

