-- ==== Sys2Proof/Machine/Links.lean ====
section
/-! DEFINITION. Links and static cells (chapter 13): arriving cells, retry, lanes, bypasses (R364, R369 to R375, R392 to R396). -/

namespace Sys2Proof.Machine

open Sys2Proof

/-! ### Registers and tables -/

/-- TEMP_TAG: the tag of the lane whose settings are oldest (R396). -/
def oldestTag (x : Port) : BitVec 8 :=
  let m := x.laneAge.foldl min (x.laneAge.getD 0 0)
  x.laneTags.getD ((firstIdx (· == m) x.laneAge).getD 0) 0

def portStateCode : PortState → Nat
  | .absent => 0
  | .down => 1
  | .trained => 2
  | .up => 3
  | .degraded => 4
  | .failed => 5

/-- PORT_STATUS (R396): an absent port's other fields read zero. -/
def portStatusReg (x : Port) : Nat :=
  if x.state = .absent then 0
  else
    packFields [(21, 0), (1, b2n x.timeSrc), (8, x.tempNow.toNat), (8, (oldestTag x).toNat), (10, x.meas.toNat), (4, x.spare.toNat),
      (9, x.laneFail.toNat), (3, portStateCode x.state)]

def portTab (s : State) (p : Fin 6) : PortTab := s.plan.slots.getD p.val ⟨false, 0, [], []⟩

/-- RT := 1 + ceil((2 × HOP_SLOTS + 16) / 500) (R392). -/
def retryTicks (hop : Nat) : Nat := 1 + (2 * hop + 16 + 499) / 500

/-- A receive-table entry (R371). -/
structure RecvEnt where
  action : Nat
  outPort : Nat
  tile : Nat
  offset : Nat
  wait : Nat
  age : Nat
  reserved : Nat
deriving DecidableEq, Repr

def recvEntOf (n : Nat) : RecvEnt :=
  { action := bitsOf n 62 2, outPort := bitsOf n 59 3, tile := bitsOf n 51 8, offset := bitsOf n 36 15, wait := bitsOf n 30 6,
    age := bitsOf n 24 6, reserved := bitsOf n 0 24 }

/-- The receive entry of a slot of a tick. -/
def recvAt (s : State) (p : Fin 6) (tick slot : Nat) : RecvEnt :=
  recvEntOf (tget 0 (portTab s p).recv (tick % 64 * 500 + slot)).toNat

def RecvEnt.delivers (e : RecvEnt) : Bool := e.action == 1 || e.action == 3
def RecvEnt.forwards (e : RecvEnt) : Bool := e.action == 2 || e.action == 3

/-! ### Retry requests (R392) -/

/-- The bytes of a retry request in a control block: a slot of a tick, or a frame's SRC and TAG (log 18). -/
def retryBytes : RetryName → List Byte
  | .cell t k => [1] ++ leBytes 8 t ++ leBytes 2 k.val
  | .frame src tag => [2] ++ leBytes 2 src.toNat ++ leBytes 2 tag.toNat

def sendCtl (s : State) (p : Fin 6) (d : List Byte) : State := { s with io := { s.io with ctl := s.io.ctl ++ [(p, d)] } }

/-- The retries of the lanes that a bad cell names. -/
def countRetries (x : Port) (bad : BitVec 9) : List (BitVec 16) :=
  (List.range 9).map (fun l =>
    let n := x.retries.getD l 0
    if bit bad l then BitVec.ofNat 16 (min 65535 (n.toNat + 1)) else n)

/-- A cell's CRC fails: its arrival slot is named in a retry request, and the resend will be judged as the slot `key` (R392). -/
def cellFailed (s : State) (p : Fin 6) (slot : Fin 500) (key : Nat × Nat) (bad : BitVec 9) : State :=
  let s1 := sendCtl s p (retryBytes (.cell s.clk.tick slot))
  onPort s1 p (fun x => { x with retries := countRetries x bad, expect := x.expect ++ [(key.1, key.2, bad)] })

/-! ### STATIC_CELL_ARRIVE (R369, R372 to R375, R380) -/

/-- The tick in which a cell's origin sent it, from TICK_LO. -/
def originTick (now : Nat) (lo : BitVec 16) : Nat := now - ((now + 65536 - lo.toNat) % 65536)

/-- Whether a cell is caught by an epoch swap (R375). -/
def caughtByEpoch (s : State) (h : CellHead) : Bool :=
  h.type == tyStatic && !h.retried && (match s.plan.swapTick with
    | some a => decide (originTick s.clk.tick h.tickLo < a) && decide (a ≤ s.clk.tick)
    | none => false)

/-- Whether an entry delivers a cell here: never one of another partition (R17, R373). -/
def deliversHere (s : State) (e : RecvEnt) (h : CellHead) : Bool := e.delivers && h.partition == s.mach.partition

/-- Stray cells (R373). -/
def cellStray (s : State) (e : RecvEnt) (h : CellHead) : Bool :=
  (h.partition != s.mach.partition && !e.forwards)
  || (!h.retried && deliversHere s e h && h.tickLo != BitVec.ofNat 16 (s.clk.tick + 65536 - e.age))
  || e.action == 0
  || (e.forwards && h.hops == 0)

/-- The slot after an arrival slot. -/
def slotAfter (tick slot n : Nat) : Nat × Nat := (tick + (slot + n) / 500, (slot + n) % 500)

/-- A cell is forwarded with HOPS decremented (R372); a retried one waits for a retry slot (R392). -/
def forwardCell (s : State) (inp out : Fin 6) (slot : Nat) (h : CellHead) (c : List Byte) : State :=
  let (t1, k1) := slotAfter s.clk.tick slot 1
  let c1 := reHead (fun h => { h with hops := h.hops - 1 }) c
  if h.retried then onPort s out (fun x => { x with onward := x.onward ++ [⟨s.clk.tick, slot, inp, c1⟩] })
  else sendCell s out t1 k1 c1

/-- A delivered cell will land 2 slots after its arrival slot (R372). -/
def deliverCell (s : State) (e : RecvEnt) (slot : Nat) (c : List Byte) : State :=
  let l : Landing2 := ⟨Fin.ofNat 192 e.tile, 32 * e.offset, Fin.ofNat 64 e.wait, (slotAfter s.clk.tick slot 2).1, c⟩
  { s with fab := { s.fab with landing := s.fab.landing ++ [l] } }

/-- A cell whose CRC is right, under its receive entry. -/
def takeCell (s : State) (inp : Fin 6) (e : RecvEnt) (slot : Nat) (c : List Byte) : State :=
  let h := cellHeadOf c
  let out : Fin 6 := Fin.ofNat 6 e.outPort
  if 7 ≤ h.type then bump s .fabStray
  else if h.type = tyIdle then (if e.forwards then forwardCell s inp out slot { h with retried := false } c else s)
  else if caughtByEpoch s h then bump s .fabEpoch
  else if cellStray s e h then bump s .fabStray
  else
    let s1 := if e.forwards then forwardCell s inp out slot h c else s
    if deliversHere s e h then deliverCell s1 e slot c else s1

/-- A CELL_CRC rehearsal fails the first cell of a tick on its port (R424). -/
def rehFailsCell (s : State) (p : Fin 6) : Bool :=
  s.mach.rehActive && s.mach.rehKind == 7 && s.mach.rehTarget.toNat == p.val && !s.clk.did.rehCrc

/-- A cell in a slot, judged as the slot `key`. A second failure of a resent cell is RESEND_FAIL's. -/
def arriveCell (s : State) (p : Fin 6) (slot : Fin 500) (key : Nat × Nat) (c : List Byte) (bad : BitVec 9) : State :=
  let again := s.fab.ports[p].expect.any (fun x => x.1 == key.1 && x.2.1 == key.2)
  let reh := rehFailsCell s p && !again
  let s0 : State := if reh then { s with clk := { s.clk with did := { s.clk.did with rehCrc := true } } } else s
  if cellOk c && !reh then
    let s1 := if again then
        bump (onPort s0 p (fun x => { x with expect := x.expect.filter (fun y => !(y.1 == key.1 && y.2.1 == key.2)) })) .fabRetry
      else s0
    takeCell s1 p (recvAt s p key.1 key.2) slot.val c
  else if again then s
  else cellFailed s0 p slot key bad

/-- STATIC_CELL_ARRIVE (R372). A cell in a retry slot stands for the slot `first` in which it first arrived, or would have. -/
def execStaticCellArrive (port : Fin 6) (slot : Fin 500) (cell : List Byte) (badLanes : BitVec 9) (first : Option (Nat × Fin 500))
    (s : State) : Host.Outcome State Fault Refusal :=
  .next (
    if portOpen s port then
      let key : Nat × Nat :=
        match first with
        | some f => if 496 ≤ slot.val then (f.1, f.2.val) else (s.clk.tick, slot.val)
        | none => (s.clk.tick, slot.val)
      arriveCell s port slot key cell badLanes
    else s)

/-- CELL_DELIVER_LAND (R372): the oldest cell whose landing slot has come. -/
def execCellDeliverLand (s : State) : Host.Outcome State Fault Refusal :=
  .next (
    match s.fab.landing with
    | [] => s
    | l :: rest =>
      if l.tick ≤ s.clk.tick then
        let s1 : State := { s with fab := { s.fab with landing := rest } }
        let o := waitOf s l.tile l.wait
        if o.armed && !o.final && decide (l.tick ≤ o.dl) then
          let s2 := onTile (tileWrite s1 l.tile.val l.off l.cell) l.tile.val (fun x => { x with cellAt := tput 0 x.cellAt l.off (l.tick + 1) })
          onWait s2 l.tile l.wait (fun o => { o with cells := o.cells + 1, arrived := o.arrived + 1 })
        else bump s1 .fabLate
      else s)

/-! ### Retry (R392, R393) -/

/-- The tick and slot in which a port sent the cell that its neighbour met in a slot of its own grid: HOP_SLOTS slots before
(R369, R392). -/
def sentSlot (s : State) (p : Fin 6) (tick slot : Nat) : Nat × Nat :=
  let n := 500 * tick + slot - (portTab s p).hop
  (n / 500, n % 500)

/-- The cell that a port sent in a slot of a tick. -/
def sentCell (s : State) (p : Fin 6) (at_ : Nat × Nat) : Option (List Byte) :=
  (s.fab.ports[p].sent.find? (fun x => x.1 == at_.1 && x.2.1 == at_.2)).map (fun x => x.2.2)

def dropSent (x : Port) (at_ : Nat × Nat) : Port := { x with sent := x.sent.filter (fun y => !(y.1 == at_.1 && y.2.1 == at_.2)) }

/-- A static cell, named by its arrival slot, is to be sent once more, with RETRIED set, in a retry slot of tick t + RT (R392). -/
def resendCell (s : State) (p : Fin 6) (tick slot : Nat) : State :=
  let at_ := sentSlot s p tick slot
  match sentCell s p at_ with
  | none => s
  | some c =>
    let t := at_.1 + retryTicks (portTab s p).hop
    if s.clk.tick ≤ t then
      onPort s p (fun x => { dropSent x at_ with own := x.own ++ [(t, reHead (fun h => { h with retried := true }) c)] })
    else bump (onPort s p (fun x => dropSent x at_)) .fabRetryDrop

/-- The order of arrival of forwarded retried cells; of equal arrivals the one from the lower in-port (R392). -/
def onwardBefore (a b : Onward) : Bool :=
  decide (500 * a.tick + a.slot < 500 * b.tick + b.slot) || (500 * a.tick + a.slot == 500 * b.tick + b.slot && decide (a.inp.val ≤ b.inp.val))

/-- One retry slot `k` of the tick that ends: the port's own resends of this tick first, then the forwarded retried cells whose
arrival slot + 1 has come (R392). -/
def retrySlot (p : Fin 6) (s : State) (k : Nat) : State :=
  let x := s.fab.ports[p]
  match x.own.find? (fun y => y.1 == s.clk.tick) with
  | some y => onPort (sendCell s p s.clk.tick k y.2) p (fun x => { x with own := x.own.erase y })
  | none =>
    match (x.onward.mergeSort onwardBefore).find? (fun y => decide (500 * y.tick + y.slot + 1 ≤ 500 * s.clk.tick + k)) with
    | none => s
    | some y => onPort (sendCell s p s.clk.tick k y.cell) p (fun x => { x with onward := x.onward.erase y })

/-- The four retry slots of a port in the tick that ends; its own resends of this tick that found none are lost (R392). -/
def retrySlots (s : State) (p : Fin 6) : State :=
  let s1 := [496, 497, 498, 499].foldl (retrySlot p) s
  let due (y : Nat × List Byte) : Bool := y.1 == s.clk.tick
  bumpBy (onPort s1 p (fun x => { x with own := x.own.filter (fun y => !due y) })) .fabRetryDrop (s1.fab.ports[p].own.filter due).length

/-- The retry slots of every port in the tick that ends. -/
def sendRetries (s : State) : State := (List.finRange 6).foldl retrySlots s

/-- SRC and TAG of a frame. -/
def frameId (cells : FrameCells) : NodeId × BitVec 16 :=
  let h := cellHeadOf (cells.headD [])
  (h.src, h.tag)

/-- A frame is sent whole once more in the port's next window. -/
def resendFrame (s : State) (p : Fin 6) (src : NodeId) (tag : BitVec 16) : State :=
  match s.fab.ports[p].fsent.find? (fun x => frameId x.2.cells == (src, tag) && !x.2.resent) with
  | none => s
  | some x =>
    let s1 := onPort s p (fun y => { y with fsent := y.fsent.filter (fun z => z != x) })
    { s1 with fab := { s1.fab with out := { x.2 with resent := true } :: s1.fab.out } }

/-- RETRY_RESEND (R392): the neighbour's retry request names what this port sent. -/
def execRetryResend (port : Fin 6) (what : RetryName) (s : State) : Host.Outcome State Fault Refusal :=
  .next (
    if portOpen s port then
      match what with
      | .cell t k => resendCell s port t k.val
      | .frame src tag => resendFrame s port src tag
    else s)

/-- Lanes that a lasting fault names wait for their retraining (R393). -/
def waitLanes (x : Port) (lanes : BitVec 9) : List (Fin 9) :=
  x.laneWait ++ (List.finRange 9).filter (fun l =>
    bit lanes l.val && !x.laneWait.contains l && !bit x.laneFail l.val && x.retraining != some l)

/-- RESEND_FAIL (R393): what was asked for again fails again, and is lost; `lanes` reported errors in the second attempt. -/
def execResendFail (port : Fin 6) (what : RetryName) (lanes : BitVec 9) (s : State) : Host.Outcome State Fault Refusal :=
  .next (
    match what with
    | .cell t k =>
      match s.fab.ports[port].expect.find? (fun x => x.1 == t && x.2.1 == k.val) with
      | none => s
      | some e =>
        bump (onPort s port (fun x =>
          { x with expect := x.expect.erase e, laneWait := waitLanes x (lanes &&& e.2.2) })) .fabLost
    | .frame src tag =>
      match s.fab.ports[port].fexpect.find? (fun x => (x.1, x.2.1) == (src, tag)) with
      | none => s
      | some e =>
        bump (onPort s port (fun x =>
          { x with fexpect := x.fexpect.erase e, laneWait := waitLanes x (lanes &&& e.2.2) })) .fabLost)

/-! ### Lanes (R394, R395) -/

/-- Whether a lane needs retraining: its tag has drifted, its retries exceed RETRY_MAX, or a lasting fault named it (R394). -/
def laneNeeds (x : Port) (l : Fin 9) : Bool :=
  x.laneWait.contains l || drifted x.tempNow (x.laneTags.getD l.val 0) || decide (x.retryMax.toNat < (x.retries.getD l.val 0).toNat)

/-- Whether a lane may start its retraining: with a spare, any lane that needs it; without one, only a lane that R393 names. -/
def laneMayTrain (x : Port) (l : Fin 9) : Bool :=
  portTrained x && x.retraining.isNone && !bit x.laneFail l.val && x.spare.toNat != l.val
  && (if x.spare = 15 then x.laneWait.contains l else laneNeeds x l)

/-- The bytes of a lane switchover notice in a control block: the lane and the boundary (R363, R395; log 18). -/
def switchBytes (x : Fin 9 × Nat) : List Byte := [3] ++ leBytes 1 x.1.val ++ leBytes 8 x.2

/-- Whether a lane may be handed over at a boundary: the port has the use of it, and the boundary is 2 ticks ahead or more. -/
def switchOk (s : State) (x : Port) (n : Fin 9 × Nat) : Bool :=
  portTrained x && x.retraining.isNone && !bit x.laneFail n.1.val && x.spare.toNat != n.1.val && decide (s.clk.tick + 2 ≤ n.2)

/-- This end's notice goes out in a control block. -/
def askSwitch (s : State) (p : Fin 6) (n : Fin 9 × Nat) : State :=
  onPort (sendCtl s p (switchBytes n)) p (fun x => { x with asked := some n })

/-- Of two notices that differ, both ends take the later boundary, and of equal ones the lower lane (log 144). -/
def laterSwitch (a b : Fin 9 × Nat) : Fin 9 × Nat := if a.2 < b.2 ∨ (a.2 = b.2 ∧ b.1 < a.1) then b else a

/-- The neighbour's notice (R395): this end answers one that it has not named itself with a notice of its own. -/
def hearSwitch (s : State) (p : Fin 6) (n : Fin 9 × Nat) : State :=
  let s1 := onPort s p (fun x => { x with heard := some n })
  let x := s1.fab.ports[p]
  match x.asked with
  | some a => if laterSwitch a n = n ∧ a ≠ n ∧ switchOk s x n = true then askSwitch s1 p n else s1
  | none => if switchOk s x n then askSwitch s1 p n else s1

/-- The agreed boundary (R395): both notices name it, the spare takes over the lane's data, and the lane retrains. -/
def takeSwitch (s : State) (p : Fin 6) : State :=
  let x := s.fab.ports[p]
  match x.asked with
  | none => s
  | some n =>
    if x.heard = some n ∧ n.2 = s.clk.tick ∧ x.retraining.isNone = true then
      onPort s p (fun x => { x with spare := 15, retraining := some n.1, laneWait := x.laneWait.erase n.1, asked := none, heard := none })
    else s

/-- LANE_SWITCHOVER (R363, R395): this end asks for a lane that needs retraining, hears the neighbour's notice, or both hand the lane
over at the boundary they agreed on. -/
def execLaneSwitchover (port : Fin 6) (e : SwitchEvent) (s : State) : Host.Outcome State Fault Refusal :=
  .next (
    match e with
    | .ask l b => if laneMayTrain s.fab.ports[port] l && switchOk s s.fab.ports[port] (l, b) then askSwitch s port (l, b) else s
    | .heard l b => hearSwitch s port (l, b)
    | .take => takeSwitch s port)

/-- A lane's retraining succeeds: it becomes the spare, unless a failed lane has left the port without one. -/
def laneTrained (x : Port) (l : Fin 9) (temp : BitVec 8) (tick : Nat) : Port :=
  { x with retraining := none, laneTags := lset x.laneTags l.val temp, laneAge := lset x.laneAge l.val tick,
           spare := if x.laneFail = 0 then BitVec.ofNat 4 l.val else 15 }

/-- A lane's retraining fails: it is marked failed; the second failed lane fails the port. -/
def laneFailed (x : Port) (l : Fin 9) : Port :=
  let st : PortState := if x.laneFail ≠ 0 then .failed else if x.state = .up then .degraded else x.state
  { x with retraining := none, laneFail := setBit x.laneFail l.val true, spare := 15, state := st }

/-- The PORT_STATE event, when a port has become DEGRADED or FAILED (R474). -/
def portEvent (s : State) (p : Fin 6) (old : PortState) : State :=
  let x := s.fab.ports[p]
  if x.state ≠ old ∧ (x.state = .degraded ∨ x.state = .failed) then raiseEvent s (evPortState p.val) (portStatusReg x) else s

/-- LANE_TRAINING_DONE (R395). A FAILED port's pair closes its bypass. -/
def execLaneTrainingDone (port : Fin 6) (ok : Bool) (temp : BitVec 8) (s : State) : Host.Outcome State Fault Refusal :=
  .next (
    let x := s.fab.ports[port]
    match x.retraining with
    | none => s
    | some l =>
      let s1 := onPort s port (fun x => if ok then laneTrained x l temp s.clk.tick else laneFailed x l)
      let s2 := if s1.fab.ports[port].state = .failed then askClose s1 (Fin.ofNat 3 (port.val / 2)) else s1
      portEvent (raiseEvent s2 (evLaneRetrain port.val) (portStatusReg s2.fab.ports[port])) port x.state)

/-! ### BYPASS_SWITCH_DONE (R364) -/

/-- A port whose bypass has opened carries traffic; one whose bypass has closed is only trained. -/
def portUp (x : Port) : Port :=
  if x.state = .trained then { x with state := if x.laneFail = 0 then .up else .degraded } else x
def portDown (x : Port) : Port :=
  if x.state = .up ∨ x.state = .degraded then { x with state := .trained } else x

def onPair (s : State) (pair : Fin 3) (f : Port → Port) : State := onPort (onPort s (portPlus pair) f) (portMinus pair) f

/-- The switch that was asked for while the opposite one was under way. -/
def askedSwitch (s : State) (pair : Fin 3) (asked : Option Bool) : State :=
  match asked with
  | some true => tryOpen s pair
  | some false => askClose s pair
  | none => s

/-- BYPASS_SWITCH_DONE (R364). -/
def execBypassSwitchDone (pair : Fin 3) (s : State) : Host.Outcome State Fault Refusal :=
  .next (
    let asked := s.fab.bypAsked[pair]
    match s.fab.byp[pair] with
    | .opening => askedSwitch (onPair (setByp s pair .open_ none) pair portUp) pair asked
    | .closing => askedSwitch (onPair (setByp s pair .closed none) pair portDown) pair asked
    | _ => s)

end Sys2Proof.Machine
end

