-- ==== Sys2Proof/Machine/Boundary.lean ====
section
/-! DEFINITION. TICK_BOUNDARY (R255), and the rules that act at every boundary. -/

namespace Sys2Proof.Machine

open Sys2Proof

/-- The counter advances, and the watchdog with it: 64 AON cycles (R255, R480). -/
def advance (s : State) : State :=
  { s with clk := { s.clk with tick := (s.clk.tick + 1) % 18446744073709551616, did := TickDone.reset },
           aon := { s.aon with wdog := s.aon.wdog + 64 } }

/-- TICK_BOUNDARY (R255): the tick that ends writes its completions, the counter advances, and what waits for a boundary
takes effect. TICK_NOW does not count while the node is held in reset. -/
def execTickBoundary (s : State) : Host.Outcome State Fault Refusal :=
  .next (
    if s.aon.inReset || !s.aon.powered then s
    else sendMarkers (pruneSent (applySwaps (boundaryHost (boundaryMem (gatePods (boundaryMap (advance (landDiscards (sendRetries (flushDue (settleTick s))))))))))))

end Sys2Proof.Machine
end

