-- ==== Sys2Proof/Machine/Epochs.lean ====
section
/-! DEFINITION. The epoch, the steward and the loss of nodes (R413 to R421): EPOCH_BOUNDARY, SLOT_TABLE_SWAP, LEASE, LEASE_ACK,
LEASE_DEADLINE, CLAIM, STEWARD_TAKEOVER, the fills, LOST_SHARD_RECORD. -/

namespace Sys2Proof.Machine

open Sys2Proof

/-! ### The grid and the membership (R413, R416) -/

/-- Whether a tick lies on the epoch grid. -/
def onGrid (t : Nat) : Bool := t % 16384 == 0

/-- The first grid tick at least `n` ticks ahead. -/
def gridAhead (t n : Nat) : Nat := (t + n + 16383) / 16384 * 16384

/-- The membership that a steward announces for a boundary: the members but for those declared lost, and those added. -/
def announced (s : State) (members : List NodeId) (b : Nat) : List NodeId :=
  uniq (members.filter (fun n => !s.mach.lost.contains n) ++ (s.mach.adds.filter (fun a => a.1 == b)).map (·.2))

/-- The steward declares a member lost (R416): it is left out of the first boundary at least 2,048 ticks ahead. -/
def declareLost (s : State) (n : NodeId) : State :=
  if s.mach.members.contains n && !s.mach.lost.contains n then
    let far := decide (s.clk.tick + 2048 ≤ s.mach.nextEpoch)
    let nm := if far then s.mach.nextMembers.filter (· != n) else s.mach.nextMembers
    { s with mach := { s.mach with lost := s.mach.lost ++ [n], nextMembers := nm } }
  else s

/-! ### Shard map entries at a boundary (R417, R419, R459) -/

/-- An entry after the loss of one node (R417). -/
def entLoss (e : ShardEnt) (n : NodeId) : ShardEnt :=
  match e.state with
  | .serving =>
    if n = e.primary then { e with state := .takeover, primary := e.partner }
    else if n = e.partner then { e with state := .takeover, partner := e.primary }
    else e
  | .takeover => if n = e.primary then { e with state := .lost } else e
  | .filling =>
    if n = e.primary then { e with state := .lost }
    else if n = e.partner then { e with state := .takeover, partner := e.primary }
    else e
  | .lost => e

/-- The fill of a shard, as this node knows it. -/
def fillOf (s : State) (c : CtxId) (sh : BitVec 20) : Option Fill := s.mach.fills.find? (fun f => f.ctx == c && f.shard == sh)

/-- An entry at a boundary: a fill that is done or a reload brings it back to SERVING (R419, R459); then the losses. A reloaded entry
whose PARTNER is its PRIMARY, as R417 leaves one, keeps both fields (DESIGN CHOICE, log 150). -/
def entBoundary (s : State) (gone : List NodeId) (k : Nat) (e : ShardEnt) : ShardEnt :=
  let done := ((fillOf s (BitVec.ofNat 12 (k / 1048576)) (BitVec.ofNat 20 (k % 1048576))).map (·.done)).getD false
  let e1 : ShardEnt :=
    if e.state = .filling ∧ done = true then { e with state := .serving }
    else if e.state = .lost ∧ e.reload = true then { e with state := .serving, reload := false }
    else e
  gone.foldl entLoss e1

/-- Fills go when their entry is FILLING no more. -/
def pruneFills (s : State) : State :=
  let keep (f : Fill) : Bool := (shardEnt s f.ctx.toNat f.shard.toNat).state == .filling
  { s with mach := { s.mach with fills := s.mach.fills.filter keep } }

def boundaryShards (s : State) (gone : List NodeId) : State :=
  pruneFills { s with shards := tmapAll ShardEnt.reset (entBoundary s gone) s.shards }

/-! ### Standbys at a boundary (R403) -/

/-- A request whose standby has left gets the next qualifying candidate, which holds no checkpoint of it yet. -/
def renameStandby (s : State) (slot : Nat) : State :=
  let l := ledgerOf s slot
  if l.valid && l.mirrored && !isMember s l.standby then
    match pickStandby s with
    | some n => changeLedger s slot (fun l => { l with standby := n, sblock := 0, phase := 0xFF, ckptSent := false })
    | none => bump (changeLedger s slot (fun l => { l with mirrored := false, sblock := 0, phase := 0xFF, ckptSent := false })) .poolNostandby
  else s

/-! ### EPOCH_BOUNDARY -/

/-- A context whose audit root has just become this node starts with BELOW_COUNT 0 (R112), which is zero on every other node
(R109). -/
def newRoots (old s : State) : State :=
  (liveCtxs s).foldl (fun s k =>
    if auditRoot s k != some s.aon.nodeId || auditRoot old k != some s.aon.nodeId then
      onCtx s k (fun c => { c with audit := { c.audit with below := 0 } })
    else s) s

/-- The windows of FENCE_NODE rehearsals whose nodes rejoin with this membership end now (R425). -/
def endOpenWindows (s : State) (new : List NodeId) : List (Nat × Nat × NodeId) :=
  s.mach.windows.map (fun w =>
    if w.2.1 = openWindow ∧ new.contains w.2.2 = true ∧ s.mach.members.contains w.2.2 = false then (w.1, s.clk.tick, w.2.2) else w)

/-- Announced windows give way to others; those that go are kept while a request in flight may still overlap them (R425). -/
def putWindows (s : State) (l : List (Nat × Nat × NodeId)) : State :=
  let past := (s.mach.windows.filter (fun w => !l.contains w)).map (fun w => (w.1, min w.2.1 s.clk.tick))
  let live (w : Nat × Nat) : Bool := (admSlots s).any (fun k => match admOf s k with | some a => decide (a.t ≤ w.2) | none => false)
  { s with mach := { s.mach with windows := l, pastWindows := (s.mach.pastWindows ++ past).filter live } }

/-- The new membership takes effect, and the steward announces the next boundary (R413, R485). -/
def newEpoch (s : State) : State :=
  let new := s.mach.nextMembers
  let lost := s.mach.lost.filter (fun n => new.contains n)
  let b := s.clk.tick + 16384
  let m := { s.mach with
    epoch := s.mach.epoch + 1, members := new, lost := lost, adds := s.mach.adds.filter (fun a => decide (s.clk.tick < a.1)),
    missed := s.mach.missed.filter (fun kv => new.any (fun n => n.toNat == kv.1)), nextEpoch := 0, nextMembers := new,
    windows := if s.mach.role = .steward then endOpenWindows s new else s.mach.windows }
  let s1 : State := { s with mach := m }
  if s.mach.role = .steward then { s1 with mach := { m with nextEpoch := b, nextMembers := announced s1 new b } } else s1

/-- What a node that leaves the epoch at this boundary does (R416, R475, R507). -/
def leaveEpoch (s : State) (was : Bool) : State :=
  let s1 : State := { s with mach := { s.mach with leaveAsked := false } }
  if was && s.mach.leaveAsked then dropNode s1 .leave
  else if was && !isMember s s.aon.nodeId then dropNode s1 .lost
  else s1

/-- EPOCH_BOUNDARY (R413, R416, R417): at the announced tick. -/
def execEpochBoundary (s : State) : Host.Outcome State Fault Refusal :=
  .next (
    if s.mach.nextEpoch ≠ 0 ∧ s.clk.tick = s.mach.nextEpoch then
      let was := isMember s s.aon.nodeId
      let s1 := newEpoch s
      let gone := s.mach.members.filter (fun n => !isMember s1 n)
      let s2 := boundaryShards s1 gone
      let s3 := (s2.pool.ledger.map (·.1)).foldl renameStandby s2
      setTimePort (newRoots s (leaveEpoch s3 was))
    else s)

/-- SLOT_TABLE_SWAP (R375): at the activation tick. -/
def execSlotTableSwap (s : State) : Host.Outcome State Fault Refusal :=
  .next (
    match s.plan.act with
    | none => s
    | some a =>
      if s.clk.tick = a.a ∧ s.plan.swapTick ≠ some a.a then
        { s with plan := { s.plan with slots := s.plan.standby, swapTick := some a.a } }
      else s)

/-! ### Leases (R414, R425) -/

/-- STEWARD messages: a kind byte, and the contents that R414, R415 and R420 list (log 18). -/
def leaseBytes (s : State) : List Byte :=
  [1] ++ leBytes 2 s.mach.steward.toNat ++ leBytes 4 s.mach.epoch.toNat ++ leBytes 8 s.mach.nextEpoch
  ++ leBytes 2 s.mach.nextMembers.length ++ s.mach.nextMembers.flatMap (fun n => leBytes 2 n.toNat)
  ++ (s.mach.windows.take 4).flatMap (fun w => leBytes 8 w.1 ++ leBytes 8 w.2.1 ++ leBytes 2 w.2.2.toNat)

def otherMembers (s : State) : List NodeId := s.mach.members.filter (· != s.aon.nodeId)

/-- A STEWARD frame to each of some nodes. -/
def sendSteward (s : State) (l : List NodeId) (d : List Byte) : State :=
  l.foldl (fun s n => sendFrame s tySteward n false (cellsOf d)) s

/-- Windows that have not ended, with those that have reached the steward since (R425). -/
def liveWindows (s : State) (armed : List (Nat × Nat × NodeId)) : List (Nat × Nat × NodeId) :=
  (uniq (s.mach.windows ++ armed)).filter (fun w => decide (s.clk.tick ≤ w.2.1))

/-- The steward sends its lease, at a tick that is a multiple of 1,024. -/
def sendLease (s : State) (armed : List (Nat × Nat × NodeId)) : State :=
  if s.mach.role = .steward ∧ s.clk.tick % 1024 = 0 ∧ s.clk.did.leaseSent = false then
    let s0 := putWindows s (liveWindows s armed)
    let s1 : State := { s0 with
      mach := { s0.mach with acked := [], leaseSeen := true },
      clk := { s.clk with did := { s.clk.did with leaseSent := true } } }
    sendSteward s1 (otherMembers s1) (leaseBytes s1)
  else s

/-- A member takes a lease stamped by 512 ticks after its tick: the epoch number with it, which a node that has just joined does
not have of itself. A joiner whose bypasses open hears the lease that names it (R508). -/
def takeLease (s : State) (f : LeaseFrame) : State :=
  if (s.mach.role = .member ∨ s.mach.role = .claimant ∨ s.aon.joinState = .opening) ∧ f.steward = s.mach.steward ∧ s.clk.tick % 1024 ≤ 512 then
    let s1 := putWindows s f.windows
    { s1 with mach := { s1.mach with leaseSeen := true, epoch := f.epoch, nextEpoch := f.nextEpoch.toNat, nextMembers := f.members } }
  else s

/-- LEASE (R414): without a frame the steward sends, `armed` being the rehearsals that have reached it; with one, a member
receives. -/
def execLease (f : Option LeaseFrame) (armed : List (Nat × Nat × NodeId)) (s : State) : Host.Outcome State Fault Refusal :=
  .next (match f with | none => sendLease s armed | some x => takeLease s x)

/-- LAST_COMMIT and LAST_DURABLE of a copy (R420): every change that commits by the tick before has been applied, and an image
in staging is not yet durable. -/
def copyTicks (s : State) (c : ShardCopy) : ShardTicks :=
  let staged := s.upd.staged.filter (fun x => x.ctx == c.ctx && x.shard == c.shard)
  let t := s.clk.tick - 1
  ⟨c.ctx, c.shard, BitVec.ofNat 64 t, BitVec.ofNat 64 (staged.foldl (fun m x => min m (x.at_ - 1)) t)⟩

/-- The copies that a node holds in TAKEOVER or FILLING (R414). -/
def reportedCopies (s : State) : List ShardTicks :=
  ((allCopies s).filter (fun c =>
    let e := shardEnt s c.ctx.toNat c.shard.toNat
    (e.state == .takeover || e.state == .filling) && (e.primary == s.aon.nodeId || e.partner == s.aon.nodeId))).map (copyTicks s)

def tickBytes (t : ShardTicks) : List Byte :=
  leBytes 2 t.ctx.toNat ++ leBytes 3 t.shard.toNat ++ leBytes 8 t.lastCommit.toNat ++ leBytes 8 t.lastDurable.toNat

/-- A member's acknowledgement. -/
def sendLeaseAck (s : State) : State :=
  if s.mach.leaseSeen = true ∧ s.mach.role ≠ .steward ∧ s.mach.steward ≠ s.aon.nodeId then
    sendSteward s [s.mach.steward]
      ([2] ++ leBytes 2 s.aon.nodeId.toNat ++ leBytes 1 (b2n s.mach.dropped.isSome) ++ (reportedCopies s).flatMap tickBytes)
  else s

/-- The latest ticks of a shard replace the earlier ones. -/
def putTicks (l : List ShardTicks) (t : ShardTicks) : List ShardTicks :=
  l.filter (fun x => !(x.ctx == t.ctx && x.shard == t.shard)) ++ [t]

/-- The steward takes an acknowledgement stamped by 512 ticks after the lease: a node that reports itself dropped is lost (R416). -/
def takeLeaseAck (s : State) (r : LeaseReply) : State :=
  if s.mach.role = .steward ∧ s.clk.tick % 1024 ≤ 512 ∧ isMember s r.node = true then
    let s1 : State := { s with
      mach := { s.mach with acked := uniq (s.mach.acked ++ [r.node]), ticks := r.shards.foldl putTicks s.mach.ticks } }
    if r.dropped then declareLost s1 r.node else s1
  else s

/-- LEASE_ACK (R414): without a reply the member sends its own; with one, the steward receives it. -/
def execLeaseAck (r : Option LeaseReply) (s : State) : Host.Outcome State Fault Refusal :=
  .next (match r with | none => sendLeaseAck s | some x => takeLeaseAck s x)

/-! ### LEASE_DEADLINE (R414 to R416) -/

def missedOf (s : State) (n : NodeId) : Nat := tget 0 s.mach.missed n.toNat

/-- One member's acknowledgement counted: the third miss in a row loses it (R416). -/
def countAck (s : State) (n : NodeId) : State :=
  let k := if s.mach.acked.contains n then 0 else missedOf s n + 1
  let s1 : State := { s with mach := { s.mach with missed := tput 0 s.mach.missed n.toNat k } }
  if 3 ≤ k then declareLost s1 n else s1

/-- LEASE_DEADLINE (R414, R416): 512 ticks after a lease tick, once. -/
def execLeaseDeadline (s : State) : Host.Outcome State Fault Refusal :=
  .next (
    if s.clk.tick % 1024 = 512 ∧ s.clk.did.leased = false then
      let s1 : State := { s with clk := { s.clk with did := { s.clk.did with leased := true } } }
      match s.mach.role with
      | .steward => (otherMembers s1).foldl countAck s1
      | .none_ => s1
      | _ =>
        let k := if s.mach.leaseSeen then 0 else s.mach.silent + 1
        { s1 with mach := { s1.mach with silent := k, leaseSeen := false } }
    else s)

/-! ### CLAIM and STEWARD_TAKEOVER (R415) -/

/-- The ordinal of a member relative to a steward. -/
def ordinal (st n : NodeId) : Nat :=
  let d (a b e : Nat) : Nat := (a + e - b) % e
  d (nodeZ n) (nodeZ st) Config.nz * Config.ny * Config.nx + d (nodeY n) (nodeY st) Config.ny * Config.nx + d (nodeX n) (nodeX st) Config.nx

/-- The members that come before this node in the order of succession. -/
def aheadOf (s : State) : Nat :=
  let st := s.mach.steward
  let me := ordinal st s.aon.nodeId
  (s.mach.members.filter (fun n => n != st && !s.mach.lost.contains n && decide (ordinal st n < me))).length

/-- A claim is known for a boundary of the grid: it is a boundary of the epoch (R377), announced by the claim if by nothing
else. -/
def noteClaim (s : State) (n : NodeId) (b : Nat) : State :=
  let m := { s.mach with claims := s.mach.claims ++ [(n, b, s.clk.tick)] }
  let far := decide (s.mach.nextEpoch = 0)
  { s with mach := { m with nextEpoch := if far then b else m.nextEpoch, nextMembers := if far then m.members else m.nextMembers } }

/-- A member that finds the steward silent claims, after three more missed leases for each that comes before it. -/
def sendClaim (s : State) : State :=
  if s.mach.role = .member ∧ 3 * (aheadOf s + 1) ≤ s.mach.silent then
    let b := gridAhead s.clk.tick 1024
    let s1 := noteClaim { s with mach := { s.mach with role := .claimant } } s.aon.nodeId b
    sendSteward s1 (otherMembers s1) ([3] ++ leBytes 2 s.aon.nodeId.toNat ++ leBytes 8 b)
  else s

/-- CLAIM (R415): without a claim this node makes its own; with one, it receives a member's. -/
def execClaim (c : Option (NodeId × BitVec 64)) (s : State) : Host.Outcome State Fault Refusal :=
  .next (
    match c with
    | none => sendClaim s
    | some x => if isMember s x.1 && onGrid x.2.toNat && decide (s.clk.tick < x.2.toNat) then noteClaim s x.1 x.2.toNat else s)

/-- The claimant that takes the role at a boundary: the smallest ordinal among those stamped by B - 512. -/
def claimWinner (s : State) : Option NodeId :=
  ((s.mach.claims.filter (fun c => c.2.1 == s.clk.tick && decide (c.2.2 + 512 ≤ c.2.1))).map (·.1)).foldl (fun m n =>
    match m with
    | none => some n
    | some x => if ordinal s.mach.steward n < ordinal s.mach.steward x then some n else some x) none

/-- The new steward's first act is to declare the old one lost (R415). -/
def becomeSteward (s : State) (old : NodeId) : State :=
  let b := s.clk.tick + 16384
  let s1 : State := { s with mach := { s.mach with nextEpoch := b, nextMembers := announced s s.mach.members b, missed := [], acked := [] } }
  declareLost s1 old

/-- STEWARD_TAKEOVER (R415): at B. -/
def execStewardTakeover (s : State) : Host.Outcome State Fault Refusal :=
  .next (
    match claimWinner s with
    | none => s
    | some n =>
      let old := s.mach.steward
      let mine := n == s.aon.nodeId
      let role : Role := if mine then .steward else if s.mach.role = .none_ then .none_ else .member
      let m := { s.mach with role := role, silent := 0, claims := s.mach.claims.filter (fun c => decide (s.clk.tick < c.2.1)) }
      let s1 := setTimePort (setSteward { s with mach := m } n)
      if mine then becomeSteward s1 old else s1)

/-! ### Fills (R418, R419) -/

/-- FILL_START (R419): an entry in TAKEOVER with a PARTNER other than its PRIMARY. -/
def execFillStart (ctx : CtxId) (shard : BitVec 20) (s : State) : Host.Outcome State Fault Refusal :=
  .next (
    let e := shardEnt s ctx.toNat shard.toNat
    if e.state = .takeover ∧ e.partner ≠ e.primary then
      let s1 := putShard s ctx.toNat shard.toNat { e with state := .filling }
      let f : Fill := ⟨ctx, shard, e.primary == s.aon.nodeId, 0, 0, 0, false⟩
      { s1 with mach := { s1.mach with fills := s1.mach.fills ++ [f] } }
    else s)

def onFill (s : State) (c : CtxId) (sh : BitVec 20) (g : Fill → Fill) : State :=
  { s with mach := { s.mach with fills := s.mach.fills.map (fun f => if f.ctx == c && f.shard == sh then g f else f) } }

def msgFill : Nat := 11

/-- The bytes of a fill frame (log 18). -/
def fillBytes (t : ShardTicks) (rows : List (Nat × List Byte)) : List Byte :=
  tickBytes t ++ rows.flatMap (fun r => leBytes 5 r.1 ++ leBytes 2 r.2.length ++ r.2)

/-- Whether a node address lies in a partition's rows of a copy (R40). -/
def isPartRow (s : State) (c : ShardCopy) (a : Nat) : Bool :=
  decide (c.recBase * 1024 ≤ a) && (partOfRow s c (a / 1024 - c.recBase)).isSome

/-- The rows that a fill sends in ascending order (R419): the address above the last partition row, none where one falls back. -/
def fillOrder (s : State) (c : ShardCopy) (row : Nat) (l : List (Nat × Nat)) : Option Nat :=
  l.foldl (fun m x => m.bind (fun r => if isPartRow s c x.1 then (if r ≤ x.1 then some (x.1 + x.2) else none) else some r)) (some row)

/-- A fill frame leaves the source, with its LAST_COMMIT and LAST_DURABLE (R419). -/
def sendFill (s : State) (c : ShardCopy) (rows : List (Nat × List Byte)) : State :=
  let t := copyTicks s c
  sendMsg (onFill s c.ctx c.shard (fun f => { f with lastCommit := t.lastCommit, lastDurable := t.lastDurable }))
    (shardEnt s c.ctx.toNat c.shard.toNat).partner msgFill (fillBytes t rows)

/-- The source's rows, groups and images as its memory holds them in this tick (R419). -/
def fillRows (s : State) (c : ShardCopy) (f : Fill) (l : List (Nat × Nat)) : State :=
  match fillOrder s c f.row l with
  | none => s
  | some r => sendFill (onFill s c.ctx c.shard (fun f => { f with row := r })) c (l.map (fun x => (x.1, memRead s x.1 x.2)))

/-- A cold image of the source as its flash holds it (R419), named by the address that the item's directory entry gives. -/
def fillCold (s : State) (c : ShardCopy) (item : BitVec 36) : State :=
  match dirFind s c item with
  | none => s
  | some a =>
    let d := dirEntOf (memNat s a 16)
    if d.flash then sendFill s c [(d.fvLoc, faddrBytes s (faddrOf d.fvLoc) (fvSize (ctxOf s c.ctx.toNat)))] else s

/-- A fill frame lands at the destination: its bytes are written where they belong, and its ticks are noted (R419, R420). -/
def fillLands (s : State) (ctx : CtxId) (shard : BitVec 20) (lastCommit lastDurable : BitVec 64) (rows : List (Nat × List Byte)) : State :=
  let s1 := (rows.filter (fun r => decide (r.1 + r.2.length ≤ memBytes))).foldl (fun s r => remoteWrite s r.1 r.2) s
  let s2 := onFill s1 ctx shard (fun f => { f with lastCommit := lastCommit, lastDurable := lastDurable })
  { s2 with mach := { s2.mach with ticks := putTicks s2.mach.ticks ⟨ctx, shard, lastCommit, lastDurable⟩ } }

/-- FILL_COPY (R419): the source sends what it holds; the destination writes what arrives. -/
def execFillCopy (ctx : CtxId) (shard : BitVec 20) (e : FillEvent) (s : State) : Host.Outcome State Fault Refusal :=
  .next (
    let x := shardEnt s ctx.toNat shard.toNat
    match e with
    | .arrive lc ld rows => if x.state = .filling ∧ x.partner = s.aon.nodeId then fillLands s ctx shard lc ld rows else s
    | .rows l =>
      match copyOf s ctx.toNat shard.toNat, fillOf s ctx shard with
      | some c, some f => if x.state = .filling ∧ x.primary = s.aon.nodeId then fillRows s c f l else s
      | _, _ => s
    | .cold item =>
      match copyOf s ctx.toNat shard.toNat with
      | some c => if x.state = .filling ∧ x.primary = s.aon.nodeId then fillCold s c item else s
      | none => s)

/-- FILL_DONE (R419): the last byte has landed; the source tells the steward, and the entry is SERVING from the next epoch. -/
def execFillDone (ctx : CtxId) (shard : BitVec 20) (s : State) : Host.Outcome State Fault Refusal :=
  .next (
    let e := shardEnt s ctx.toNat shard.toNat
    if e.state = .filling then
      let s1 := onFill s ctx shard (fun f => { f with done := true })
      if e.primary = s.aon.nodeId ∧ s.mach.role ≠ .steward then
        sendMsg s1 s.mach.steward msgFill (leBytes 2 ctx.toNat ++ leBytes 3 shard.toNat)
      else s1
    else s)

/-- FILL_ABANDON (R418). -/
def execFillAbandon (ctx : CtxId) (shard : BitVec 20) (s : State) : Host.Outcome State Fault Refusal :=
  .next (abandonFill s ctx.toNat shard.toNat)

/-! ### LOST_SHARD_RECORD (R420) -/

/-- The lost-shard record (R420). -/
def lostPayload (t : ShardTicks) : Nat :=
  packFields [(32, 0), (12, t.ctx.toNat), (20, t.shard.toNat), (64, t.lastDurable.toNat), (64, t.lastCommit.toNat)]

/-- LOST_SHARD_RECORD (R420): the steward sends the ticks that last reached it to each member; every node delivers the record
to its controlling software. -/
def execLostShardRecord (r : ShardTicks) (s : State) : Host.Outcome State Fault Refusal :=
  .next (
    if (shardEnt s r.ctx.toNat r.shard.toNat).state = .lost then
      if s.mach.role = .steward then
        let t := (s.mach.ticks.find? (fun x => x.ctx == r.ctx && x.shard == r.shard)).getD r
        raiseEvent (sendSteward s (otherMembers s) ([4] ++ leBytes 24 (lostPayload t))) evLostShard (lostPayload t)
      else raiseEvent s evLostShard (lostPayload r)
    else s)

/-! ### Rehearsals (R423 to R425) -/

/-- The pair that a FENCE_PAIR rehearsal names. -/
def rehPair (s : State) : Fin 3 := Fin.ofNat 3 s.mach.rehTarget.toNat

/-- REH_CTL (R423): ARM is WO. -/
def rehCtlReg (s : State) : Nat :=
  packFields [(1, b2n s.mach.rehActive), (12, 0), (15, s.mach.rehTarget.toNat), (4, s.mach.rehKind.toNat), (32, s.mach.rehLen.toNat)]

def rehEvent (s : State) : State := raiseEvent s evRehearsal (rehCtlReg s + 2 ^ 64 * s.mach.rehStart.toNat)

/-- The injected fault that enters at once (R424); kinds 4 to 7 enter where a real fault of theirs is detected. -/
def rehInject (s : State) : State :=
  match s.mach.rehKind.toNat with
  | 1 => dropNode s .rehearsal
  | 2 => askClose s (rehPair s)
  | 3 => markOut s s.mach.rehTarget.toNat
  | _ => s

/-- REHEARSAL_START (R425): at REH_START. -/
def execRehearsalStart (s : State) : Host.Outcome State Fault Refusal :=
  .next (
    if s.mach.rehArmed && !s.mach.rehActive && decide (s.mach.rehStart.toNat ≤ s.clk.tick) then
      rehEvent (rehInject (bump { s with mach := { s.mach with rehActive := true } } .rehearse))
    else s)

/-- What a rehearsal undoes as it ends (R424): the pair opens again, the Bean is readmitted. -/
def rehUndo (s : State) : State :=
  match s.mach.rehKind.toNat with
  | 2 => tryOpen s (rehPair s)
  | 3 => { s with stk := { s.stk with beanOut := setBit s.stk.beanOut s.mach.rehTarget.toNat false } }
  | _ => s

/-- Whether a rehearsal has ended (R423, R425): after LEN ticks, a FENCE_NODE rehearsal when the node has rejoined. -/
def rehOver (s : State) : Bool :=
  if s.mach.rehKind = 1 then s.mach.dropped.isNone else decide (s.mach.rehStart.toNat + s.mach.rehLen.toNat ≤ s.clk.tick)

/-- REHEARSAL_END (R423). -/
def execRehearsalEnd (s : State) : Host.Outcome State Fault Refusal :=
  .next (
    if s.mach.rehActive && rehOver s then
      rehEvent (rehUndo { s with mach := { s.mach with rehActive := false, rehArmed := false } })
    else s)

end Sys2Proof.Machine
end

