-- ==== Sys2Proof/Machine/Events.lean ====
section
/-! DEFINITION. The event controller and the event ring (R474 to R479). -/

namespace Sys2Proof.Machine

open Sys2Proof

/-! ### Configuration (R476) -/

/-- EVT_SRC of a source. -/
def srcOf (s : State) (n : Fin 512) : BitVec 8 := tget Events.srcReset s.evt.src n.val

def srcEnabled (s : State) (n : Fin 512) : Bool := bit (srcOf s n) 7

/-- SENSE: EDGE, else MESSAGE. -/
def srcEdge (s : State) (n : Fin 512) : Bool := bit (srcOf s n) 6

def srcPrio (s : State) (n : Fin 512) : Nat := (srcOf s n).toNat % 16

/-- The group of a source, and its sub-priority (R477). -/
def srcGroup (s : State) (n : Fin 512) : Nat := srcPrio s n / 2 ^ s.evt.split.toNat
def srcSub (s : State) (n : Fin 512) : Nat := srcPrio s n % 2 ^ s.evt.split.toNat

/-- Source numbers that R474 lists; the others are never raised. -/
def srcListed (n : Nat) : Bool :=
  decide (n ≤ 5) || (decide (16 ≤ n) && decide (n ≤ 59)) || (decide (64 ≤ n) && decide (n ≤ 98))
  || (decide (128 ≤ n) && decide (n ≤ 134)) || decide (384 ≤ n)

/-! ### Sensing (R477) -/

/-- EVENT_ASSERT (R477): a source is posted, or sees an edge, which only an EDGE source latches. -/
def execEventAssert (source : Fin 512) (payload : BitVec 192) (edge : Bool) (s : State) :
    Host.Outcome State Fault Refusal :=
  .next (
    if nodeRuns s && srcListed source.val && (!edge || srcEdge s source) then raiseEvent s source.val payload.toNat
    else s)

/-! ### Taking (R477) -/

/-- An AON cycle of this tick, counted as the tick counter counts: 64 to a tick (R255, log 155). -/
def evtCycle (s : State) (cycle : Fin 64) : Nat := 64 * s.clk.tick + cycle.val

/-- A pending source can be taken in an AON cycle when it was eligible in the one before: it is enabled, and its source group's
hold-off has ended (R477). -/
def evtEligible (s : State) (now : Nat) (p : PendEvt) : Bool :=
  srcEnabled s p.source && decide (tget 0 s.evt.holdEnd (p.source.val / 8) < now)

/-- One source goes before another: the lower group, then the lower sub-priority, then the lower number (R477). -/
def evtBefore (s : State) (a b : PendEvt) : Bool :=
  let ga := srcGroup s a.source
  let gb := srcGroup s b.source
  let sa := srcSub s a.source
  let sb := srcSub s b.source
  decide (ga < gb) || (ga == gb && (decide (sa < sb) || (sa == sb && decide (a.source.val < b.source.val))))

/-- The eligible source that goes first. -/
def evtFirst (s : State) (now : Nat) : Option PendEvt :=
  (s.evt.pending.filter (evtEligible s now)).foldl (fun m p =>
    match m with
    | none => some p
    | some q => if evtBefore s p q then some p else some q) none

/-- Shallot is idle, or the source's group is lower than that of every handler in progress (R477). -/
def evtPreempts (s : State) (p : PendEvt) : Bool :=
  s.evt.handlers.all (fun h => decide (srcGroup s p.source < srcGroup s h))

/-- The vector of a source (R477). -/
def evtVector (s : State) (n : Fin 512) : Nat := s.evt.vecBase.toNat * 8192 + 16 * n.val

/-- A source is taken (R477): its pending bit clears, Shallot jumps to its vector, its group is held off; a source with a
record (R474) joins the records to write. -/
def evtTake (s : State) (now : Nat) (p : PendEvt) : State :=
  let g := p.source.val / 8
  let cycles := (tget 0 s.evt.holdoff g).toNat
  let recorded := decide (p.source.val ≤ 383) || decide (448 ≤ p.source.val)
  { s with evt := { s.evt with
      pending := s.evt.pending.erase p, handlers := p.source :: s.evt.handlers, pc := some (evtVector s p.source),
      holdEnd := if cycles = 0 then s.evt.holdEnd else tput 0 s.evt.holdEnd g (now + cycles),
      records := if recorded then s.evt.records ++ [p] else s.evt.records } }

/-- EVENT_TAKE (R477), in an AON cycle of this tick. -/
def execEventTake (cycle : Fin 64) (s : State) : Host.Outcome State Fault Refusal :=
  .next (
    if nodeRuns s then
      match evtFirst s (evtCycle s cycle) with
      | some p => if evtPreempts s p then evtTake s (evtCycle s cycle) p else s
      | none => s
    else s)

/-- EVENT_HANDLER_RETURN (R477): the handler last taken returns, and the one it pre-empted resumes where it stood, a place
that the spec gives no register for. -/
def execEventHandlerReturn (s : State) : Host.Outcome State Fault Refusal :=
  .next (
    match s.evt.handlers with
    | _ :: r => { s with evt := { s.evt with handlers := r, pc := none } }
    | [] => s)

/-- EVENT_HOLDOFF_EXPIRY (R477): in the cycle in which a source group's CYCLES have passed, its sources are eligible again. -/
def execEventHoldoffExpiry (group : Fin 64) (cycle : Fin 64) (s : State) : Host.Outcome State Fault Refusal :=
  .next (
    if tget 0 s.evt.holdEnd group.val ≤ evtCycle s cycle then
      { s with evt := { s.evt with holdEnd := tput 0 s.evt.holdEnd group.val 0 } }
    else s)

/-! ### Records (R478, R479) -/

/-- An event record (R478). -/
def evtRecordNat (s : State) (p : PendEvt) : Nat :=
  packFields [(192, p.payload.toNat), (192, 0), (40, s.evt.seq.toNat), (8, 0), (64, p.tick), (9, p.source.val), (6, 0),
    (1, b2n s.evt.phase)]

/-- The records that software has not read (R479). -/
def evtUnread (s : State) : Nat :=
  let n := 2 ^ s.evt.log2.toNat
  (s.evt.tail.toNat + n - s.evt.head.toNat % n) % n

/-- Whether the ring takes a record (R479). -/
def evtRoom (s : State) : Bool := s.evt.en && decide (evtUnread s < 2 ^ s.evt.log2.toNat - 1)

/-- A record is written: bytes 0 to 62, then byte 63, then EVT_TAIL (R478). -/
def evtPut (s : State) (p : PendEvt) : State :=
  let b := leBytes 64 (evtRecordNat s p)
  let a := s.evt.base.toNat + 64 * s.evt.tail.toNat
  let n := 2 ^ s.evt.log2.toNat
  let wrap := decide (s.evt.tail.toNat + 1 = n)
  { s with
    io := { s.io with hostWrites := s.io.hostWrites ++ [(a, b.take 63), (a + 63, b.drop 63)] }
    evt := { s.evt with tail := if wrap then 0 else s.evt.tail + 1, phase := if wrap then !s.evt.phase else s.evt.phase } }

/-- EVENT_RECORD_WRITE (R478, R479): the oldest record that waits is written or dropped; its number is used either way. -/
def execEventRecordWrite (s : State) : Host.Outcome State Fault Refusal :=
  .next (
    match s.evt.records with
    | [] => s
    | p :: r =>
      let s1 := if evtRoom s then evtPut s p else bump s .evtLost
      { s1 with evt := { s1.evt with records := r, seq := s1.evt.seq + 1 } })

end Sys2Proof.Machine
end

