-- ==== Sys2Proof/Machine/Frames.lean ====
section
/-! DEFINITION. Best-effort frames and remote memory access (R381 to R391): FRAME_RECEIVE, FRAME_SEND, RREQ_SERVE, RREPLY_RECEIVE. -/

namespace Sys2Proof.Machine

open Sys2Proof

/-! ### Frames (R365, R381, R384) -/

/-- A frame: 1 to 32 cells of one type, FRAME_IDX running, LAST on the final cell (R381). -/
def frameOk (cells : FrameCells) : Bool :=
  let n := cells.length
  let ty := (cellHeadOf (cells.headD [])).type
  decide (1 ≤ n) && decide (n ≤ 32) && decide (2 ≤ ty)
  && (List.range n).all (fun i =>
    let h := cellHeadOf (cells.getD i [])
    h.type == ty && h.slot == frameSlot i (i + 1 == n))

/-- The ticks since the tick whose low bits a field holds. -/
def ageOf (s : State) (lo : Nat) : Nat := (s.clk.tick + 65536 - lo % 65536) % 65536

/-- A frame too old to go on (R384). -/
def frameAged (s : State) (cells : FrameCells) : Bool := decide (8192 < ageOf s (cellHeadOf (cells.headD [])).tickLo.toNat)

/-- The bytes that a frame's cells carry. -/
def frameBytes (cells : FrameCells) : List Byte := cells.flatMap cellPayload

/-- Cells that transit frames of an in-port hold for an out port (R383). -/
def transitCells (s : State) (out : Fin 6) (inp : Nat) : Nat :=
  ((s.fab.out.filter (fun f => f.port == out && f.party == inp)).map (fun f => f.cells.length)).foldl (· + ·) 0

/-! ### FRAME_RECEIVE (R382 to R384, R392) -/

/-- A transit frame is queued for its port, or dropped (R383). -/
def transit (s : State) (inp : Fin 6) (cells : FrameCells) : State :=
  let h := cellHeadOf (cells.headD [])
  match routePort s h.dest with
  | none => s
  | some p =>
    let n := transitCells s p inp.val
    if 512 < n + cells.length then bump s .fabBeFull
    else if h.yellow ∧ 256 < n then bump s .fabYellowDrop
    else
      let f : OutFrame := ⟨p, inp.val, cells.map (reHead (fun h => { h with hops := h.hops - 1 })), false⟩
      { s with fab := { s.fab with out := s.fab.out ++ [f] } }

/-- A frame for this node: a pool frame of a reserved OP is discarded (R406), an image for a replica read arrives (R333); the
other kinds act when their own commands come. -/
def deliverFrame (s : State) (cells : FrameCells) : State :=
  let h := cellHeadOf (cells.headD [])
  let d := frameBytes cells
  let op := leAt d 0 1
  if h.partition ≠ s.mach.partition then bump s .fabStray
  else if h.type = tyPool ∧ (op = 0 ∨ 10 ≤ op) then bump s .fabStray
  else if h.type = tyReplica then replicaFrame s d
  else s

/-- A frame all of whose cells check. -/
def takeFrame (s : State) (inp : Fin 6) (cells : FrameCells) : State :=
  let h := cellHeadOf (cells.headD [])
  if 7 ≤ h.type then bumpBy s .fabStray cells.length
  else if frameAged s cells then bump s .fabAged
  else if h.dest = s.aon.nodeId then deliverFrame s cells
  else transit s inp cells

/-- FRAME_RECEIVE (R382, R392): a frame with a failed cell is asked for once more, and its bad lanes are noted; its second failure is
RESEND_FAIL's. -/
def execFrameReceive (port : Fin 6) (cells : FrameCells) (badLanes : BitVec 9) (s : State) : Host.Outcome State Fault Refusal :=
  .next (
    if portOpen s port && frameOk cells then
      let id := frameId cells
      let asked := s.fab.ports[port].fexpect.find? (fun x => (x.1, x.2.1) == id)
      match cells.all cellOk, asked with
      | true, none => takeFrame s port cells
      | true, some e => takeFrame (bump (onPort s port (fun x => { x with fexpect := x.fexpect.erase e })) .fabRetry) port cells
      | false, none =>
        onPort (sendCtl s port (retryBytes (.frame id.1 id.2))) port
          (fun x => { x with retries := countRetries x badLanes, fexpect := x.fexpect ++ [(id.1, id.2, badLanes)] })
      | false, some _ => s
    else s)

/-! ### FRAME_SEND (R381, R383, R384) -/

/-- A frame that has been sent before: in transit, or resent. -/
def wasSent (f : OutFrame) : Bool := decide (f.party < 6) || f.resent

/-- Aged frames that wait at a port are dropped (R384). -/
def purgeAged (s : State) (p : Fin 6) : State :=
  let old (f : OutFrame) : Bool := f.port == p && wasSent f && frameAged s f.cells
  bumpBy { s with fab := { s.fab with out := s.fab.out.filter (fun f => !old f) } } .fabAged (s.fab.out.filter old).length

/-- The head frame of a party at a port. -/
def partyHead (s : State) (p : Fin 6) (party : Nat) : Option OutFrame :=
  s.fab.out.find? (fun f => f.port == p && f.party == party && !f.resent)

/-- The frame that a port sends next: one that link retry sends again goes in the next window that has room for it (R392); else the
winner of the arbiter, the first party from the pointer whose head frame fits (R383). -/
def arbWinner (s : State) (p : Fin 6) (room : Nat) : Option OutFrame :=
  match s.fab.out.find? (fun f => f.port == p && f.resent && decide (f.cells.length ≤ room)) with
  | some f => some f
  | none =>
    ((List.range 11).map (fun k => (s.fab.ports[p].arb + k) % 11)).findSome? (fun q =>
      match partyHead s p q with
      | some f => if f.cells.length ≤ room then some f else none
      | none => none)

/-- The frame leaves: a local frame's TICK_LO is the tick in which its origin first sends it (R384). The pointer moves past a winner of the
arbiter. -/
def emitFrame (s : State) (p : Fin 6) (f : OutFrame) : State :=
  let cells := if wasSent f then f.cells else f.cells.map (reHead (fun h => { h with tickLo := BitVec.ofNat 16 s.clk.tick }))
  let f1 : OutFrame := { f with cells := cells }
  let s1 : State := { s with fab := { s.fab with out := s.fab.out.erase f }, io := { s.io with frames := s.io.frames ++ [(p, cells)] } }
  onPort s1 p (fun x => { x with fsent := x.fsent ++ [(s.clk.tick, f1)], arb := if f.resent then x.arb else (f.party + 1) % 11 })

/-- FRAME_SEND (R383): `room` slots are left in the port's window. -/
def execFrameSend (port : Fin 6) (room : Fin 501) (s : State) : Host.Outcome State Fault Refusal :=
  .next (
    if portOpen s port then
      let s1 := purgeAged s port
      match arbWinner s1 port room.val with
      | none => s1
      | some f => emitFrame s1 port f
    else s)

/-! ### RREQ_SERVE (R389, R390) -/

/-- A read entry of a request (R388). -/
structure RreqEnt where
  rtag : Nat
  issueLo : Nat
  ctx : CtxId
  seg : Nat
  off : Nat
  len : Nat
deriving DecidableEq, Repr

def rreqEntOf (n : Nat) : RreqEnt :=
  ⟨bitsOf n 112 16, bitsOf n 96 16, BitVec.ofNat 12 (bitsOf n 84 12), bitsOf n 80 4, bitsOf n 41 39, bitsOf n 32 9⟩

/-- The read entries of a request's cell: PLEN of them. -/
def rreqEnts (c : List Byte) : List RreqEnt :=
  (List.range (cellHeadOf c).plen).map (fun k => rreqEntOf (leAt (cellPayload c) (16 * k) 16))

/-- What serving has given so far: the state, the status entries, the data. -/
structure Served where
  st : State
  ents : List Byte
  data : List Byte

/-- A status entry of a reply (R389). -/
def replyEnt (e : RreqEnt) (status : Nat) : List Byte :=
  leBytes 16 (packFields [(72, 0), (3, status), (9, e.len), (12, e.ctx.toNat), (16, e.issueLo), (16, e.rtag)])

/-- One entry served (R389, R390): too old, illegal here, uncorrectable, or its data. -/
def serveEnt (bad : List Nat) (r : Served) (ke : Nat × RreqEnt) : Served :=
  let (k, e) := ke
  let s := r.st
  if 4096 < ageOf s e.issueLo then { r with st := bump s .fabAged }
  else
    let legal := if 1 ≤ e.len ∧ e.len ≤ 256 then segAddr (ctxOf s e.ctx.toNat).segs e.seg e.off e.len false else none
    match legal with
    | none => ⟨bump s .addrFault, r.ents ++ replyEnt e 3, r.data⟩
    | some a =>
      if bad.contains k then ⟨lastingMem s a (some e.ctx), r.ents ++ replyEnt e 2, r.data⟩
      else
        let s1 := bumpIf ((beansOfRange a e.len).any (beanBusy s)) s .readHeld
        if (rawIn s a e.len).isEmpty && !rangeDead s a e.len then ⟨s1, r.ents ++ replyEnt e 0, r.data ++ memRead s a e.len⟩
        else ⟨lastingMem s1 a (some e.ctx), r.ents ++ replyEnt e 2, r.data⟩

/-- The pre-colour of a reply: the request's colour when the meter is colour-aware (R385). -/
def replyColour (s : State) (c : CtxId) (h : CellHead) : Colour :=
  if (ctxOf s c.toNat).meter.aware ∧ h.yellow then .yellow else .green

/-- The reply frame, coloured by the context's meter (R387): a red one is not sent. -/
def sendReply (r : Served) (h : CellHead) (c : CtxId) : State :=
  let cells := (r.ents.length / 16, r.ents) :: (if r.data = [] then [] else cellsOf r.data)
  let (k, s1) := colourCtx r.st c.toNat (replyColour r.st c h) (256 * cells.length)
  if k = .red then s1 else sendFrame s1 tyRreply h.src (k == .yellow) cells

/-- RREQ_SERVE (R389): `bad` numbers the entries whose data stay uncorrectable. -/
def execRreqServe (cells : FrameCells) (bad : List Nat) (s : State) : Host.Outcome State Fault Refusal :=
  .next (
    let c := cells.headD []
    let h := cellHeadOf c
    if frameOk cells && h.type == tyRreq && h.dest == s.aon.nodeId && h.partition == s.mach.partition then
      let es := rreqEnts c
      let r := ((List.range es.length).zip es).foldl (serveEnt bad) ⟨s, [], []⟩
      match es.head?, r.ents with
      | some e, _ :: _ => sendReply r h e.ctx
      | _, _ => r.st
    else s)

/-! ### RREPLY_RECEIVE (R389, R391) -/

/-- A status entry of a reply: tag, ISSUE_LO, context, LEN, STATUS (R389). -/
structure ReplyEnt where
  rtag : BitVec 16
  issueLo : Nat
  ctx : CtxId
  len : Nat
  status : Nat
deriving DecidableEq, Repr

def replyEntOf (n : Nat) : ReplyEnt :=
  ⟨BitVec.ofNat 16 (bitsOf n 112 16), bitsOf n 96 16, BitVec.ofNat 12 (bitsOf n 84 12), bitsOf n 75 9, bitsOf n 72 3⟩

/-- The tag in flight that a reply's entry matches (R391). -/
def matchTag (s : State) (e : ReplyEnt) : Option RTag :=
  s.fab.tags.find? (fun t => t.tag == e.rtag && t.issue % 65536 == e.issueLo && t.ctx == e.ctx)

/-- The kind of an element with one read fewer to come; `off` and `d` are what the read brought. -/
def oneLess (off : Nat) (d : List Byte) : ElemKind → ElemKind
  | .loadRemote a n => .loadRemote a (n - 1)
  | .gatherRemote i a n got => .gatherRemote i a (n - 1) (got ++ [(off, d)])
  | k => k

/-- What a read and those before it write once the last has come (R174): a staging slot takes an element whole. -/
def heldPieces : ElemKind → List (Nat × List Byte)
  | .gatherRemote _ _ _ got => got
  | _ => []

/-- Whether a read's bytes land as they come: those of a copy do (R202), those of a gathered element wait for its last. -/
def landsAtOnce : ElemKind → Bool
  | .gatherRemote _ _ _ _ => false
  | _ => true

/-- The reads that an element waits for. -/
def readsLeft : ElemKind → Nat
  | .loadRemote _ n => n
  | .gatherRemote _ _ n _ => n
  | _ => 0

/-- A read's bytes land; the element is ARRIVED with its last. -/
def landRead (s : State) (e : Elem) (t : RTag) (d : List Byte) : State :=
  let b := d.take t.len
  if readsLeft e.kind ≤ 1 then
    let s1 := (heldPieces e.kind ++ [(t.off, b)]).foldl (fun s p => tileWrite s e.tile.val p.1 p.2) s
    endElem s1 e .arrived
  else
    let s1 := if landsAtOnce e.kind then tileWrite s e.tile.val t.off b else s
    setElemKind s1 e.id (oneLess t.off b e.kind)

/-- The status with which a failed read ends its element (R189, R389). -/
def readStatus (n : Nat) : ElemStatus := if n = 2 then .unreadable else .absent

/-- A tag is freed, and its element gets what the reply brought (R391). -/
def takeRead (s : State) (t : RTag) (e : ReplyEnt) (d : List Byte) : State :=
  let s1 : State := { s with fab := { s.fab with tags := s.fab.tags.erase t } }
  match elemOf s1 t.elem with
  | none => s1
  | some x =>
    if elemLate s1 x then endElem s1 x .late
    else if e.status = 0 then landRead s1 x t d
    else endElem s1 x (readStatus e.status)

/-- One entry of a reply; the data of the entries before it have been taken. -/
def replyStep (acc : State × List Byte) (e : ReplyEnt) : State × List Byte :=
  let (s, d) := acc
  let n := if e.status = 0 then e.len else 0
  match matchTag s e with
  | none => (bump s .fabStray, d.drop n)
  | some t => (takeRead s t e (slice d 0 n), d.drop n)

/-- RREPLY_RECEIVE (R389, R391). -/
def execRreplyReceive (cells : FrameCells) (s : State) : Host.Outcome State Fault Refusal :=
  .next (
    let c := cells.headD []
    let h := cellHeadOf c
    if frameOk cells && h.type == tyRreply && h.dest == s.aon.nodeId && h.partition == s.mach.partition then
      let es := (List.range h.plen).map (fun k => replyEntOf (leAt (cellPayload c) (16 * k) 16))
      (es.foldl replyStep (s, frameBytes cells.tail)).1
    else s)

end Sys2Proof.Machine
end

