-- ==== Sys2Proof/Machine/HostRegs.lean ====
section
/-! DEFINITION. The host's accesses: REGISTER_WRITE and the rows of single registers (R432 to R441), reads with side effects
(R11, R435, R437), host-memory errors (R431), function level resets and power states (R427, R429). -/

namespace Sys2Proof.Machine

open Sys2Proof

/-! ### Writes -/

/-- REGISTER_WRITE (R11 to R13, R432). -/
def execRegisterWrite (fn : Fin 513) (off : BitVec 26) (bytes : List Byte) (s : State) : Host.Outcome State Fault Refusal :=
  .next (hostDoes s (fun s => if bytes = [] then s else settle s fn.val off.toNat (wrSpace s fn.val off.toNat bytes)))

/-- SQ_TAIL_WRITE (R439). -/
def execSqTailWrite (fn : Fin 513) (v : BitVec 64) (s : State) : Host.Outcome State Fault Refusal :=
  .next (hostDoes s (fun s => queueWrite s fn.val 0x10 v.toNat))

/-- CQ_HEAD_WRITE (R439). -/
def execCqHeadWrite (fn : Fin 513) (v : BitVec 64) (s : State) : Host.Outcome State Fault Refusal :=
  .next (hostDoes s (fun s => queueWrite s fn.val 0x30 v.toNat))

/-- CQ_ENABLE (R440): a write of CQ_CTL with EN = 1. -/
def execCqEnable (fn : Fin 513) (v : BitVec 64) (s : State) : Host.Outcome State Fault Refusal :=
  .next (hostDoes s (fun s => if bit v 63 then queueWrite s fn.val 0x28 v.toNat else s))

/-- CQ_DISABLE (R440): a write of CQ_CTL with EN = 0. -/
def execCqDisable (fn : Fin 513) (v : BitVec 64) (s : State) : Host.Outcome State Fault Refusal :=
  .next (hostDoes s (fun s => if bit v 63 then s else queueWrite s fn.val 0x28 v.toNat))

/-- CQ_FAULT_CLEAR (R439): a write of CQ_CTL with FAULT = 1. -/
def execCqFaultClear (fn : Fin 513) (v : BitVec 64) (s : State) : Host.Outcome State Fault Refusal :=
  .next (hostDoes s (fun s => if bit v 61 then queueWrite s fn.val 0x28 v.toNat else s))

/-- EVT_RING_ENABLE (R479): a write of EVT_RING_CTL. -/
def execEvtRingEnable (v : BitVec 64) (s : State) : Host.Outcome State Fault Refusal :=
  .next (hostDoes s (fun s => regWrite s .evtRingCtl v.toNat))

/-- EVT_HEAD_WRITE (R479). -/
def execEvtHeadWrite (v : BitVec 64) (s : State) : Host.Outcome State Fault Refusal :=
  .next (hostDoes s (fun s => regWrite s .evtHead v.toNat))

/-- EVT_DOORBELL (R474, R479). -/
def execEvtDoorbell (v : BitVec 64) (s : State) : Host.Outcome State Fault Refusal :=
  .next (hostDoes s (fun s => regWrite s .evtDoorbell v.toNat))

/-- FENCE_CLOSE (R364): a write of FAB_FENCE that sets some FENCE bit. -/
def execFenceClose (v : BitVec 32) (s : State) : Host.Outcome State Fault Refusal :=
  .next (hostDoes s (fun s => if v &&& 7 = 0 then s else regWrite s .fabFence v.toNat))

/-- FENCE_OPEN_REQUEST (R364): a write of FAB_FENCE that clears some FENCE bit. -/
def execFenceOpenRequest (v : BitVec 32) (s : State) : Host.Outcome State Fault Refusal :=
  .next (hostDoes s (fun s => if v &&& 7 = 7 then s else regWrite s .fabFence v.toNat))

/-- BEAN_READMIT (R153): a write of BEAN_OUT_i. -/
def execBeanReadmit (i : Fin 192) (v : BitVec 32) (s : State) : Host.Outcome State Fault Refusal :=
  .next (hostDoes s (fun s => settle s 0 (regOffset .beanOut + 4 * i.val) (wrBeanOut s i.val v.toNat)))

/-- REHEARSAL_ARM (R423, R424): a write of REH_CTL with ARM = 1. -/
def execRehearsalArm (v : BitVec 64) (s : State) : Host.Outcome State Fault Refusal :=
  .next (hostDoes s (fun s => if bit v 1 then regWrite s .rehCtl v.toNat else s))

/-- DBG_ROW_WRITE (R437): the mapping changes at the next boundary. -/
def execDbgRowWrite (v : BitVec 64) (s : State) : Host.Outcome State Fault Refusal :=
  .next (hostDoes s (fun s => regWrite s .dbgRow v.toNat))

/-! ### Reads with side effects -/

/-- A register read's answer. -/
def answer (s : State) (v : Nat) : State :=
  { s with io := { s.io with readData := BitVec.ofNat 512 v, readAbort := false } }

/-- COUNTER_READ (R11, R14): the value, and the counter is cleared. -/
def execCounterRead (c : Counter) (s : State) : Host.Outcome State Fault Refusal :=
  .next (hostDoes s (fun s => clearCounter (answer s (counterOf s c).toNat) c))

/-- WRITE_STATUS as it reads (R435). -/
def writeStatusNat (w : WriteStatus) : Nat :=
  packFields [(32, w.offset.toNat), (8, w.status.toNat), (22, 0), (1, b2n w.more), (1, b2n w.valid)]

/-- WRITE_STATUS_READ (R11, R435): the register reads and clears. -/
def execWriteStatusRead (fn : Fin 513) (s : State) : Host.Outcome State Fault Refusal :=
  .next (hostDoes s (fun s =>
    onFunc (answer s (writeStatusNat (funcOf s fn.val).ws)) fn.val (fun f => { f with ws := WriteStatus.reset })))

/-- DEBUG_WINDOW_READ (R142, R437): an ordinary access to the row window at DBG_ROW. -/
def execDebugWindowRead (off : BitVec 25) (len : Fin 65) (odd : List (Nat × Burst × Burst)) (s : State) :
    Host.Outcome State Fault Refusal :=
  .next (hostDoes s (fun s =>
    if len.val = 0 ∨ 33554432 < off.toNat + len.val then s
    else ordinaryAccess s ⟨.debug, false, s.host.dbgRow.toNat * 1024 + off.toNat, len.val, [], odd⟩))

/-! ### Host-memory errors (R431) -/

/-- A write to host memory failed twice: the function is faulted. -/
def faultFunc (s : State) (fn : Nat) : State :=
  raiseEvent (bump (onFunc s fn (fun f => { f with fault := true })) .hostFault) evHostFault fn

/-- The mailbox answers (R456, R460). -/
def mbxReply (s : State) (st : BitVec 8) (reply : List (BitVec 64)) : State :=
  { s with host := { s.host with mbx := { s.host.mbx with busy := false, held := false, status := st,
                                                          reply := (List.range 4).map (fun i => reply.getD i 0) } } }

/-- HOST_ACCESS_ERROR (R431): one retry; then a plan's read ends its element UNREADABLE, a mailbox read ends its command with
MEDIA_ERROR, a write faults the function. -/
def execHostAccessError (a : HostAccess) (retryOk : Bool) (s : State) : Host.Outcome State Fault Refusal :=
  .next (hostDoes s (fun s =>
    if retryOk then bump s .hostRetry
    else
      match a with
      | .planRead id =>
        match elemOf s id with
        | some e => (match e.kind with | .loadHost _ _ _ => hostReadFailed s e | _ => s)
        | none => s
      | .mailboxRead => if s.host.mbx.busy then mbxReply s stMediaError [] else s
      | .write fn => faultFunc s fn.val))

/-! ### Function level resets and power states -/

/-- VF_FLR (R429): takes effect at the next boundary. -/
def execVfFlr (fn : Fin 513) (s : State) : Host.Outcome State Fault Refusal :=
  .next (hostDoes s (fun s => if fn.val = 0 then s else onFunc s fn.val (fun f => { f with flrAsked := true })))

/-- FUNCTION_POWER_STATE_WRITE (R427): in D3hot a function consumes no descriptors. -/
def execFunctionPowerStateWrite (fn : Fin 513) (d3hot : Bool) (s : State) : Host.Outcome State Fault Refusal :=
  .next (hostDoes s (fun s => onFunc s fn.val (fun f => { f with d3 := d3hot })))

end Sys2Proof.Machine
end

