-- ==== Sys2Proof/Machine/MbxOps.lean ====
section
/-! DEFINITION. The mailbox (R456, R457, R460, R533): the command word and the order of its checks. -/

namespace Sys2Proof.Machine

open Sys2Proof

/-! ### The command (R457) -/

structure MbxCmd where
  addr : Nat
  len : Nat
  a0 : Nat
  a1 : Nat
  ctx : CtxId
  op : Nat
  reserved : Bool
deriving DecidableEq, Repr

def mbxCmdOf (v : Nat) : MbxCmd :=
  { addr := bitsOf v 448 64, len := bitsOf v 416 32, a0 := bitsOf v 352 64, a1 := bitsOf v 288 64,
    ctx := BitVec.ofNat 12 (bitsOf v 12 12), op := bitsOf v 0 8,
    reserved := bitsOf v 24 264 != 0 || bitsOf v 8 4 != 0 }

/-- The command in the registers. -/
def mbxCmd (s : State) : MbxCmd := mbxCmdOf s.host.mbx.cmd.toNat

/-- Opcodes of R458 and R507 that name a command. -/
def mbxKnown (op : Nat) : Bool := (decide (1 ≤ op) && decide (op ≤ 0x11)) || (decide (0x20 ≤ op) && decide (op ≤ 0x29))

/-- Opcodes accepted at the node's present stage (R484, R507). -/
def mbxAccepted (s : State) (op : Nat) : Bool := (decide (0x20 ≤ op) && decide (op ≤ 0x26)) || atReady s

/-- What a row of R458 or R507 requires: the bits of ARG0 and ARG1 it uses, its LEN, whether it takes a context. -/
structure MbxRow where
  op : Nat
  takesCtx : Bool
  bits0 : Nat
  bits1 : Nat
  lenOk : Nat → Bool

/-- Step 3 of R533. -/
def mbxFieldsOk (r : MbxRow) (c : MbxCmd) : Bool :=
  !c.reserved && decide (c.a0 < 2 ^ r.bits0) && decide (c.a1 < 2 ^ r.bits1) && r.lenOk c.len
  && (if c.len = 0 then c.addr == 0 else c.addr % 32 == 0) && (r.takesCtx || c.ctx == 0)

/-- An answer: the state, the status and the reply words. -/
structure MbxAns where
  state : State
  status : BitVec 8
  reply : List (BitVec 64)

/-- What a command answers, or the status that fails it with nothing changed (R460). -/
abbrev MbxRes := Except (BitVec 8) MbxAns

/-- A command that completes with DONE and no reply data. -/
def mbxDone (s : State) : MbxRes := .ok ⟨s, stDone, []⟩

/-- A command that fails after an access that counted an error of its own (R85). -/
def mbxFailed (s : State) (st : BitVec 8) : MbxRes := .ok ⟨s, st, []⟩

/-- A check: the command fails with a status unless a condition holds. -/
def mbxNeed (b : Bool) (st : BitVec 8) (k : MbxRes) : MbxRes := if b then k else .error st

/-- Step 5 of R533: the command's data, or the status of R431. -/
def mbxData (d : HostData) (k : List Byte → MbxRes) : MbxRes :=
  match d with
  | none => .error stMediaError
  | some b => k b

/-- Step 6 of R533, for a command on a context that exists: destroyed contexts no longer do (R450, R460). -/
def ctxKnown (s : State) (c : CtxId) : Bool :=
  let x := ctxOf s c.toNat
  x.live && !x.destroyNow && !x.destroying

def mbxCtx (s : State) (c : MbxCmd) (k : MbxRes) : MbxRes := mbxNeed (ctxKnown s c.ctx) stBadContext k

/-- Steps 2 to 7 of R533. -/
def mbxCheck (s : State) (r : MbxRow) (body : MbxCmd → MbxRes) : MbxRes :=
  mbxNeed (mbxAccepted s r.op) stFenced (mbxNeed (mbxFieldsOk r (mbxCmd s)) stBadField (body (mbxCmd s)))

/-- A row runs when its command has been started with GO: it answers, and a command that fails changes nothing (R460). -/
def mbxRun (s : State) (r : MbxRow) (body : MbxCmd → MbxRes) : State :=
  if s.host.mbx.busy && (mbxCmd s).op == r.op then
    match mbxCheck s r body with
    | .ok a => mbxReply a.state a.status a.reply
    | .error st => mbxReply s st []
  else s

/-- An accepted command's effect waits for the boundary. -/
def mbxQueue (s : State) (e : MbxEff) : State := { s with mbxDue := s.mbxDue ++ [e] }

end Sys2Proof.Machine
end

