-- ==== Sys2Proof/Machine/MbxCtx.lean ====
section
/-! DEFINITION. Mailbox commands of contexts, shards and node memory (R448 to R450, R35 to R41, R75, R76, R169, R302, R385,
R455, R458, R459). -/

namespace Sys2Proof.Machine

open Sys2Proof

/-- PF_FLR (R429): a reset of the whole node. -/
def execPfFlr (s : State) : Host.Outcome State Fault Refusal :=
  .next (hostDoes s (fun s => resetNode s .pfFlr))

/-- MBX_BAD_OPCODE (R533): a command that names no row. -/
def execMbxBadOpcode (s : State) : Host.Outcome State Fault Refusal :=
  .next (if s.host.mbx.busy && !mbxKnown (mbxCmd s).op then mbxReply s stBadOpcode [] else s)

/-! ### Contexts (R448 to R450) -/

/-- An admission word's fields (R449). -/
def admWordOf (n : Nat) : AdmWord :=
  { owner := bitsOf n 118 10, weight := bitsOf n 102 16, qMax := bitsOf n 86 16, burst := bitsOf n 62 24,
    minCov := bitsOf n 46 16 }

/-- The legal admission words of a context (R449, R533). -/
def admWordOk (n : Nat) (c : CtxId) : Bool :=
  let w := admWordOf n
  bitsOf n 12 34 == 0 && bitsOf n 0 12 == c.toNat && decide (w.owner ≤ 512) && decide (1 ≤ w.weight) && decide (1 ≤ w.qMax)

/-- A context descriptor's fields (R448), and the admission word that follows it. -/
def ctxOfWords (n a : Nat) : Ctx :=
  { Ctx.reset with
      live := true, ns := bitsOf n 235 21, metric := bitsOf n 232 3, dim := bitsOf n 219 13, fvFormat := bitsOf n 217 2,
      fvUnits := bitsOf n 209 8, outliers := bitOf n 208, graph := bitsOf n 206 2,
      spillRatio := BitVec.ofNat 16 (bitsOf n 190 16), adm := admWordOf a }

/-- A spill ratio from 0 to 0.5 (R39). -/
def spillOk (r : F16) : Bool := f16Finite r && f16NonNeg r && f16Le r 0x3800

/-- The legal context descriptors (R33, R48, R55, R56, R86, R448). -/
def ctxWordOk (n : Nat) (c : CtxId) : Bool :=
  let x := ctxOfWords n 0
  bitsOf n 12 178 == 0 && bitsOf n 0 12 == c.toNat && decide (1 ≤ x.ns) && decide (x.ns ≤ 1048576) && decide (x.metric ≤ 3)
  && x.dim % 32 == 0 && decide (32 ≤ x.dim) && decide (x.dim ≤ 4096) && decide (x.fvFormat ≤ 2)
  && decide (1 ≤ x.fvUnits) && decide (x.fvUnits ≤ 128)
  && decide (imageNeeds x.graph x.fvFormat x.dim x.outliers ≤ 32 * x.fvUnits)
  && (x.graph == 0 || 32 * x.fvUnits == 512 * 2 ^ x.graph) && spillOk x.spillRatio

/-- Whether a context id is free to be created (R448, R450, R460). -/
def ctxFree (s : State) (c : CtxId) : Bool :=
  let x := ctxOf s c.toNat
  !x.live || ((x.destroyNow || x.destroying) && !ctxAdmitted s c.toNat)

/-- The queued requests of a context that was destroyed and is created again still complete with ABORTED (R450). -/
def doomQueued (s : State) (c : CtxId) : State :=
  { s with host := { s.host with queued := s.host.queued.map (fun r => if r.ctx = c then { r with doomed := true } else r) } }

/-- CTX_CREATE (R448, R449). -/
def execCtxCreate (data : HostData) (s : State) : Host.Outcome State Fault Refusal :=
  .next (mbxRun s ⟨0x01, true, 0, 0, (· == 48)⟩ (fun c => mbxData data (fun b =>
    mbxNeed (ctxFree s c.ctx) stBadContext
      (mbxNeed (ctxWordOk (leAt b 0 32) c.ctx && admWordOk (leAt b 32 16) c.ctx) stBadField
        (mbxDone (putCtx (dropCtx (doomQueued s c.ctx) c.ctx.toNat) c.ctx.toNat (ctxOfWords (leAt b 0 32) (leAt b 32 16))))))))

/-- CTX_DESTROY (R450): at the next boundary. -/
def execCtxDestroy (s : State) : Host.Outcome State Fault Refusal :=
  .next (mbxRun s ⟨0x02, true, 0, 0, (· == 0)⟩ (fun c => mbxCtx s c
    (mbxDone (onCtx s c.ctx.toNat (fun x => { x with destroyNow := true })))))

/-- CTX_ADMIT (R449, R450). -/
def execCtxAdmit (data : HostData) (s : State) : Host.Outcome State Fault Refusal :=
  .next (mbxRun s ⟨0x03, true, 0, 0, (· == 16)⟩ (fun c => mbxData data (fun b => mbxCtx s c
    (mbxNeed (admWordOk (leAt b 0 16) c.ctx) stBadField
      (mbxDone (onCtx s c.ctx.toNat (fun x => { x with admNext := some (admWordOf (leAt b 0 16), s.clk.tick) })))))))

/-- ADMISSION_WORD_EFFECT (R450): at the first boundary after the command, before descriptors are consumed. -/
def execAdmissionWordEffect (ctx : CtxId) (s : State) : Host.Outcome State Fault Refusal :=
  .next (
    match (ctxOf s ctx.toNat).admNext with
    | none => s
    | some (w, t) =>
      if t < s.clk.tick ∧ s.clk.did.consumed = false then
        let s1 := onCtx s ctx.toNat (fun x => { x with adm := w, admNext := none })
        (s1.host.queued.filter (fun r => r.ctx == ctx && r.fn.val != w.owner && r.fn.val != 0)).foldl
          (fun s r => failQueued s r stNoRights) s1
      else s)

/-! ### Shards (R35 to R41, R459) -/

/-- Nodes of the partition, as the membership announces them (R35, R413). -/
def inPartition (s : State) (n : NodeId) : Bool := s.mach.members.contains n || s.mach.nextMembers.contains n

/-- A shard map entry as software may write it (R35). -/
def mapEntryOk (s : State) (c : CtxId) (i : Nat) (w : Nat) : Bool :=
  let st := match (shardEnt s c.toNat i).state with
    | .serving => 0
    | .takeover => 1
    | .filling => 2
    | .lost => 3
  let partner : NodeId := BitVec.ofNat 15 (bitsOf w 15 15)
  let primary : NodeId := BitVec.ofNat 15 (bitsOf w 0 15)
  bitsOf w 30 2 == st && partner != primary && inPartition s partner && inPartition s primary

/-- SHARD_MAP (R35, R458). -/
def execShardMap (data : HostData) (s : State) : Host.Outcome State Fault Refusal :=
  .next (mbxRun s ⟨0x04, true, 20, 0, fun n => n % 4 == 0 && decide (4 ≤ n) && decide (n ≤ 65536)⟩
    (fun c => mbxData data (fun b => mbxCtx s c
      (let v := mbxView s
       let n := c.len / 4
       mbxNeed (decide (c.a0 + n ≤ (ctxOf s c.ctx.toNat).ns)
           && (List.range n).all (fun i => mapEntryOk v c.ctx (c.a0 + i) (leAt b (4 * i) 4))) stBadField
         (mbxDone (mbxQueue s (.shardMap c.ctx c.a0 ((List.range n).map (fun i =>
           let w := leAt b (4 * i) 4
           (BitVec.ofNat 15 (bitsOf w 15 15), BitVec.ofNat 15 (bitsOf w 0 15)))))))))))

/-- A shard map entry that has been written (R35). -/
def mapWritten (e : ShardEnt) : Bool := e.primary != e.partner || e.state != .serving

/-- Whether a shard-copy descriptor's role agrees with the shard map (R37). -/
def roleOk (v : State) (c : ShardCopy) : Bool :=
  let e := shardEnt v c.ctx.toNat c.shard.toNat
  match c.role with
  | 0 => mapWritten e && e.primary == v.aon.nodeId
  | 1 => mapWritten e && e.partner == v.aon.nodeId
  | 2 => c.dirBase == 0 && c.dirLog2 == 0 && c.spillBase == 0 && c.spillLog2 == 0 && c.recBase == 0
  | _ => false

/-- The legal fields of a shard-copy descriptor (R37). -/
def copyFieldsOk (v : State) (n : Nat) (ctx : CtxId) : Bool :=
  let c := shardCopyOf n
  bitsOf n 34 47 == 0 && decide (c.dirLog2 ≤ 24) && decide (c.spillLog2 ≤ 24) && decide (1 ≤ c.partCount)
  && decide (c.shard.toNat < (ctxOf v ctx.toNat).ns) && c.ctx == ctx && roleOk v c

/-- Where a new shard copy lies (R38, R532): its four tables in memory, clear of each other and of every region but those of
the copy it replaces. -/
def copyPlaced (v : State) (c : ShardCopy) : Bool :=
  let k := shardKey c.ctx.toNat c.shard.toNat
  let rs := copyRanges v { c with loaded := [] } (ctxCl v c.ctx.toNat)
  rs.all inMemory && rs.all (fun r => !clashes v (fun o => o != .copy k && o != .scale k) r)
  && (List.range rs.length).all (fun i => (List.range i).all (fun j => !overlap (rs.getD i (0, 0)) (rs.getD j (0, 0))))

/-- PART_COUNTs of a context's copies on the node (R38), with one replaced. -/
def partSum (v : State) (c : ShardCopy) : Nat :=
  (((copiesOf v c.ctx.toNat).filter (fun x => x.shard != c.shard)).map (·.partCount)).foldl (· + ·) c.partCount

/-- What keeps a copy from being replaced (R532): an open change entry, a migration, a fill. -/
def copyBusy (s : State) (c : ShardCopy) : Bool :=
  (copyOf s c.ctx.toNat c.shard.toNat).isSome
  && ((openChgs s).any (fun kv => kv.2.ctx == c.ctx && kv.2.shard == c.shard)
      || s.upd.migs.any (fun m => m.ctx == c.ctx && m.shard == c.shard)
      || s.mach.fills.any (fun f => f.ctx == c.ctx && f.shard == c.shard))

/-- SHARD_COPY (R37, R38, R532). -/
def execShardCopy (data : HostData) (s : State) : Host.Outcome State Fault Refusal :=
  .next (mbxRun s ⟨0x05, true, 0, 0, (· == 32)⟩ (fun c => mbxData data (fun b => mbxCtx s c
    (let v := mbxView s
     let x := shardCopyOf (leAt b 0 32)
     mbxNeed (copyFieldsOk v (leAt b 0 32) c.ctx && copyPlaced v x) stBadField
       (mbxNeed (decide (partSum v x ≤ 1048576)) stCapacity
         (mbxNeed (!copyBusy v x) stQueueFull (mbxDone (mbxQueue s (.shardCopy x)))))))))

/-- The partitions loaded for a context, but for partition `i` of one copy. -/
def otherParts (v : State) (c : ShardCopy) (i : Nat) : List Part :=
  (copiesOf v c.ctx.toNat).flatMap (fun k =>
    (k.loaded.filter (fun j => !(k.shard == c.shard && j == i))).map (fun j => readPart v k j))

/-- The fields of a partition descriptor (R40, R41, R45, R86). -/
def partFieldsOk (v : State) (c : ShardCopy) (x : Ctx) (i n : Nat) : Bool :=
  let p := partOf n
  let cl := codeLen p.fmt p.dim
  let old := readPart v c i
  p.reserved == 0 && p.num == i && decide (i < c.partCount) && p.shard == c.shard.toNat && decide (p.fmt ≤ 4)
  && (x.metric != 3 || p.fmt == 0) && decide (p.tailCap ≤ 2) && p.dim % 32 == 0 && decide (32 ≤ cl) && decide (cl ≤ 256)
  && p.recSize == 1 + cl / 16 + p.tailCap && (p.fmt == 1 || p.fmt == 2 || p.scaleAddr == 0)
  && decide (1 ≤ p.rowCap) && decide (p.rowCap + p.rowBase ≤ 8388608)
  && (otherParts v c i).all (fun q => (q.fmt, q.dim, q.tailCap, q.recSize) == (p.fmt, p.dim, p.tailCap, p.recSize))
  && (!c.loaded.contains i || old.rowCount == 0
      || ({ p with rowCap := old.rowCap, rowCount := old.rowCount, liveCount := old.liveCount } == old
          && decide (old.rowCount ≤ p.rowCap)))

/-- Whether two scale vectors may coincide (R38): those of one context, exactly. -/
def scaleShares (v : State) (ctx : CtxId) (r : Nat × Nat) : Bool :=
  (regions v).all (fun y =>
    !(decide (0 < y.2.2) && overlap r y.2)
    || (match y.1 with | .scale k => k / 1048576 == ctx.toNat && y.2 == r | _ => false))

/-- Where a partition's extent and scale vector lie (R38). `v` holds the copy without the partition. -/
def partPlaced (v : State) (c : ShardCopy) (n : Nat) : Bool :=
  let p := partOf n
  if c.role = 2 then true
  else
    let ext := ((c.recBase + p.rowBase) * 1024, p.rowCap * 1024)
    let sc := (p.scaleAddr * 32, (p.dim / 32 + 31) / 32 * 32)
    inMemory ext && !clashes v (fun _ => true) ext
    && (!(p.fmt == 1 || p.fmt == 2) || (inMemory sc && scaleShares v c.ctx sc && !overlap sc ext))

/-- One descriptor checked against the view with its predecessors in it; the view with it, or none. -/
def partStep (ctx : CtxId) (sh : BitVec 20) (v : Option State) (iw : Nat × Nat) : Option State :=
  match v with
  | none => none
  | some v =>
    match copyOf v ctx.toNat sh.toNat with
    | none => none
    | some c =>
      let without := putCopy v ctx.toNat sh.toNat (some { c with loaded := c.loaded.filter (· != iw.1) })
      if partFieldsOk v c (ctxOf v ctx.toNat) iw.1 iw.2 && partPlaced without c iw.2 then some (setPart v ctx sh iw.1 iw.2)
      else none

/-- The centroid tables of a context's copies with the true CL (R38): in memory, each clear of every other region. -/
def centroidsPlaced (v : State) (ctx : CtxId) : Bool :=
  (copiesOf v ctx.toNat).all (fun c =>
    let r := (c.centroidBase * 1024, c.partCount * ctxCl v ctx.toNat)
    inMemory r && decide (((regions v).filter (fun y => decide (0 < y.2.2) && overlap r y.2)).length ≤ 1))

/-- PART_WRITE (R38, R40, R41). -/
def execPartWrite (data : HostData) (s : State) : Host.Outcome State Fault Refusal :=
  .next (mbxRun s ⟨0x06, true, 20, 20, fun n => n % 32 == 0 && decide (32 ≤ n) && decide (n ≤ 262144)⟩
    (fun c => mbxData data (fun b => mbxCtx s c
      (let v := mbxView s
       let sh : BitVec 20 := BitVec.ofNat 20 c.a0
       let words := (List.range (c.len / 32)).map (fun i => leAt b (32 * i) 32)
       let after := (List.range words.length).foldl (fun v i => partStep c.ctx sh v (c.a1 + i, words.getD i 0)) (some v)
       match after with
       | none => .error stBadField
       | some w =>
         let known := (ctxOf v c.ctx.toNat).codeFormat.isSome && ctxCl v c.ctx.toNat == ctxCl w c.ctx.toNat
         mbxNeed (known || centroidsPlaced w c.ctx) stBadField
           (mbxDone (mbxQueue s (.parts c.ctx sh c.a1 words)))))))

/-- SHARD_RELOAD (R459): the steward is told; STATE changes at an epoch boundary. -/
def msgReload : Nat := 10

def execShardReload (s : State) : Host.Outcome State Fault Refusal :=
  .next (mbxRun s ⟨0x11, true, 20, 0, (· == 0)⟩ (fun c => mbxCtx s c
    (let e := shardEnt (mbxView s) c.ctx.toNat c.a0
     mbxNeed (decide (c.a0 < (ctxOf s c.ctx.toNat).ns) && e.state == .lost) stBadField
       (let s1 := putShard s c.ctx.toNat c.a0 { shardEnt s c.ctx.toNat c.a0 with reload := true }
        mbxDone (if s.mach.role = .steward then s1
          else sendMsg s1 s.mach.steward msgReload (leBytes 4 c.ctx.toNat ++ leBytes 4 c.a0))))))

/-! ### Node memory (R458) -/

/-- A MEM_WRITE or MEM_READ address and length lie in node memory. -/
def memArgOk (c : MbxCmd) : Bool := c.a0 % 32 == 0 && inMemory (c.a0, c.len)

/-- A scale vector of a partition that holds records (R67). -/
def scaleInUse (v : State) (r : Nat × Nat) : Bool :=
  (allCopies v).any (fun c =>
    (c.loaded.map (readPart v c)).any (fun d =>
      (d.fmt == 1 || d.fmt == 2) && decide (0 < d.rowCount)
      && overlap r (d.scaleAddr * 32, (d.dim / 32 + 31) / 32 * 32)))

/-- MEM_WRITE (R67, R120, R170, R458): a tile write of the completion tick; its partial bursts are read first. -/
def execMemWrite (data : HostData) (odd : List (Nat × Burst × Burst)) (s : State) : Host.Outcome State Fault Refusal :=
  .next (mbxRun s ⟨0x07, false, 64, 0, fun n => n % 32 == 0 && decide (32 ≤ n) && decide (n ≤ 67108864)⟩
    (fun c => mbxData data (fun b =>
      mbxNeed (memArgOk c && !scaleInUse (mbxView s) (c.a0, c.len)) stBadField
        (let w : TileWrite := ⟨0, s.nextElem, c.a0, slice b 0 c.len⟩
         match readPartial s c.a0 c.len odd with
         | (s1, l, none) =>
           let s2 := l.foldl (fun s x => memWrite s x.1 x.2) s1
           mbxDone { s2 with memWrites := s2.memWrites ++ [w], nextElem := s2.nextElem + 1 }
         | (s1, _, some x) => mbxFailed (lastingMem s1 x none) stMediaError))))

/-- Whether the command started is a MEM_READ of bytes whose pairs compute (R142). -/
def memReadWaits (s : State) : Bool :=
  let c := mbxCmd s
  s.host.mbx.busy && c.op == 0x08 && memArgOk c && (beansOfRange c.a0 c.len).any (beanBusy s)

/-- MEM_READ (R84, R142, R458): the bytes go to host memory; uncorrectable data give MEDIA_ERROR. A read that meets a computing pair
is held, and counted once. -/
def execMemRead (odd : List (Nat × Burst × Burst)) (s : State) : Host.Outcome State Fault Refusal :=
  .next (if memReadWaits s then
      bumpIf (!s.host.mbx.held) { s with host := { s.host with mbx := { s.host.mbx with held := true } } } .readHeld
    else mbxRun s ⟨0x08, false, 64, 0, fun n => decide (32 ≤ n) && decide (n ≤ 67108864)⟩ (fun c =>
    mbxNeed (memArgOk c) stBadField
      (match nodeRead s c.a0 c.len odd none with
       | (s1, some d) => mbxDone { s1 with io := { s1.io with hostWrites := s1.io.hostWrites ++ [(c.addr, d)] } }
       | (s1, none) => mbxFailed s1 stMediaError)))

/-! ### Calibration, segments, tiers, meters -/

/-- A calibration record's fields as a load sets them (R75, R76). -/
def calOf (n : Nat) : Cal :=
  let f (lo : Nat) : F16 := BitVec.ofNat 16 (bitsOf n lo 16)
  let cal := if f 240 = 0x8000 then 0 else f 240
  { marginCal := cal, marginMin := f 224, marginMax := f 208, marginStep := f 192, outlierRatio := f 176,
    missTarget := bitsOf n 160 16, rateRef := bitsOf n 128 32, rateObs := 0, marginNow := cal,
    narrowAfter := bitsOf n 72 8, calm := 0, calId := BitVec.ofNat 16 (bitsOf n 48 16), auditEn := bitOf n 15,
    calClass := bitsOf n 13 2, state := if bitOf n 15 then .normal else .off }

/-- The legal calibration records (R75). -/
def calOk (n : Nat) : Bool :=
  let c := calOf n
  bitsOf n 16 32 == 0 && bitsOf n 0 11 == 0
  && f16Finite c.marginCal && f16NonNeg c.marginCal && f16Le c.marginMin c.marginCal && f16Le c.marginCal c.marginMax
  && f16Finite c.marginMin && f16NonNeg c.marginMin && f16Le c.marginMin c.marginMax && f16Finite c.marginMax
  && f16Finite c.marginStep && !f16Le c.marginStep 0
  && f16Finite c.outlierRatio && f16Le 0x3C00 c.outlierRatio
  && decide (1 ≤ c.missTarget) && decide (1 ≤ c.narrowAfter) && decide (c.calClass ≤ 2)

/-- CAL_LOAD (R75, R76). -/
def execCalLoad (data : HostData) (s : State) : Host.Outcome State Fault Refusal :=
  .next (mbxRun s ⟨0x09, true, 0, 0, (· == 32)⟩ (fun c => mbxData data (fun b => mbxCtx s c
    (mbxNeed (calOk (leAt b 0 32)) stBadField
      (mbxDone (onCtx s c.ctx.toNat (fun x => { settleCal s x with calNext := some (calOf (leAt b 0 32), s.clk.tick) })))))))

/-- A legal segment descriptor (R169). -/
def segOk (n : Nat) : Bool :=
  bitsOf n 2 4 == 0 && decide (bitsOf n 35 29 + bitsOf n 6 29 ≤ memRows)
  && (if bitOf n 0 then decide (1 ≤ bitsOf n 6 29) else bitsOf n 6 29 == 0)

/-- SEG_WRITE (R169). -/
def execSegWrite (data : HostData) (s : State) : Host.Outcome State Fault Refusal :=
  .next (mbxRun s ⟨0x0A, true, 0, 0, (· == 128)⟩ (fun c => mbxData data (fun b => mbxCtx s c
    (let l := (List.range 16).map (fun i => leAt b (8 * i) 8)
     mbxNeed (l.all segOk) stBadField
       (mbxDone (onCtx s c.ctx.toNat (fun x => { x with segsNext := some (l.map (BitVec.ofNat 64)) })))))))

/-- A tier control word (R302). -/
def tierOf (n : Nat) : Tier :=
  { localHot := bitOf n 126, hotBase := bitsOf n 97 29, hotRows := bitsOf n 68 29, purgeLog2 := bitsOf n 60 8,
    updRate := bitsOf n 44 16, updBurst := bitsOf n 28 16 }

/-- The legal tier control words of a context (R38, R302). -/
def tierOk (v : State) (c : CtxId) (n : Nat) : Bool :=
  let t := tierOf n
  bitsOf n 0 28 == 0 && decide (bitsOf n 126 2 ≤ 1) && decide (t.hotBase + t.hotRows ≤ memRows)
  && regionOk v (.hot c.toNat) (t.hotBase * 1024, t.hotRows * 1024)
  && decide (16 ≤ t.purgeLog2) && decide (t.purgeLog2 ≤ 32) && (t.updRate == 0 || decide (1 ≤ t.updBurst))

/-- A tier change is taking effect (R303). -/
def tierBusy (x : Ctx) : Bool :=
  x.tierChange.isSome || (match x.tierNext with | some w => tierMoves x.tier w | none => false)

/-- TIER_LOAD (R302, R303). -/
def execTierLoad (data : HostData) (s : State) : Host.Outcome State Fault Refusal :=
  .next (mbxRun s ⟨0x0B, true, 0, 0, (· == 16)⟩ (fun c => mbxData data (fun b => mbxCtx s c
    (mbxNeed (tierOk (mbxView s) c.ctx (leAt b 0 16)) stBadField
      (mbxNeed (!tierBusy (ctxOf s c.ctx.toNat)) stQueueFull
        (mbxDone (onCtx s c.ctx.toNat (fun x => { x with tierNext := some (tierOf (leAt b 0 16)) }))))))))

/-- A fabric control word or policing word (R385, R455). -/
def meterOf (n : Nat) : Meter :=
  { mode := bitsOf n 126 2, aware := bitOf n 125, rrMax := bitsOf n 109 16, cir := bitsOf n 89 20, pir := bitsOf n 69 20,
    cbs := bitsOf n 45 24, ebs := bitsOf n 21 24, tc := 0, te := 0 }

/-- The legal ones (R385). -/
def meterOk (n : Nat) : Bool :=
  let m := meterOf n
  bitsOf n 0 21 == 0 && decide (m.mode ≤ 2)
  && (m.mode == 0 || (decide (1 ≤ m.cir) && decide (8192 ≤ m.cbs)))
  && (if m.mode = 2 then decide (m.cir ≤ m.pir) && decide (8192 ≤ m.ebs) else m.pir == 0)

/-- FAB_LOAD (R385). -/
def execFabLoad (data : HostData) (s : State) : Host.Outcome State Fault Refusal :=
  .next (mbxRun s ⟨0x0C, true, 0, 0, (· == 16)⟩ (fun c => mbxData data (fun b => mbxCtx s c
    (mbxNeed (meterOk (leAt b 0 16)) stBadField
      (mbxDone (onCtx s c.ctx.toNat (fun x => { x with meterNext := some (meterOf (leAt b 0 16)) })))))))

/-- VF_POLICE (R455): RR_MAX is reserved. -/
def execVfPolice (data : HostData) (s : State) : Host.Outcome State Fault Refusal :=
  .next (mbxRun s ⟨0x0D, false, 10, 0, (· == 16)⟩ (fun c => mbxData data (fun b =>
    mbxNeed (decide (c.a0 ≤ 512) && meterOk (leAt b 0 16) && (meterOf (leAt b 0 16)).rrMax == 0) stBadField
      (mbxDone (onFunc s c.a0 (fun f => { f with meterNext := some (meterOf (leAt b 0 16)) }))))))

end Sys2Proof.Machine
end

