-- ==== Sys2Proof/Machine/MemTrain.lean ====
section
/-! DEFINITION. Retraining of memory pseudo-channels in service (R501 to R503). -/

namespace Sys2Proof.Machine

open Sys2Proof

def putPc (s : State) (pc : Nat) (x : PcTrain) : State :=
  { s with stk := { s.stk with pcs := tput PcTrain.reset s.stk.pcs pc x } }

/-- MEM_TRAIN (R503). -/
def memTrainReg (s : State) : Nat :=
  let n := ((List.range 256).filter (fun k => !(pcTrainOf s k).spare)).length
  packFields [(9, n), (7, 0), (16, s.stk.memRetryMax.toNat)]

/-- The 24 Beans of a pseudo-channel. -/
def beansOfPc (pc : Nat) : List Nat := (List.range 6144).filter (fun b => pcOfBean b == pc)

/-- Whether a pseudo-channel is due for retraining (R501): the tag is compared with the hottest die of its stack (R498). One without a
spare waits for an error that has failed its retry (R502). -/
def pcMayTrain (s : State) (pc : Fin 256) (cause : RetrainCause) : Bool :=
  let x := pcTrainOf s pc.val
  match cause with
  | .drift => x.spare && drifted (BitVec.ofNat 8 (stackHottest s.stk.temps (pc.val / 32))) x.tag
  | .errors n => x.spare && decide (s.stk.memRetryMax.toNat < n)
  | .retryFailed => true

/-- STACK_PC_RETRAIN (R501, R502), at the boundary that the controller named: a lane of a pseudo-channel moves onto the rolling spare
and is trained; without a spare the whole pseudo-channel is held. `last` says that no redundant lane is left for the lane should its
training fail. The naming of the boundary, 2 ticks before at least, leaves no trace in the state (log 156). -/
def execStackPcRetrain (pc : Fin 256) (cause : RetrainCause) (last : Bool) (s : State) : Host.Outcome State Fault Refusal :=
  .next (
    let x := pcTrainOf s pc.val
    if nodeRuns s && !x.training && !x.dead && pcMayTrain s pc cause then
      bump (putPc s pc.val { x with training := true, lastLane := last, held := !x.spare }) .memRetrain
    else s)

/-- A lane fails with no redundant lane left (R502): the Beans of the pseudo-channel are marked out. -/
def losePc (s : State) (pc : Nat) : State :=
  ((beansOfPc pc).filter (fun b => !bit s.stk.beanOut b)).foldl markOut s

/-- The accesses that a hold kept waiting are served (R502). -/
def releasePc (s : State) (pc : Nat) : State :=
  serveHeld s (fun a => (beansOfRange a.addr a.len).any (fun b => pcOfBean b == pc))

/-- STACK_LANE_TRAINING_DONE (R502): the trained lane is the spare, with a new tag, or it is fenced for good; a hold ends. A
pseudo-channel without a spare stays without one: its lane goes back into use. -/
def execStackLaneTrainingDone (pc : Fin 256) (ok : Bool) (temp : BitVec 8) (s : State) :
    Host.Outcome State Fault Refusal :=
  .next (
    let x := pcTrainOf s pc.val
    if x.training then
      let y := { x with training := false, held := false }
      if ok then releasePc (putPc s pc.val { y with tag := temp }) pc.val
      else if x.spare then putPc s pc.val { y with spare := false }
      else if x.lastLane then releasePc (losePc (putPc s pc.val { y with dead := true }) pc.val) pc.val
      else releasePc (putPc s pc.val y) pc.val
    else s)

end Sys2Proof.Machine
end

