-- ==== Sys2Proof/Machine/Phases.lean ====
section
/-! DEFINITION. Phases: PHASE_START (R185, R273, R108), PHASE_BOUNDARY_END (R271, R275), wakes (R274, R198, R463) and CPLT
(R199). -/

namespace Sys2Proof.Machine

open Sys2Proof

/-! ### PHASE_START -/

/-- A pipeline and a phase of it, by their numbers. -/
def phaseAt (p : Plan) (pipe k : Nat) : Option (Pipe × Phase) :=
  match p.pipes[pipe]? with
  | none => none
  | some q => if k < q.phaseNum then (p.phases[q.phaseFirst + k]?).map (fun h => (q, h)) else none

/-- The admission tick whose phase starts in a tick: an opportunity of the pipeline at which the plan admitted (R264,
R273). -/
def phaseOpp (s : State) (q : Pipe) (start now : Nat) : Option Nat :=
  if start ≤ now ∧ (now - start) % q.period = q.phase ∧ s.plan.start ≤ now - start then some (now - start) else none

/-- A tile begins a phase at its entry bundle (R273); the bound request is cleared, the rest carries over (R185). -/
def enterPhase (x : Tile) (now phase pipe t entry : Nat) (refused used : Bool) : Tile :=
  { x with next := entry, run := true, inBundle := false, bound := none, srcBound := none, fetchFail := false,
           phase := phase, phaseTick := now, phasePipe := pipe, phaseT := t, phaseRefused := refused, phaseUsed := used,
           loops := Vector.replicate 4 LoopLevel.reset }

/-- The entry bundle of a phase on a tile, if the tile serves it (R531). -/
def entryOf (x : TileSec) (phase : Nat) : Option Nat := (x.entries.find? (fun e => e.1 == phase)).map (·.2)

/-- Every tile of a phase begins it. -/
def enterTiles (s : State) (p : Plan) (phase pipe t : Nat) (used : Bool) : State :=
  let refused := decide (p.timingClass < nodeClass s)
  (List.range p.tiles.length).foldl (fun s i =>
    match (p.tiles[i]?).bind (fun x => entryOf x phase) with
    | none => s
    | some e => onTile s i (fun x => enterPhase x s.clk.tick phase pipe t e refused used)) s

/-- A saturating 32-bit sum. -/
def satNat (a b : Nat) : Nat := min 4294967295 (a + b)

/-- One audited search (R108): |E| and the handles of E that the candidates lack. -/
def addAudit (pipe t : Nat) (s : State) (r : AuditRun) : State :=
  match admOf s r.slot.val with
  | none => s
  | some a =>
    if a.audited && a.req.pipe == pipe && a.opp == t then
      let e := uniq r.exact
      let m := (e.filter (fun h => !r.cand.contains h)).length
      let s1 := onAdm s r.slot.val (fun a => { a with audited := false })
      onCtx s1 a.req.ctx.toNat (fun c =>
        { c with audit := { c.audit with total := satNat c.audit.total e.length, miss := satNat c.audit.miss m } })
    else s

/-- PHASE_START (R273): phase `phase` of pipeline `pipe`, for the opportunity START ticks ago, whether its places were taken
or not (R264). `queries` are the searches of other entry nodes whose query cells the first phase of an INTERNAL pipeline works
on; `audit` are the audits whose E the phase forms (R108), `lists` the children's lists that it merges (R247, R248). -/
def execPhaseStart (pipe : Fin 63) (phase : Fin 255) (queries : List QueryIn) (audit : List AuditRun) (lists : List ChildList)
    (s : State) : Host.Outcome State Fault Refusal :=
  .next (
    match s.plan.active with
    | none => s
    | some p =>
      match phaseAt p pipe.val phase.val with
      | none => s
      | some (q, h) =>
        match phaseOpp s q h.start s.clk.tick with
        | none => s
        | some t =>
          if s.clk.did.phases.contains (pipe.val, phase.val) then s
          else
            let d := { s.clk.did with phases := s.clk.did.phases ++ [(pipe.val, phase.val)] }
            let s0 : State := { s with clk := { s.clk with did := d } }
            let s1 := if q.kind = 4 ∧ phase.val = 0 then queries.foldl (takeQuery pipe.val q t) s0 else s0
            let s2 := lists.foldl judgeChild s1
            let used := q.kind == 4 || placeTaken s2 pipe.val t
            audit.foldl (addAudit pipe.val t) (enterTiles s2 p (q.phaseFirst + phase.val) pipe.val t used))

/-! ### PHASE_BOUNDARY_END -/

/-- Whether a tick opens a phase of a request after its first (R271), and whether it follows its last phase. -/
def phaseBoundary (p : Plan) (a : Adm) (now : Nat) : Bool × Bool :=
  match p.pipes[a.req.pipe]? with
  | none => (false, false)
  | some q =>
    let hs := (List.range q.phaseNum).filterMap (fun k => p.phases[q.phaseFirst + k]?)
    ((hs.drop 1).any (fun h => a.t + h.start == now),
     match hs.getLast? with | some h => a.t + h.start + h.len == now | none => false)

/-- What ends a request at a phase boundary (R271, R275, R410): an earlier fault, a resume that is not complete, or refusal. -/
def boundaryStatus (s : State) (p : Plan) (slot : Nat) (a : Adm) : Option (BitVec 8) :=
  let (inner, last) := phaseBoundary p a s.clk.tick
  if (inner = false ∧ last = false) ∨ a.entry.isSome = true then none
  else if a.fault.isSome then a.fault
  else if inner && (resumeOf s slot).isSome then some stStateLost
  else if inner && decide (p.timingClass < nodeClass s) then some stTimingClass
  else none

/-- PHASE_BOUNDARY_END (R275): the request in `slot`, at a boundary of its phases. -/
def execPhaseBoundaryEnd (slot : Fin 1024) (s : State) : Host.Outcome State Fault Refusal :=
  .next (
    match s.plan.active, admOf s slot.val with
    | some p, some a =>
      match boundaryStatus s p slot.val a with
      | none => s
      | some st => bumpIf (st == stTimingClass) (completeAdm s slot.val (Result.of st)) .refusedPhase
    | _, _ => s)

/-! ### Wakes -/

/-- The opportunity whose phase asks for a wake in this tick (R274): `lead` ticks before the phase starts. -/
def wakeOpp (s : State) (q : Pipe) (start lead : Nat) : Option Nat := phaseOpp s q start (s.clk.tick + lead)

/-- SPROUT_WAKE_REQUEST (R274): the phase table's wakes, for every opportunity, used or not. -/
def execSproutWakeRequest (pipe : Fin 63) (phase : Fin 255) (cold : Bool) (s : State) : Host.Outcome State Fault Refusal :=
  .next (
    match s.plan.active with
    | none => s
    | some p =>
      match phaseAt p pipe.val phase.val with
      | none => s
      | some (q, h) =>
        match wakeOpp s q h.start (if cold then 64 else 1) with
        | none => s
        | some _ => onPods s (if cold then h.coldMask else h.podMask &&& ~~~h.coldMask) (wakePod s.clk.tick cold))

/-- A Pod whose wake is due. -/
def wakeDue (s : State) (p : Pod) : Bool := match p.wakeAt with | some w => decide (w ≤ s.clk.tick) | none => false

/-- POD_WARM_WAKE (R463): a gated Pod whose PLL runs starts at the tick its wake names. -/
def execPodWarmWake (pod : Fin 8) (s : State) : Host.Outcome State Fault Refusal :=
  .next (
    let p := podOf s pod.val
    if p.clk = .gated ∧ wakeDue s p = true then putPod s pod.val { p with clk := .running, wakeAt := none } else s)

/-- POD_COLD_WAKE (R463): a Pod whose PLL was relocked starts. -/
def execPodColdWake (pod : Fin 8) (s : State) : Host.Outcome State Fault Refusal :=
  .next (
    let p := podOf s pod.val
    if p.clk = .relocking ∧ wakeDue s p = true then putPod s pod.val { p with clk := .running, wakeAt := none } else s)

/-! ### CPLT -/

/-- What CPLT's registers say of the result (R199, R446). -/
def cpltResult (a b c : Nat) : Result :=
  ⟨BitVec.ofNat 8 a, bitsOf b 0 16, bitsOf c 0 16, bitOf c 17, bitOf c 18, bitsOf b 16 24⟩

/-- CPLT (R199): the bound request completes in this tick; with none bound, PD is cleared. -/
def execCplt (t : Fin 192) (g : Guard) (pd : Fin 16) (a b c : Fin 32) (s : State) : Host.Outcome State Fault Refusal :=
  .next (issue s t g (.cplt t g pd a b c) (fun s1 =>
    let x := tileOf s1 t.val
    match x.srcBound, boundAdm s1 x with
    | some k, some _ =>
      let r := cpltResult (x.src.s[a]).toNat (x.src.s[b]).toNat (x.src.s[c]).toNat
      completeAdm (onTile s1 t.val (fun y => setP y pd (statusPred true))) k.val r
    | _, _ => onTile s1 t.val (fun y => setP y pd (statusPred false))))

end Sys2Proof.Machine
end

