-- ==== Sys2Proof/Machine/PlanOps.lean ====
section
/-! DEFINITION. PLAN_STATUS, PLAN_FAULT (R268) and the PLAN event (R474). -/

namespace Sys2Proof.Machine

open Sys2Proof

def nextStateCode : NextState → Nat
  | .empty => 0
  | .verifying => 1
  | .verified => 2
  | .failed => 3
  | .activating => 4

/-- PLAN_STATUS (R268). -/
def planStatusReg (s : State) : Nat :=
  packFields [(1, b2n s.plan.ready), (19, 0), (8, s.plan.nextStatus.toNat), (4, nextStateCode s.plan.nextState),
    (32, s.plan.activeId.toNat)]

/-- PLAN_FAULT (R268). -/
def planFaultReg (s : State) : Nat := packFields [(24, 0), (8, s.plan.failTile.toNat), (32, s.plan.failOffset.toNat)]

/-- NEXT_STATE becomes `n` with NEXT_STATUS `st`; a change of NEXT_STATE raises PLAN with both registers (R268, R474). -/
def setNextState (s : State) (n : NextState) (st : BitVec 8) : State :=
  let s1 := { s with plan := { s.plan with nextState := n, nextStatus := st } }
  if s.plan.nextState = n then s1 else raiseEvent s1 evPlan (packFields [(64, planStatusReg s1), (64, planFaultReg s1)])

end Sys2Proof.Machine
end

