-- ==== Sys2Proof/Machine/PlanImage.lean ====
section
/-! DEFINITION. The plan image and its layout (R259 to R261, R263, R531): what the sections of an image hold, with the byte offsets
that PLAN_FAULT names. -/

namespace Sys2Proof.Machine

open Sys2Proof

/-- What failed: its byte offset in the image, and its tile or 0xFF (R268). -/
abbrev Failing := Nat × Nat

/-- The place of a failure that belongs to no tile (R268). -/
def noTile : Nat := 0xFF

/-- The reader's place in an image. -/
structure Rd where
  pos : Nat
  rest : List Byte
deriving DecidableEq, Repr

/-- The next `n` bytes of a part of tile `tl`. -/
def takeN (tl n : Nat) (r : Rd) : Except Failing (List Byte × Rd) :=
  let b := r.rest.take n
  if b.length = n then .ok (b, ⟨r.pos + n, r.rest.drop n⟩) else .error (r.pos, tl)

/-- The bytes up to the next 32-byte boundary are zero (R531). -/
def align32 (tl : Nat) (r : Rd) : Except Failing Rd := do
  let (b, r1) ← takeN tl ((32 - r.pos % 32) % 32) r
  if b.all (· == 0) then return r1 else .error (r.pos, tl)

/-- `n` rows, one after another. -/
def parseMany {α : Type} (f : Rd → Except Failing (α × Rd)) : Nat → Rd → Except Failing (List α × Rd)
  | 0, r => .ok ([], r)
  | n + 1, r => do
    let (a, r1) ← f r
    let (l, r2) ← parseMany f n r1
    return (a :: l, r2)

/-- One little-endian field of `n` bytes, which `ok` must allow. -/
def parseWord (tl n : Nat) (ok : Nat → Bool) (r : Rd) : Except Failing (Nat × Rd) := do
  let (b, r1) ← takeN tl n r
  if ok (leNat b) then return (leNat b, r1) else .error (r.pos, tl)

/-- A pipeline descriptor (R261). -/
def pipeOf (n : Nat) : Pipe :=
  { kind := bitsOf n 124 4, length := bitsOf n 108 16, period := bitsOf n 101 7, phase := bitsOf n 95 6,
    perIssue := bitsOf n 88 7, slotBase := bitsOf n 78 10, phaseFirst := bitsOf n 68 10, phaseNum := bitsOf n 60 8,
    resSets := bitsOf n 55 5, resSpan := bitsOf n 48 7, frameMax := bitsOf n 40 8, maxK := bitsOf n 27 13 }

/-- A phase descriptor (R263). -/
def phaseOf (n : Nat) : Phase :=
  { start := bitsOf n 48 16, len := bitsOf n 32 16, podMask := BitVec.ofNat 8 (bitsOf n 24 8),
    coldMask := BitVec.ofNat 8 (bitsOf n 16 8), final := bitOf n 15, checkpoint := bitOf n 14 }

/-- Where a tile section's parts start. -/
structure TileOffs where
  head : Nat
  bundles : Nat
  consts : Nat
  sends : Nat
deriving DecidableEq, Repr

/-- The tile header's rules (R531, R164). -/
def tileHeadOk (t n : Nat) : Bool :=
  bitsOf n 248 8 == t && decide (1 ≤ bitsOf n 233 15) && decide (bitsOf n 233 15 ≤ 16384) &&
    decide (bitsOf n 218 15 ≤ bitsOf n 233 15) && decide (bitsOf n 207 11 ≤ 1024) && decide (bitsOf n 196 11 ≤ 1023) &&
    decide (bitsOf n 183 13 ≤ 4096) && bitsOf n 0 183 == 0

/-- An entry word (R531) in a section of `bundles` bundles. -/
def entryOk (bundles n : Nat) : Bool := bitsOf n 14 8 == 0 && decide (bitsOf n 0 14 < bundles)

/-- Entry words run in ascending phase index. -/
def entriesRise : List (Nat × Nat) → Bool
  | a :: b :: l => decide (a.1 < b.1) && entriesRise (b :: l)
  | _ => true

/-- A bundle's four slot words, slot 0 first (R178). -/
def parseBundle (tl : Nat) (r : Rd) : Except Failing (List Word64 × Rd) := do
  let (b, r1) ← takeN tl 32 r
  return ((chunks 4 8 b).map (fun w => BitVec.ofNat 64 (leNat w)), r1)

/-- The tile section of logical tile `t` (R531). -/
def parseTile (t : Nat) (r : Rd) : Except Failing ((TileSec × TileOffs) × Rd) := do
  let (h, r1) ← parseWord t 32 (tileHeadOk t) r
  let nb := bitsOf h 218 15
  let (bs, r2) ← parseMany (parseBundle t) nb r1
  let (cs, r3) ← parseMany (parseWord t 16 (fun _ => true)) (bitsOf h 207 11) r2
  let r4 ← align32 t r3
  let (ks, r5) ← parseMany (parseWord t 1 (fun k => decide (k ≤ 5))) (bitsOf h 207 11) r4
  let r6 ← align32 t r5
  let (es, r7) ← parseMany (parseWord t 4 (entryOk nb)) (bitsOf h 196 11) r6
  let r8 ← align32 t r7
  let (ss, r9) ← parseMany (parseWord t 8 (fun _ => true)) (bitsOf h 183 13) r8
  let r10 ← align32 t r9
  let ents := es.map (fun e => (bitsOf e 22 10, bitsOf e 0 14))
  if entriesRise ents then
    return (({ progLimit := 32 * bitsOf h 233 15, bundles := bs, consts := cs.map (BitVec.ofNat 128 ·), kinds := ks,
               entries := ents, sends := ss.map (BitVec.ofNat 64 ·) }, ⟨r.pos, r1.pos, r2.pos, r8.pos⟩), r10)
  else .error (r6.pos, t)

/-- The tile sections in ascending order, from tile `t` on. -/
def parseTiles : Nat → Nat → Rd → Except Failing (List (TileSec × TileOffs) × Rd)
  | 0, _, r => .ok ([], r)
  | n + 1, t, r => do
    let (a, r1) ← parseTile t r
    let (l, r2) ← parseTiles n (t + 1) r1
    return (a :: l, r2)

/-- The Bean command lists from list `k` on (R531, R154): entries and the offset of the first. -/
def parseLists : Nat → Nat → Rd → Except Failing (List (List (BitVec 128) × Nat) × Rd)
  | 0, _, r => .ok ([], r)
  | n + 1, k, r => do
    let (h, r1) ← parseWord noTile 32
      (fun h => bitsOf h 240 16 == k && decide (1 ≤ bitsOf h 220 20) && bitsOf h 0 220 == 0) r
    let (es, r2) ← parseMany (parseWord noTile 16 (fun _ => true)) (bitsOf h 220 20) r1
    let r3 ← align32 noTile r2
    let (l, r4) ← parseLists n (k + 1) r3
    return ((es.map (BitVec.ofNat 128 ·), r1.pos) :: l, r4)

/-- The entries of a table of `w`-byte entries that are not zero, from index `i` on. -/
def sparseTab {n : Nat} (w : Nat) : Nat → List (List Byte) → Tab (BitVec n)
  | _, [] => []
  | i, b :: l =>
    let rest := sparseTab w (i + 1) l
    if b.all (· == 0) then rest else (i, BitVec.ofNat n (leNat b)) :: rest

/-- A port block (R531, R368): 32,000 send entries of 2 bytes and 32,000 receive entries of 8. -/
def parsePort (r : Rd) : Except Failing ((PortTab × Nat) × Rd) := do
  let (h, r1) ← parseWord noTile 32 (fun h => decide (h < 2 ^ 32) && bitsOf h 0 21 == 0) r
  let (sb, r2) ← takeN noTile 64000 r1
  let (rb, r3) ← takeN noTile 256000 r2
  return (({ used := bitOf h 31, hop := bitsOf h 21 10, send := sparseTab 2 0 (chunks 32000 2 sb),
             recv := sparseTab 8 0 (chunks 32000 8 rb) }, r.pos), r3)

/-- A plan as its image spells it, with the offsets of its parts. -/
structure PlanImg where
  plan : Plan
  pipesAt : Nat
  phasesAt : Nat
  tilesAt : List TileOffs
  listsAt : List Nat
  portsAt : List Nat
deriving DecidableEq, Repr

/-- The plan header's own rules (R260), but for those that compare it with the node: FORMAT, the counts, IMAGE_UNITS, the
reserved bits and codes. -/
def planHeadOk (len n : Nat) : Bool :=
  bitsOf n 208 16 == 1 && bitsOf n 206 2 != 3 && bitsOf n 204 2 != 3 && !bitOf n 203 && bitsOf n 194 6 != 0 &&
    bitsOf n 184 10 != 0 && decide (1 ≤ bitsOf n 136 32) && decide (bitsOf n 136 32 ≤ 33554432) &&
    32 * bitsOf n 136 32 == len && bitsOf n 0 115 == 0

/-- The image before its digest, read by R531. -/
def parsePlan (body : List Byte) : Except Failing PlanImg := do
  let (h, r1) ← parseWord noTile 32 (planHeadOk body.length) ⟨0, body⟩
  let (ps, r2) ← parseMany (parseWord noTile 16 (fun p => bitsOf p 0 27 == 0)) (bitsOf h 194 6) r1
  let r3 ← align32 noTile r2
  let (qs, r4) ← parseMany (parseWord noTile 8 (fun q => bitsOf q 0 14 == 0)) (bitsOf h 184 10) r3
  let r5 ← align32 noTile r4
  let (ts, r6) ← parseTiles 192 0 r5
  let (ls, r7) ← parseLists (bitsOf h 168 16) 0 r6
  let (pt, r8) ← parseMany parsePort 6 r7
  if r8.rest.isEmpty then
    let pl : Plan :=
      { planId := BitVec.ofNat 32 (bitsOf h 224 32), clockClass := bitsOf h 206 2, timingClass := bitsOf h 204 2,
        units := BitVec.ofNat 4 (bitsOf h 200 4), nodeId := BitVec.ofNat 15 (bitsOf h 121 15),
        partition := BitVec.ofNat 6 (bitsOf h 115 6), pipes := ps.map pipeOf, phases := qs.map phaseOf,
        tiles := ts.map (·.1), lists := ls.map (·.1), ports := pt.map (·.1) }
    return ⟨pl, r1.pos, r3.pos, ts.map (·.2), ls.map (·.2), pt.map (·.2)⟩
  else .error (r8.pos, noTile)

end Sys2Proof.Machine
end

