-- ==== Sys2Proof/Machine/PlanWalk.lean ====
section
/-! DEFINITION. The order of issue that plan verification fixes (R160, R190, R195, R196, R273): which bundle of a tile issues in which
fast cycle of the repeating schedule, and which registers the instructions read and write (R184). -/

namespace Sys2Proof.Machine

open Sys2Proof

/-! ### The repeating schedule (R273, R274)

Every ISSUE_PERIOD divides 64, so the schedule of a plan repeats every 64 ticks. -/

/-- One run of a phase on a tile: its first tick in the schedule, its phase and pipeline, and its entry bundle. -/
structure Occ where
  start : Nat
  len : Nat
  phase : Nat
  pipe : Nat
  final : Bool
  entry : Nat
deriving DecidableEq, Repr

/-- The ticks below 64 at which a phase of a pipeline starts. -/
def phaseStarts (q : Pipe) (h : Phase) : List Nat :=
  (List.range (64 / q.period)).map (fun i => (q.phase + h.start) % q.period + i * q.period)

/-- The pipelines that run a phase, with their numbers. -/
def pipesOf (p : Plan) (k : Nat) : List (Nat × Pipe) :=
  (p.pipes.zipIdx.filter (fun e => decide (e.1.phaseFirst ≤ k) && decide (k < e.1.phaseFirst + e.1.phaseNum))).map
    (fun e => (e.2, e.1))

/-- The runs of a tile's phases within 64 ticks, by first tick. -/
def tileOccs (p : Plan) (x : TileSec) : List Occ :=
  sortBy (fun a b => decide (a.start < b.start))
    (x.entries.flatMap (fun e =>
      match p.phases[e.1]? with
      | none => []
      | some h => (pipesOf p e.1).flatMap (fun q =>
          (phaseStarts q.2 h).map (fun t => ⟨t, h.len, e.1, q.1, h.final, e.2⟩))))

/-- No phase of a tile overlaps another, or itself at its next opportunity, in any tick (R273). -/
def occsDisjoint (p : Plan) (l : List Occ) : Bool :=
  l.all (fun o => match p.pipes[o.pipe]? with | none => false | some q => decide (o.len ≤ q.period)) &&
    decide ((l.flatMap (fun o => (List.range (min o.len 64)).map (fun j => (o.start + j) % 64))).Nodup)

/-! ### The walk -/

/-- One bundle's issue: its fast cycle counted from the schedule's origin, the cycle in which the next bundle of the tile
may issue, its index, its instructions, and the phase it issues in. -/
structure Visit where
  now : Nat
  next : Nat
  pc : Nat
  is : List Instr
  occ : Occ
deriving DecidableEq, Repr

/-- The decoded bundles of a tile, and the words that spell nothing. -/
def bundleInstrs (t : Fin 192) (ws : List Word64) : List (Option Instr) :=
  (ws.zipIdx.map (fun e => decodeSlot (Fin.ofNat 4 e.2) t (plainHead (e.2 == 0)) e.1.toNat))

/-- A wake of a Pod that the schedule asks for in one of its 64 ticks, warm or cold (R198, R274). -/
structure WakeEv where
  pod : Nat
  tick : Nat
  cold : Bool
deriving DecidableEq, Repr

/-- The Pods of a mask. -/
def podsIn (m : BitVec 8) : List Nat := (List.range 8).filter (fun p => bit m p)

/-- The wakes of the phase table (R274): one tick before a phase for a warm Pod, 64 for a cold one. -/
def tableWakes (p : Plan) : List WakeEv :=
  p.phases.zipIdx.flatMap (fun e => (pipesOf p e.2).flatMap (fun q => (phaseStarts q.2 e.1).flatMap (fun t =>
    (podsIn (e.1.podMask &&& ~~~e.1.coldMask)).map (fun k => ⟨k, (t + 63) % 64, false⟩) ++
      (podsIn e.1.coldMask).map (fun k => ⟨k, t % 64, true⟩))))

/-- A wake as a Pod that stopped at the end of tick `k` meets it: the tick in which it is asked for, and that in which the Pod runs. -/
def WakeEv.after (k : Nat) (e : WakeEv) : Nat × Nat :=
  let asked := k + 1 + (e.tick + 64 - (k + 1) % 64) % 64
  (asked, asked + (if e.cold then 64 else 1))

/-- The tick in which a Pod that stopped at the end of tick `k` next runs (R198): as its first wake says, which is a cold one where its
PLL stopped. -/
def nextRun (l : List WakeEv) (pod k : Nat) (off : Bool) : Option Nat :=
  (((l.filter (fun e => e.pod == pod && (e.cold || !off))).map (WakeEv.after k)).foldl (fun (m : Option (Nat × Nat)) e =>
    match m with
    | none => some e
    | some x => if e.1 < x.1 ∨ (e.1 = x.1 ∧ e.2 < x.2) then some e else m) none).map (·.2)

/-- The state of a walk: next bundle, its cycle, the loop levels (R195), the deadline tick plus one of every wait object that
has been armed, the tick in which the tile has gated its own Pod and whether with its PLL (R198), and where the walk went wrong. -/
structure Walk where
  pc : Nat
  now : Nat
  gate : Option (Nat × Bool)
  loops : Vector LoopLevel 4
  waits : Tab Nat
  seen : List Visit
  on : Bool
  bad : List Nat
deriving DecidableEq, Repr

/-- What an instruction does to the order of issue: the bundle and the levels that follow, the wait objects, and the stall. -/
def walkInstr (t : Fin 192) (cpt : Nat) (o : Occ) (w : Walk) (i : Instr) : Walk :=
  match i with
  | .gate _ _ m off =>
    if bit m (podOfTile t.val) then { w with gate := some ((w.seen.head?.elim 0 (·.now)) / cpt, off) } else w
  | .loop _ _ d a pd level body maxTrip =>
    let l : LoopLevel :=
      { live := true, first := w.seen.head?.elim 0 (·.pc) + 1, last := w.seen.head?.elim 0 (·.pc) + body.toNat,
        trip := maxTrip.toNat, j := 0, act := a.val, d := d, pd := pd, on := true }
    { w with loops := w.loops.set level l }
  | .br _ _ target => { w with pc := target.toNat }
  | .arm _ _ k dl _ => { w with waits := tput 0 w.waits k.val (o.start + dl.toNat + 1) }
  | .await _ _ _ _ k =>
    if w.now / cpt < tget 0 w.waits k.val then { w with now := tget 0 w.waits k.val * cpt } else { w with now := w.now + 1 }
  | .pend _ _ => { w with on := false }
  | _ => w

/-- A bundle that holds an AWAIT is followed by what the AWAIT says (R190), any other by the next cycle (R160). -/
def hasAwait (l : List Instr) : Bool :=
  l.any (fun i => match i with | .await _ _ _ _ _ => true | _ => false)

/-- The bundle that has just issued is followed from cycle `next` on. -/
def endVisit (next : Nat) : List Visit → List Visit
  | [] => []
  | v :: l => { v with next := next } :: l

/-- A tile whose Pod it has gated issues on when its Pod next runs (R198). -/
def walkPause (l : List WakeEv) (t : Fin 192) (cpt : Nat) (w : Walk) : Walk :=
  match w.gate with
  | none => w
  | some (k, off) =>
    if w.now / cpt ≤ k then w
    else
      match nextRun l (podOfTile t.val) k off with
      | none => { w with on := false, bad := w.pc :: w.bad }
      | some r => { w with now := max w.now (r * cpt), gate := none }

/-- One bundle of the walk. It goes wrong outside the program region, or after the phase's last cycle (R164, R230 rule 11). -/
def walkStep (l : List WakeEv) (t : Fin 192) (cpt : Nat) (x : TileSec) (o : Occ) (v : Walk) : Walk :=
  let w := if v.on then walkPause l t cpt v else v
  if !w.on then w
  else if x.progLimit / 32 ≤ w.pc ∨ (o.start + o.len) * cpt ≤ w.now then { w with on := false, bad := w.pc :: w.bad }
  else
    let is := (bundleInstrs t (x.bundles.getD w.pc [])).filterMap id
    let (nx, ls) := loopNext w.pc 4 w.loops
    let w1 := { w with seen := ⟨w.now, 0, w.pc, is, o⟩ :: w.seen, pc := nx, loops := ls }
    let w2 := is.foldl (walkInstr t cpt o) w1
    let w3 := if hasAwait is then w2 else { w2 with now := w2.now + 1 }
    { w3 with seen := endVisit w3.now w3.seen }

/-- A phase issues at most one bundle a cycle. -/
def walkFor (l : List WakeEv) (t : Fin 192) (cpt : Nat) (x : TileSec) (o : Occ) : Nat → Walk → Walk
  | 0, w => w
  | n + 1, w => walkFor l t cpt x o n (walkStep l t cpt x o w)

/-- One run of a phase, from its entry bundle in the first fast cycle of its first tick. -/
def walkPhase (l : List WakeEv) (t : Fin 192) (cpt : Nat) (x : TileSec) (w : Walk) (o : Occ) : Walk :=
  let w0 := { w with pc := o.entry, now := o.start * cpt, gate := none, loops := Vector.replicate 4 LoopLevel.reset, on := true }
  let w1 := walkFor l t cpt x o (o.len * cpt + 1) w0
  if w1.on then { w1 with on := false, bad := w1.pc :: w1.bad } else w1

/-- The same run in the next round. -/
def Occ.later (o : Occ) : Occ := ⟨o.start + 64, o.len, o.phase, o.pipe, o.final, o.entry⟩

/-- Two rounds of a tile's schedule: the first brings the state that the second starts from. -/
def walkTile (p : Plan) (ev : List WakeEv) (t : Fin 192) (x : TileSec) (cpt : Nat) : Walk :=
  let l := tileOccs p x
  let w0 : Walk := ⟨0, 0, none, Vector.replicate 4 LoopLevel.reset, [], [], false, []⟩
  (l ++ l.map Occ.later).foldl (walkPhase ev t cpt x) w0

/-- The visits of a walk in order of issue. -/
def visitsOf (w : Walk) : List Visit := w.seen.reverse

/-- The wakes that a tile's second round asks for (R198). -/
def walkWakes (cpt : Nat) (w : Walk) : List WakeEv :=
  (visitsOf w).flatMap (fun v =>
    if v.occ.start < 64 then []
    else v.is.flatMap (fun i =>
      match i with
      | .wake _ _ m cold => (podsIn m).map (fun k => ⟨k, v.now / cpt % 64, cold⟩)
      | _ => []))

/-! ### Established values (R184) -/

/-- What verification knows of S0 to S31 at a bundle. -/
abbrev Known := List (Option Word64)

def unknown : Known := List.replicate 32 none

/-- A register has the same established value on both paths. -/
def meet (a b : Known) : Known := List.zipWith (fun x y => if x = y then x else none) a b

/-- The value a slot-0 instruction establishes from what is known as its bundle issues (R184). -/
def establishes (t : Fin 192) (node : NodeId) (cpt : Nat) (k : Known) (i : Instr) : Option (Nat × Option Word64) :=
  let r (x : Fin 32) : Option Word64 := (k[x.val]?).join
  let two (d a b : Fin 32) (f : Word64 → Word64 → Word64) : Option (Nat × Option Word64) :=
    some (d.val, match r a, r b with | some x, some y => some (f x y) | _, _ => none)
  let one (d a : Fin 32) (f : Word64 → Word64) : Option (Nat × Option Word64) := some (d.val, (r a).map f)
  match i with
  | .seti _ _ d imm => some (d.val, some (imm.signExtend 64))
  | .seth _ _ d imm => one d d (fun v => imm ++ v.truncate 32)
  | .rdsp _ _ d .tile => some (d.val, some (BitVec.ofNat 64 t.val))
  | .rdsp _ _ d .nodeId => some (d.val, some (node.zeroExtend 64))
  | .rdsp _ _ d .cyclesPerTick => some (d.val, some (BitVec.ofNat 64 cpt))
  | .add _ _ d a b => two d a b (· + ·)
  | .addi _ _ d a x => one d a (· + x.signExtend 64)
  | .sub _ _ d a b => two d a b (· - ·)
  | .mul _ _ d a b => two d a b (· * ·)
  | .and _ _ d a b => two d a b (· &&& ·)
  | .or _ _ d a b => two d a b (· ||| ·)
  | .xor _ _ d a b => two d a b (· ^^^ ·)
  | .shl _ _ d a b => two d a b (fun x y => x <<< (y.toNat % 64))
  | .shr _ _ d a b => two d a b (fun x y => x >>> (y.toNat % 64))
  | .sar _ _ d a b => two d a b (fun x y => x.sshiftRight (y.toNat % 64))
  | .shi _ _ d a k n =>
    one d a (fun v => match k with | .shl => v <<< n.toNat | .shr => v >>> n.toNat | .sar => v.sshiftRight n.toNat)
  | .mins _ _ d a b => two d a b (fun x y => if BitVec.slt y x then y else x)
  | .maxs _ _ d a b => two d a b (fun x y => if BitVec.slt x y then y else x)
  | .minu _ _ d a b => two d a b (fun x y => if BitVec.ult y x then y else x)
  | .maxu _ _ d a b => two d a b (fun x y => if BitVec.ult x y then y else x)
  | .sel _ _ d a b _ => two d a b (fun x y => if x = y then x else y)
  | _ => none

/-- The S registers an instruction writes, with the cycles until the result is visible. -/
def sWrites (i : Instr) : List (Nat × Nat) :=
  (useOf 1 (fun _ => 0) none i).writes.filterMap (fun e => match e.1 with | .s n => some (n, e.2.2) | _ => none)

/-- What is known along a path: the values, and per register the cycle in which its last result is visible and whether that result's
guard may fail. -/
structure Path where
  vals : Known
  due : Tab (Nat × Bool)
deriving DecidableEq, Repr

def Path.start : Path := ⟨unknown, []⟩

/-- A result to S register `d`, issued in cycle `now` with latency `n`, of value `v` where it is established. Of two results the one
that becomes visible later stands (R184); one whose guard may fail leaves a value only where it finds the same. -/
def Path.write (m : Path) (now n d : Nat) (fails : Bool) (v : Option Word64) : Path :=
  let old := (m.vals[d]?).join
  let was := tget (0, false) m.due d
  let same := if old = v then v else none
  if now + n < was.1 then { m with vals := m.vals.set d (if was.2 then same else old) }
  else ⟨m.vals.set d (if fails then same else v), tput (0, false) m.due d (now + n, fails)⟩

/-- What an instruction leaves of S register `d`, from what is known as its bundle issues. A SEL of two established but different
values, whose predicate verification does not know, establishes none. -/
def leaves (t : Fin 192) (node : NodeId) (cpt : Nat) (k : Known) (i : Instr) (d : Nat) : Option Word64 :=
  match i, establishes t node cpt k i with
  | .sel _ _ _ a b _, some e => if e.1 = d ∧ (k[a.val]?).join = (k[b.val]?).join then e.2 else none
  | _, some e => if e.1 = d then e.2 else none
  | _, none => none

/-- What is known after a bundle that issues in cycle `now`. -/
def knownAfter (t : Fin 192) (node : NodeId) (cpt now : Nat) (is : List Instr) (m : Path) : Path :=
  is.foldl (fun acc i =>
    (sWrites i).foldl (fun acc e => acc.write now e.2 e.1 (mayFail (guardOf i)) (leaves t node cpt m.vals i e.1)) acc) m

/-- The iteration counts that loops write at the first bundle of a body are not established (R195, R184). -/
def loopTargets (x : TileSec) (t : Fin 192) : List (Nat × Nat) :=
  x.bundles.zipIdx.flatMap (fun e => (bundleInstrs t e.1).filterMap (fun i =>
    match i with
    | some (.loop _ _ d _ _ _ _ _) => some (e.2 + 1, d.val)
    | _ => none))

def knownEnter (targets : List (Nat × Nat)) (now pc : Nat) (m : Path) : Path :=
  targets.foldl (fun m e => if e.1 = pc then m.write now 0 e.2 false none else m) m

/-- One pass over the visits: what is known at each bundle is what every visit so far has in common. -/
def knownPass (t : Fin 192) (node : NodeId) (cpt : Nat) (targets : List (Nat × Nat)) (vs : List Visit)
    (tab : Tab (Option Known)) : Tab (Option Known) :=
  (vs.foldl (fun (acc : Tab (Option Known) × Path) v =>
    let m := knownEnter targets v.now v.pc acc.2
    let k1 := match tget none acc.1 v.pc with | none => m.vals | some k => meet k m.vals
    (tput none acc.1 v.pc (some k1), knownAfter t node cpt v.now v.is { m with vals := k1 })) (tab, Path.start)).1

/-- Passes until nothing changes; each pass that changes something forgets at least one register of one bundle. -/
def knownFix (t : Fin 192) (node : NodeId) (cpt : Nat) (targets : List (Nat × Nat)) (vs : List Visit) :
    Nat → Tab (Option Known) → Tab (Option Known)
  | 0, tab => tab
  | n + 1, tab =>
    let t1 := knownPass t node cpt targets vs tab
    if t1 = tab then tab else knownFix t node cpt targets vs n t1

/-- What verification establishes at every bundle of a tile (R184). -/
def knownOf (t : Fin 192) (node : NodeId) (cpt : Nat) (x : TileSec) (vs : List Visit) : Tab (Option Known) :=
  knownFix t node cpt (loopTargets x t) vs (33 * x.bundles.length + 34) []

end Sys2Proof.Machine
end

