-- ==== Sys2Proof/Machine/TextOps.lean ====
section
/-! DEFINITION. The text unit's images and algorithms: tokeniser images (R340 to R343), UTF-8 and pieces (R347), tokens (R349),
grammars (R352), stop strings (R357, R358). -/

namespace Sys2Proof.Machine

open Sys2Proof

/-! ### Tokeniser images (R340 to R343) -/

structure TokHead where
  vocab : Nat
  byteBase : Nat
  bos : Nat
  eos : Nat
  pad : Nat
  mergeLog2 : Nat
  vhashLog2 : Nat
  whole : Bool
  classCount : Nat
  poolLen : Nat
  reserved : Nat
deriving DecidableEq, Repr

/-- The header of an image (R340). VOCAB is 17 bits wide, and the ids that follow it 16. -/
def tokHeadOf (img : List Byte) : TokHead :=
  let n := leAt img 0 32
  { vocab := bitsOf n 239 17, byteBase := bitsOf n 223 16, bos := bitsOf n 207 16, eos := bitsOf n 191 16, pad := bitsOf n 175 16,
    mergeLog2 := bitsOf n 170 5, vhashLog2 := bitsOf n 165 5, whole := bitOf n 164, classCount := bitsOf n 151 13,
    poolLen := bitsOf n 128 23, reserved := bitsOf n 0 128 }

def up32 (n : Nat) : Nat := (n + 31) / 32 * 32

/-- Where the sections start (R340). -/
def classOff : Nat := 32
def vocabOff (h : TokHead) : Nat := up32 (classOff + 8 * h.classCount)
def vhashOff (h : TokHead) : Nat := up32 (vocabOff h + 8 * h.vocab)
def mergeOff (h : TokHead) : Nat := up32 (vhashOff h + 64 * 2 ^ h.vhashLog2)
def poolOff (h : TokHead) : Nat := up32 (mergeOff h + 64 * 2 ^ h.mergeLog2)

def vocabEntry (img : List Byte) (h : TokHead) (t : Nat) : Nat := leAt img (vocabOff h + 8 * t) 8
def tokKind (img : List Byte) (h : TokHead) (t : Nat) : Nat := bitsOf (vocabEntry img h t) 32 2

/-- A token's string (R341). -/
def tokStr (img : List Byte) (h : TokHead) (t : Nat) : List Byte :=
  let e := vocabEntry img h t
  slice img (poolOff h + bitsOf e 8 24) (bitsOf e 0 8)

/-- The constants of R343. -/
def kTxt1 : Nat := 0xD6E8FEB86659FD93
def kTxt2 : Nat := 0xA0761D6478BD642F
def kStr : Nat := 0x9FB21C651E98DF25

/-- The two groups of a key in a table of 2^log2 groups. -/
def txtGroups (log2 x : Nat) : Nat × Nat := (itemHash kTxt1 x / 2 ^ (32 - log2), itemHash kTxt2 x / 2 ^ (32 - log2))

/-- The hash of a string (R343). -/
def strKey (s : List Byte) : Nat :=
  (chunks (s.length + 1) 8 s).foldl (fun h c => (h ^^^ leNat c) * kStr % 18446744073709551616) s.length

/-- Entry j of group g of the merge table, and of the vocabulary hash. -/
def mergeEntry (img : List Byte) (h : TokHead) (g j : Nat) : Nat := leAt img (mergeOff h + 64 * g + 8 * j) 8
def vhashEntry (img : List Byte) (h : TokHead) (g j : Nat) : Nat := leAt img (vhashOff h + 64 * g + 4 * j) 4

/-- RESULT of the merge of two tokens, if the table holds one. -/
def mergeLook (img : List Byte) (h : TokHead) (l r : Nat) : Option Nat :=
  let (g1, g2) := txtGroups h.mergeLog2 (l * 65536 + r)
  (([g1, g2].flatMap (fun g => (List.range 8).map (mergeEntry img h g))).find? (fun e =>
    bitOf e 63 && bitsOf e 32 16 == l && bitsOf e 16 16 == r)).map (fun e => bitsOf e 0 16)

/-- The token whose string the vocabulary hash holds. -/
def vocabLook (img : List Byte) (h : TokHead) (s : List Byte) : Option Nat :=
  let (g1, g2) := txtGroups h.vhashLog2 (strKey s)
  (([g1, g2].flatMap (fun g => (List.range 16).map (vhashEntry img h g))).find? (fun e =>
    bitOf e 31 && tokStr img h (bitsOf e 0 16) == s)).map (fun e => bitsOf e 0 16)

/-- A class range (R342): first, last, class, and whether its other bits are zero. -/
def classRange (img : List Byte) (k : Nat) : Nat × Nat × Nat × Bool :=
  let n := leAt img (classOff + 8 * k) 8
  (bitsOf n 24 21, bitsOf n 3 21, bitsOf n 0 3, bitsOf n 45 19 == 0)

/-- Codes of the classes (R342). -/
def clLetter : Nat := 0
def clDigit : Nat := 1
def clSpace : Nat := 2
def clPunct : Nat := 5
def clSymbol : Nat := 6
def clMark : Nat := 7

/-- The class of a code point. -/
def classOf (img : List Byte) (h : TokHead) (c : Nat) : Nat :=
  match ((List.range h.classCount).map (classRange img)).find? (fun r => decide (r.1 ≤ c) && decide (c ≤ r.2.1)) with
  | some r => r.2.2.1
  | none => clSymbol

/-! #### What an image must satisfy -/

def headFieldsOk (img : List Byte) (h : TokHead) : Bool :=
  decide (512 ≤ h.vocab) && decide (h.vocab ≤ 65536) && decide (h.byteBase + 256 ≤ h.vocab)
  && [h.bos, h.eos, h.pad].all (fun t => decide (t < h.vocab) && tokKind img h t == 2)
  && decide (h.mergeLog2 ≤ 16) && decide (h.vhashLog2 ≤ 16) && decide (1 ≤ h.classCount) && decide (h.classCount ≤ 4096)
  && h.reserved == 0 && decide (poolOff h + h.poolLen ≤ img.length)

/-- One vocabulary entry (R341). -/
def vocabOk (img : List Byte) (h : TokHead) (t : Nat) : Bool :=
  let e := vocabEntry img h t
  let k := bitsOf e 32 2
  let n := bitsOf e 0 8
  bitsOf e 34 30 == 0 && decide (bitsOf e 8 24 + n ≤ h.poolLen)
  && (match k with
      | 0 => decide (1 ≤ n) && decide (n ≤ 64)
      | 1 => n == 1
      | 2 => n == 0
      | _ => false)
  && ((decide (h.byteBase ≤ t) && decide (t < h.byteBase + 256)) == (k == 1))
  && (k != 1 || tokStr img h t == [BitVec.ofNat 8 (t - h.byteBase)])

/-- The class ranges (R342): of code points, in order, apart, and U+0020 in a SPACE range of its own. -/
def classesOk (img : List Byte) (h : TokHead) : Bool :=
  let l := (List.range h.classCount).map (classRange img)
  l.all (fun r => decide (r.1 ≤ r.2.1) && decide (r.2.1 ≤ 0x10FFFF) && r.2.2.2
    && (if r.2.2.1 = clSpace then r.1 == 32 && r.2.1 == 32 else !(decide (r.1 ≤ 32) && decide (32 ≤ r.2.1))))
  && (l.zip l.tail).all (fun p => decide (p.1.2.1 < p.2.1))

/-- Every entry of a table, with the group it stands in. -/
def mergeEntries (img : List Byte) (h : TokHead) : List (Nat × Nat) :=
  (List.range (2 ^ h.mergeLog2)).flatMap (fun g => (List.range 8).map (fun j => (g, mergeEntry img h g j)))
def vhashEntries (img : List Byte) (h : TokHead) : List (Nat × Nat) :=
  (List.range (2 ^ h.vhashLog2)).flatMap (fun g => (List.range 16).map (fun j => (g, vhashEntry img h g j)))

/-- The merge table (R343): the reserved bits of every entry are zero, and every valid entry keeps its rules. -/
def mergesOk (img : List Byte) (h : TokHead) : Bool :=
  let l := (mergeEntries img h).filter (fun x => bitOf x.2 63)
  (mergeEntries img h).all (fun x => bitsOf x.2 48 15 == 0)
  && l.all (fun x =>
    let a := bitsOf x.2 32 16
    let b := bitsOf x.2 16 16
    let r := bitsOf x.2 0 16
    let gs := txtGroups h.mergeLog2 (a * 65536 + b)
    (x.1 == gs.1 || x.1 == gs.2) && decide (a < h.vocab) && decide (b < h.vocab) && decide (r < h.vocab)
    && tokKind img h r == 0 && tokStr img h r == tokStr img h a ++ tokStr img h b)
  && (uniq (l.map (fun x => bitsOf x.2 16 32))).length == l.length

/-- The vocabulary hash (R343): the reserved bits of every entry are zero, and every valid entry keeps its rules. -/
def vhashOk (img : List Byte) (h : TokHead) : Bool :=
  let l := (vhashEntries img h).filter (fun x => bitOf x.2 31)
  (vhashEntries img h).all (fun x => bitsOf x.2 16 15 == 0)
  && l.all (fun x =>
    let t := bitsOf x.2 0 16
    let gs := txtGroups h.vhashLog2 (strKey (tokStr img h t))
    (x.1 == gs.1 || x.1 == gs.2) && decide (t < h.vocab) && tokKind img h t == 0)
  && (uniq (l.map (fun x => tokStr img h (bitsOf x.2 0 16)))).length == l.length

/-- The rules of R340 to R343. -/
def tokImageOk (img : List Byte) : Bool :=
  let h := tokHeadOf img
  headFieldsOk img h && (List.range h.vocab).all (vocabOk img h) && classesOk img h && mergesOk img h && vhashOk img h

/-! ### UTF-8 (R347 step 1) -/

/-- What a lead byte announces (RFC 3629): the length, and the range of the second byte. -/
def utf8Lead (b : Nat) : Option (Nat × Nat × Nat) :=
  if b < 0x80 then some (1, 0, 0)
  else if 0xC2 ≤ b ∧ b ≤ 0xDF then some (2, 0x80, 0xBF)
  else if b = 0xE0 then some (3, 0xA0, 0xBF)
  else if b = 0xED then some (3, 0x80, 0x9F)
  else if 0xE1 ≤ b ∧ b ≤ 0xEF then some (3, 0x80, 0xBF)
  else if b = 0xF0 then some (4, 0x90, 0xBF)
  else if 0xF1 ≤ b ∧ b ≤ 0xF3 then some (4, 0x80, 0xBF)
  else if b = 0xF4 then some (4, 0x80, 0x8F)
  else none

/-- What stands at the front of a byte string. -/
inductive Utf8 where
  | cp (c : Nat) (n : Nat)
  | bad
  | cut
deriving DecidableEq, Repr

/-- The bits that a lead byte of a sequence of n bytes gives the code point. -/
def leadBits (b n : Nat) : Nat := if n = 1 then b else b % 2 ^ (7 - n)

/-- The first code point of a byte string, an invalid byte, or a sequence that its end cuts. -/
def utf8At (l : List Byte) : Utf8 :=
  match l with
  | [] => .cut
  | b :: r =>
    match utf8Lead b.toNat with
    | none => .bad
    | some (n, lo, hi) =>
      let tail := (r.take (n - 1)).map BitVec.toNat
      let okSecond := match tail with | [] => true | x :: _ => decide (lo ≤ x) && decide (x ≤ hi)
      let okRest := (tail.drop 1).all (fun x => decide (0x80 ≤ x) && decide (x ≤ 0xBF))
      if okSecond && okRest then
        if tail.length = n - 1 then .cp (tail.foldl (fun a x => a * 64 + x % 64) (leadBits b.toNat n)) n else .cut
      else .bad

/-- One unit of text: its bytes, and its code point unless it is an invalid byte. -/
structure TextUnit where
  bytes : List Byte
  cp : Option Nat
deriving DecidableEq, Repr

/-- A byte string decoded: its units, and the sequence that its end cuts. With `final` a cut sequence is invalid bytes. -/
def utf8Units : Nat → Bool → List Byte → List TextUnit × List Byte
  | 0, _, l => ([], l)
  | _ + 1, _, [] => ([], [])
  | fuel + 1, final, b :: r =>
    match utf8At (b :: r) with
    | .cp c n =>
      let (us, rest) := utf8Units fuel final ((b :: r).drop n)
      (⟨(b :: r).take n, some c⟩ :: us, rest)
    | .bad =>
      let (us, rest) := utf8Units fuel final r
      (⟨[b], none⟩ :: us, rest)
    | .cut =>
      if final then
        let (us, rest) := utf8Units fuel final r
        (⟨[b], none⟩ :: us, rest)
      else ([], b :: r)

/-! ### Pieces (R347 step 2) -/

/-- A piece: its class (none for an invalid byte), its bytes, its DIGIT code points. -/
structure Piece where
  cls : Option Nat
  bytes : List Byte
  digits : Nat
deriving DecidableEq, Repr

/-- Whether a code point starts a new piece after `p`, and the class it then takes; `next` is the class of the code point that
follows directly, if one does. -/
def startsPiece (p : Option Piece) (cls : Nat) (len : Nat) (next : Option Nat) : Option Nat :=
  let lead := cls == clSpace && (match next with | some k => k == clLetter || k == clDigit || k == clPunct | none => false)
  match p with
  | none => some (if lead then next.getD cls else cls)
  | some q =>
    match q.cls with
    | none => some (if lead then next.getD cls else cls)
    | some c =>
      if cls = clMark then (if 64 < q.bytes.length + len then some cls else none)
      else if lead then some (next.getD cls)
      else if c ≠ cls then some cls
      else if cls = clDigit ∧ 3 ≤ q.digits then some cls
      else if 64 < q.bytes.length + len then some cls
      else none

/-- The units cut into pieces; `p` is the current piece. -/
def cutPieces (img : List Byte) (h : TokHead) : Option Piece → List TextUnit → List Piece
  | p, [] => p.toList
  | p, u :: us =>
    match u.cp with
    | none => p.toList ++ cutPieces img h (some ⟨none, u.bytes, 0⟩) us
    | some c =>
      let cls := classOf img h c
      let next := us.head?.bind (fun v => v.cp.map (classOf img h))
      let d := b2n (cls == clDigit)
      match startsPiece p cls u.bytes.length next with
      | some k => p.toList ++ cutPieces img h (some ⟨some k, u.bytes, d⟩) us
      | none =>
        match p with
        | some q => cutPieces img h (some { q with bytes := q.bytes ++ u.bytes, digits := q.digits + d }) us
        | none => cutPieces img h (some ⟨some cls, u.bytes, d⟩) us

/-! ### Tokens (R349) -/

/-- The best merge of a token string: the lowest RESULT, the leftmost on a tie; its place and RESULT. -/
def bestMerge (img : List Byte) (h : TokHead) : Nat → List Nat → Option (Nat × Nat)
  | k, a :: b :: r =>
    match mergeLook img h a b, bestMerge img h (k + 1) (b :: r) with
    | some x, some (j, y) => if y < x then some (j, y) else some (k, x)
    | some x, none => some (k, x)
    | none, o => o
  | _, _ => none

def mergeLoop (img : List Byte) (h : TokHead) : Nat → List Nat → List Nat
  | 0, l => l
  | fuel + 1, l =>
    match bestMerge img h 0 l with
    | none => l
    | some (j, x) => mergeLoop img h fuel (l.take j ++ x :: l.drop (j + 2))

/-- A piece's tokens. -/
def pieceTokens (img : List Byte) (h : TokHead) (p : Piece) : List Nat :=
  let bytes := p.bytes.map (fun b => h.byteBase + b.toNat)
  match p.cls with
  | none => bytes
  | some _ =>
    match (if h.whole then vocabLook img h p.bytes else none) with
    | some t => [t]
    | none => mergeLoop img h bytes.length bytes

/-! ### Stop strings (R357, R358) -/

/-- The stop set of a 272-byte stop block, if it keeps the rules of R357. -/
def stopSetOf (b : List Byte) : Option (List (List Byte)) :=
  let n := leAt b 0 1
  let len (j : Nat) : Nat := leAt b (1 + j) 1
  if n ≤ 8 ∧ (List.range 8).all (fun j => if j < n then decide (1 ≤ len j) && decide (len j ≤ 32) else len j == 0) = true
      ∧ (slice b 9 7).all (· == 0) = true then
    some ((List.range n).map (fun j => slice b (16 + 32 * j) (len j)))
  else none

/-- The stop string that ends at the end of a byte string: the longest, then the lowest index. -/
def stopAt (stops : List (List Byte)) (l : List Byte) : Option (Nat × Nat) :=
  bestBy (fun a b => decide (b.2 < a.2) || (a.2 == b.2 && decide (a.1 < b.1)))
    ((List.range stops.length).filterMap (fun j =>
      let s := stops.getD j []
      if s.isSuffixOf l then some (j, s.length) else none))
where
  bestBy (lt : Nat × Nat → Nat × Nat → Bool) : List (Nat × Nat) → Option (Nat × Nat)
    | [] => none
    | x :: r => match bestBy lt r with | none => some x | some y => if lt y x then some y else some x

/-- The occurrence of a stop string whose last byte comes first: index, and where it starts. -/
def firstStop (stops : List (List Byte)) (l : List Byte) : Option (Nat × Nat) :=
  (List.range l.length).findSome? (fun k =>
    (stopAt stops (l.take (k + 1))).map (fun x => (x.1, k + 1 - x.2)))

/-- The longest suffix that is a proper prefix of some stop string. -/
def stopTail (stops : List (List Byte)) (l : List Byte) : Nat :=
  ((List.range (min 31 l.length)).map (· + 1)).foldl (fun m n =>
    if stops.any (fun s => decide (n < s.length) && s.take n == l.drop (l.length - n)) then n else m) 0

/-- The trailing cut UTF-8 sequence. -/
def cutTail (l : List Byte) : Nat :=
  ([1, 2, 3].filter (fun n => decide (n ≤ l.length) && utf8At (l.drop (l.length - n)) == .cut)).foldl max 0

end Sys2Proof.Machine
end

