-- ==== Sys2Proof/Machine/Text.lean ====
section
/-! DEFINITION. The text unit at work (chapter 12): TXQ, TEXT_TOKENISE, TEXT_DETOKENISE, TEXT_GSTEP,
TEXT_SRAM_UNCORRECTABLE, TOKENISER_SWITCH, TOK_LOAD. -/

namespace Sys2Proof.Machine

open Sys2Proof

/-! ### Descriptors (R344) -/

structure TextDesc where
  op : Nat
  slot : Fin 2
  sq : Nat
  inMax : Nat
  outMax : Nat
  start : Bool
  final : Bool
  addBos : Bool
  addEos : Bool
  pad : Bool
  gramSeg : Nat
  gramRow : Nat
deriving DecidableEq, Repr

def textDescOf (n : Nat) : TextDesc :=
  { op := bitsOf n 124 4, slot := Fin.ofNat 2 (bitsOf n 123 1), sq := bitsOf n 116 7, inMax := bitsOf n 103 13,
    outMax := bitsOf n 86 17, start := bitOf n 85, final := bitOf n 84, addBos := bitOf n 83, addEos := bitOf n 82,
    pad := bitOf n 81, gramSeg := bitsOf n 77 4, gramRow := bitsOf n 48 29 }

/-- The reserved bits and ranges of R344. -/
def textDescOk (n : Nat) : Bool :=
  let d := textDescOf n
  let noGram := d.gramSeg == 0 && d.gramRow == 0
  bitsOf n 0 48 == 0
  && (match d.op with
      | 0 => decide (1 ≤ d.inMax) && decide (d.inMax ≤ 4096) && decide (1 ≤ d.outMax) && decide (d.outMax ≤ 4096)
             && (!d.addBos || d.start) && (!d.addEos || d.final) && noGram
      | 1 => decide (1 ≤ d.inMax) && decide (d.inMax ≤ 256) && decide (64 * d.inMax + 31 ≤ d.outMax) && decide (d.outMax ≤ 16415)
             && !d.addBos && !d.addEos && !d.pad && noGram
      | 2 => d.inMax == 1 && d.outMax == 0 && !d.addBos && !d.addEos && !d.pad
      | _ => false)

/-- Bytes of a mask (R352). -/
def maskBytes (vocab : Nat) : Nat := (vocab + 255) / 256 * 32

/-! ### Images in use (R339) -/

/-- The image that serves a request admitted at a tick, and its state. -/
def imageFor (x : TokSlot) (tick : Nat) : List Byte × ImgState :=
  if x.switchTick ≤ tick then (x.active, x.activeState) else (x.standby, x.standbyState)

/-- Whether the standby buffer still serves requests admitted before the switch. -/
def heldBusy (s : State) (x : TokSlot) : Bool :=
  (x.standbyState == .held || x.standbyState == .failed) && (admSlots s).any (fun k =>
    match admOf s k with | some a => decide (a.t < x.switchTick) | none => false)

def putTok (s : State) (k : Fin 2) (x : TokSlot) : State := { s with txt := { s.txt with slots := s.txt.slots.set k x } }

def seqOf (s : State) (k : Nat) : Seq := tget Seq.reset s.txt.seqs k
def putSeq (s : State) (k : Nat) (q : Seq) : State := { s with txt := { s.txt with seqs := tput Seq.reset s.txt.seqs k q } }

/-! ### TEXT_STATUS (R360) -/

def activeCode : ImgState → Nat
  | .empty => 0
  | .failed => 2
  | _ => 1

/-- Whether a TOK_LOAD for a slot has been started and not answered (R339, R460). -/
def tokLoading (s : State) (k : Fin 2) : Bool :=
  s.host.mbx.busy && (mbxCmd s).op == 0x10 && (mbxCmd s).a0 == k.val

/-- A standby buffer that serves earlier requests is HELD, also while a TOK_LOAD, which it will refuse, waits (R339, log 132). -/
def standbyCode (s : State) (k : Fin 2) : Nat :=
  let x := s.txt.slots[k]
  if heldBusy s x then 2
  else if tokLoading s k then 1
  else if x.standbyState = .ready then 3 else 0

/-- TEXT_STATUS: zero on a node without a text unit. -/
def textStatusReg (s : State) : Nat :=
  if s.aon.textUnit then
    let n (p : Seq → Bool) : Nat := (s.txt.seqs.filter (fun kv => p kv.2)).length
    packFields [(2, activeCode s.txt.slots[0].activeState), (2, standbyCode s 0),
      (2, activeCode s.txt.slots[1].activeState), (2, standbyCode s 1), (8, 0), (8, n (·.failed)),
      (8, n (·.bound.isSome))]
  else 0

/-! ### TXQ (R212, R344, R346) -/

/-- Bytes that a request reads at S[A] (R347, R353, R357). -/
def textInBytes (d : TextDesc) (len : Nat) : Nat :=
  match d.op with
  | 0 => min len d.inMax
  | 1 => (if d.start then 272 else 0) + 4 * min len d.inMax
  | _ => 8

/-- Bytes of the output area (R344). -/
def textOutBytes (s : State) (d : TextDesc) (tick : Nat) : Nat :=
  16 + (match d.op with
        | 0 => 4 * d.outMax
        | 1 => d.outMax
        | _ => maskBytes (tokHeadOf (imageFor s.txt.slots[d.slot] tick).1).vocab)

/-- The request that a tile's bundle is bound to: its admission slot and tick (R197, R345). -/
def boundKey (s : State) (t : Fin 192) : Option (Fin 1024 × Nat) :=
  let x := tileOf s t.val
  match x.srcBound, boundAdm s x with
  | some k, some a => some (k, a.t)
  | _, _ => none

/-- The queue in the order of service: by issue instant, and of one cycle by tile (R346). -/
def textOrder (l : List TextReq) : List TextReq :=
  sortBy (fun a b => decide (a.instant < b.instant) || (a.instant == b.instant && decide (a.tile < b.tile))) l

/-- A TXQ that issues: an area that is not the tile's ends it REFUSED, and an uncorrectable word in its input UNREADABLE (R83, R166,
log 16); else the input is read at issue and the request joins the unit's queue, 4 cycles after its issue (R346). -/
def txqEff (s : State) (t : Fin 192) (ecc : Ecc) (n a b c : Nat) (w : Fin 64) : State :=
  let d := textDescOf n
  let key := boundKey s t
  let ni := textInBytes d c
  if spanOk s t.val a ni && tileRangeOk s t.val b (textOutBytes s d ((key.map (·.2)).getD 0)) then
    let (s1, ok) := tileReport s t [(a, ni)] ecc
    if ok then
      let r : TextReq := ⟨s.nextElem, t, BitVec.ofNat 128 n, srcRead s t.val a ni, c, b, key, (tileOf s t.val).cyc + 4⟩
      let s2 := addElem s1 t w (.txq s.nextElem)
      { s2 with txt := { s2.txt with queue := textOrder (s2.txt.queue ++ [r]) } }
    else addEnded s1 t w .unreadable
  else refusedElem s t w

/-- TXQ (R212). -/
def execTxq (t : Fin 192) (g : Guard) (a b c : Fin 32) (i : Fin 1024) (w : Fin 64) (s : State) :
    Host.Outcome State Fault Refusal :=
  .next (issue s t g (.txq t g a b c i w) (fun s1 =>
    let x := (tileOf s1 t.val).src.s
    txqEff s1 t g.ecc (constOf s1 t.val i.val) (x[a]).toNat (x[b]).toNat (x[c]).toNat w))

/-! ### Answers (R345, R348) -/

/-- What a request answers: the header's fields and what follows it. -/
structure TextAns where
  status : BitVec 8
  flags : Nat
  stop : Nat
  carry : Nat
  count : Nat
  gstate : Nat
  body : List Byte
deriving DecidableEq, Repr

/-- The flag bits of FLAGS (R348). -/
def textFlags (trunc badUtf8 stopped accept dead end_ badToken : Bool) : Nat :=
  b2n trunc + 2 * b2n badUtf8 + 4 * b2n stopped + 8 * b2n accept + 16 * b2n dead + 32 * b2n end_ + 64 * b2n badToken

/-- CARRY of a request's header (R348): the bytes that its sequence context holds. -/
def seqCarry (op : Nat) (q : Seq) : Nat := if op = 0 then q.carry.length else if op = 1 then q.held.length else 0

/-- GSTATE of a request's header (R348): the grammar state, zero for other OPs and before any (log 41). -/
def seqState (op : Nat) (q : Seq) : Nat := if op = 2 then q.gstate.getD 0 else 0

/-- An answer that fails: the header alone lands, with what the sequence context holds (R348). -/
def textFail (op : Nat) (st : BitVec 8) (q : Seq) : TextAns := ⟨st, 0, 15, seqCarry op q, 0, seqState op q, []⟩

/-- The result header (R348) and the bytes that follow it. -/
def ansBytes (x : TextAns) : List Byte :=
  leBytes 16 (packFields [(64, 0), (8, x.flags), (8, x.status.toNat), (4, x.stop), (7, x.carry), (17, x.count), (20, x.gstate)])
  ++ x.body

/-- The status of the element (R348). -/
def ansStatus (x : TextAns) : ElemStatus :=
  if x.status = stDone then .arrived else if x.status = stMediaError then .unreadable else .refused

/-- The answer lands in the output area of the request (R346, R348). -/
def landAns (s : State) (r : TextReq) (x : TextAns) : State :=
  match elemOf s r.id with
  | none => s
  | some e => landData s e r.out (ansBytes x) (ansStatus x)

/-- What serving a request did: the state, its sequence context, its answer. -/
structure TextRun where
  st : State
  sq : Seq
  ans : TextAns

/-- Whether a request may use its sequence context (R345): START with a request bound, or the same bound request and OP. -/
def seqAllowed (q : Seq) (d : TextDesc) (r : TextReq) : Bool :=
  match r.bound with
  | none => false
  | some (k, t) => d.start || q.bound == some (k, t, d.op)

/-- The sequence context as a request finds it: START resets and binds it (R345). -/
def seqStart (q : Seq) (d : TextDesc) (r : TextReq) : Seq :=
  if d.start then { Seq.reset with bound := r.bound.map (fun b => (b.1, b.2, d.op)) } else q

/-- FINAL unbinds the context (R345). -/
def seqEnd (q : Seq) (d : TextDesc) : Seq := if d.final then { q with bound := none } else q

/-- Filters that a request ends without END (R356): the one that a START leaves behind, and its own where it is FINAL. -/
def filtersFailed (d : TextDesc) (q x : Seq) : Nat :=
  b2n (d.start && filterLeft q) + b2n (d.final && d.op == 2 && !x.gend && !x.fell)

/-- A request that its context or image fails (R345, R359), or its run `f` over its image. -/
def textRun (s : State) (d : TextDesc) (r : TextReq) (f : List Byte → Seq → TextRun) : TextRun :=
  let q := seqOf s d.sq
  if seqAllowed q d r then
    let q1 := seqStart q d r
    let (img, st) := imageFor s.txt.slots[d.slot] ((r.bound.map (·.2)).getD 0)
    let x : TextRun :=
      if q1.failed ∨ st = .failed then ⟨s, seqEnd q1 d, textFail d.op stMediaError q1⟩
      else if st = .empty then ⟨s, seqEnd q1 d, textFail d.op stBadField q1⟩
      else f img q1
    ⟨bumpBy x.st .filterFallback (filtersFailed d q x.sq), x.sq, x.ans⟩
  else ⟨bump s .textRefused, q, textFail d.op stBadContext q⟩

/-- Service times (R346), in half nanoseconds. -/
def textService (d : TextDesc) (vocab : Nat) : Nat :=
  match d.op with
  | 0 => 2 * (64 + d.inMax)
  | 1 => 2 * (64 + 16 * d.inMax)
  | _ => 192 + maskBytes vocab / 32

/-- The end of a request (R346), in half nanoseconds times the fast cycles of a tick: it starts at its issue instant or when the unit is
free, whichever is later. -/
def textEnd (cpt freeAt instant service : Nat) : Nat := max (1280 * instant) freeAt + cpt * service

/-- The end of a request at the front of the queue. -/
def textEndOf (s : State) (r : TextReq) : Nat :=
  let d := textDescOf r.desc.toNat
  let img := (imageFor s.txt.slots[d.slot] ((r.bound.map (·.2)).getD 0)).1
  textEnd (tickCycles s) s.txt.freeAt r.instant (textService d (tokHeadOf img).vocab)

/-- Whether a request has ended by the end of the present tick (R346). -/
def textDue (s : State) (r : TextReq) : Bool := decide (textEndOf s r < 1280 * tickCycles s * (s.clk.tick + 1))

/-- The unit takes the request off its queue, and is free when it ends. -/
def textTaken (s : State) (r : TextReq) (rest : List TextReq) : State :=
  { s with txt := { s.txt with queue := rest, freeAt := textEndOf s r } }

/-- The unit serves the request at the front of its queue, if its OP is the command's and it ends in this tick (R346); words of its SRAM
that it corrected are counted (R359). -/
def textServe (s : State) (op corrected : Nat) (f : State → TextDesc → TextReq → List Byte → Seq → TextRun) : State :=
  match s.txt.queue with
  | [] => s
  | r :: rest =>
    let d := textDescOf r.desc.toNat
    if d.op = op ∧ textDue s r = true then
      let s0 := bumpBy (textTaken s r rest) .sramCorr corrected
      let x := textRun s0 d r (f s0 d r)
      landAns (putSeq x.st d.sq x.sq) r x.ans
    else s

/-! ### TEXT_TOKENISE (R347 to R351) -/

/-- Whether a piece is an invalid byte. -/
def badPiece (p : Piece) : Bool := p.cls.isNone

/-- The pieces that a request tokenises, and its carry: without FINAL the last piece and the cut sequence stay (R350). -/
def splitCarry (final : Bool) (ps : List Piece) (cut : List Byte) : List Piece × List Byte :=
  if final then (ps, []) else (ps.dropLast, (ps.getLast?.map (·.bytes)).getD [] ++ cut)

/-- A token word (R351). -/
def tokWord (t : Nat) : List Byte := leBytes 4 t

def tokeniseRun (s : State) (d : TextDesc) (r : TextReq) (img : List Byte) (q : Seq) : TextRun :=
  let h := tokHeadOf img
  let text := q.carry ++ r.input
  let (us, cut) := utf8Units (text.length + 1) d.final text
  let (ps, carry) := splitCarry d.final (cutPieces img h none us) cut
  let toks := (if d.start && d.addBos then [h.bos] else []) ++ ps.flatMap (pieceTokens img h)
              ++ (if d.final && d.addEos then [h.eos] else [])
  let out := toks.take d.outMax
  let nbad := (ps.filter badPiece).length
  let trunc := decide (d.inMax < r.len) || decide (d.outMax < toks.length)
  let words := (out ++ (if d.pad then List.replicate (d.outMax - out.length) h.pad else [])).flatMap tokWord
  ⟨bumpIf trunc (bumpBy s .textBadutf8 nbad) .textTrunc, seqEnd { q with carry := carry } d,
   ⟨stDone, textFlags trunc (decide (0 < nbad)) false false false false false, 15, carry.length, out.length, 0, words⟩⟩

/-- TEXT_TOKENISE (R347): `corrected` words of the unit's SRAM were corrected. -/
def execTextTokenise (corrected : BitVec 20) (s : State) : Host.Outcome State Fault Refusal :=
  .next (textServe s 0 corrected.toNat tokeniseRun)

/-! ### TEXT_DETOKENISE (R357, R358) -/

/-- How far a detokeniser has come. -/
structure Detok where
  held : List Byte
  out : List Byte
  bad : Nat
  end_ : Bool
  stopAt : Option Nat
  flushed : Bool
deriving DecidableEq, Repr

/-- The held bytes are emitted as they stand; a cut sequence among them sets BADUTF8 (R358). -/
def flushHeld (x : Detok) : Detok :=
  { x with out := x.out ++ x.held, held := [], flushed := x.flushed || decide (0 < cutTail x.held) }

/-- A token's string is appended (R358 steps 1 and 2). -/
def appendHeld (stops : List (List Byte)) (x : Detok) (str : List Byte) : Detok :=
  let h := x.held ++ str
  match firstStop stops h with
  | some (j, at_) => { x with out := x.out ++ h.take at_, held := [], stopAt := some j }
  | none =>
    let n := h.length - max (stopTail stops h) (cutTail h)
    { x with out := x.out ++ h.take n, held := h.drop n }

/-- One token word (R358). -/
def detokOne (img : List Byte) (h : TokHead) (stops : List (List Byte)) (x : Detok) (w : Nat) : Detok :=
  if x.end_ ∨ x.stopAt.isSome = true then x
  else if h.vocab ≤ w then { x with bad := x.bad + 1 }
  else if w = h.eos then flushHeld { x with end_ := true }
  else if tokKind img h w = 2 then x
  else appendHeld stops x (tokStr img h w)

/-- A request past END or past a stop string reads nothing (R358). -/
def detokWords (q : Seq) (d : TextDesc) (r : TextReq) : List Nat :=
  if q.past then [] else
    let b := if d.start then r.input.drop 272 else r.input
    (chunks (b.length + 1) 4 b).map leNat

def detokGo (s : State) (d : TextDesc) (r : TextReq) (img : List Byte) (q : Seq) : TextRun :=
  let h := tokHeadOf img
  let x := (detokWords q d r).foldl (detokOne img h q.stops) ⟨q.held, [], 0, false, none, false⟩
  let y := if d.final then flushHeld x else x
  let trunc := decide (d.inMax < r.len)
  let q1 : Seq := { q with held := y.held, past := q.past || y.end_ || y.stopAt.isSome }
  ⟨bumpIf trunc (bumpBy s .textBadtoken y.bad) .textTrunc, seqEnd q1 d,
   ⟨stDone, textFlags trunc y.flushed y.stopAt.isSome false false y.end_ (decide (0 < y.bad)), y.stopAt.getD 15, y.held.length,
    y.out.length, 0, y.out⟩⟩

/-- A START reads the stop block first: a bad one leaves the context unbound (R357). -/
def detokRun (s : State) (d : TextDesc) (r : TextReq) (img : List Byte) (q : Seq) : TextRun :=
  if d.start then
    match stopSetOf (r.input.take 272) with
    | none => ⟨s, { q with bound := none }, textFail d.op stBadField q⟩
    | some l => detokGo s d r img { q with stops := l }
  else detokGo s d r img q

/-- TEXT_DETOKENISE (R357, R358): `corrected` words of the unit's SRAM were corrected. -/
def execTextDetokenise (corrected : BitVec 20) (s : State) : Host.Outcome State Fault Refusal :=
  .next (textServe s 1 corrected.toNat detokRun)

/-! ### TEXT_GSTEP (R352, R353) -/

/-- The DEAD state. -/
def gramDead : Nat := 0xFFFFF

/-- A grammar header (R352). FALLBACK is for the plan that reads it: it says how a failed filter's search ends (R356). -/
structure Gram where
  states : Nat
  start : Nat
  masks : Nat
  transLog2 : Nat
  vocab : Nat
  endId : Nat
  slot : Nat
  fallback : Bool
  reserved : Nat
deriving DecidableEq, Repr

def gramOf (n : Nat) : Gram :=
  { states := bitsOf n 236 20, start := bitsOf n 216 20, masks := bitsOf n 192 24, transLog2 := bitsOf n 187 5,
    vocab := bitsOf n 170 17, endId := bitsOf n 154 16, slot := bitsOf n 153 1, fallback := bitOf n 152, reserved := bitsOf n 0 152 }

def gramOk (g : Gram) (d : TextDesc) (vocab : Nat) : Bool :=
  decide (1 ≤ g.states) && decide (g.start < g.states) && decide (1 ≤ g.masks) && decide (g.transLog2 ≤ 24)
  && g.vocab == vocab && decide (g.endId < vocab) && g.slot == d.slot.val && g.reserved == 0

def gramTransOff (g : Gram) : Nat := up32 (32 + 8 * g.states)
def gramMaskOff (g : Gram) : Nat := up32 (gramTransOff g + 64 * 2 ^ g.transLog2)

/-- Bytes of a grammar, through the bound request's segments (R168, R352). -/
def gramRead (s : State) (segs : List (BitVec 64)) (d : TextDesc) (off len : Nat) : Option (List Byte) :=
  (segAddr segs d.gramSeg (d.gramRow * 1024 + off) len false).map (fun a => memRead s a len)

/-- A state's entry: ACCEPT and MASK_ID (R352). -/
def gramState (s : State) (segs : List (BitVec 64)) (d : TextDesc) (g : Gram) (st : Nat) : Option (Bool × Nat) :=
  (gramRead s segs d (32 + 8 * st) 8).bind (fun b =>
    let n := leNat b
    if bitsOf n 24 39 = 0 ∧ bitsOf n 0 24 < g.masks then some (bitOf n 63, bitsOf n 0 24) else none)

def gramMask (s : State) (segs : List (BitVec 64)) (d : TextDesc) (g : Gram) (id : Nat) : Option (List Byte) :=
  gramRead s segs d (gramMaskOff g + id * maskBytes g.vocab) (maskBytes g.vocab)

/-- The valid entries of a transition group (R352); none where an entry breaks the table, be it valid or not. -/
def gramGroup (s : State) (segs : List (BitVec 64)) (d : TextDesc) (g : Gram) (k : Nat) : Option (List Nat) :=
  (gramRead s segs d (gramTransOff g + 64 * k) 64).bind (fun b =>
    let l := (chunks 9 8 b).map leNat
    if l.all (fun n => bitsOf n 60 3 == 0 && bitsOf n 20 4 == 0 && decide (bitsOf n 0 20 < g.states)) then some (l.filter (bitOf · 63))
    else none)

/-- NEXT of a (state, token) pair (R352): the outer option is a table that breaks its rules. -/
def gramNext (s : State) (segs : List (BitVec 64)) (d : TextDesc) (g : Gram) (st tok : Nat) : Option (Option Nat) :=
  let (g1, g2) := txtGroups g.transLog2 (st * 65536 + tok)
  match gramGroup s segs d g g1, gramGroup s segs d g g2 with
  | some a, some b =>
    some (((a ++ b).find? (fun n => bitsOf n 40 20 == st && bitsOf n 24 16 == tok)).map (fun n => bitsOf n 0 20))
  | _, _ => none

/-- What a step comes to (R353). -/
inductive GramStep where
  | to (st : Nat) (accept : Bool) (mask : List Byte)
  | end_ (st : Nat)
  | dead
  | bad
deriving DecidableEq, Repr

/-- The step enters a state. -/
def gramEnter (s : State) (segs : List (BitVec 64)) (d : TextDesc) (g : Gram) (st : Nat) : GramStep :=
  match gramState s segs d g st with
  | none => .bad
  | some (acc, id) =>
    match gramMask s segs d g id with
    | none => .bad
    | some m => .to st acc m

/-- A step from state `st` on a token (R353). -/
def gramMove (s : State) (segs : List (BitVec 64)) (d : TextDesc) (g : Gram) (st tok : Nat) : GramStep :=
  let go : GramStep :=
    match gramNext s segs d g st tok with
    | none => .bad
    | some none => .dead
    | some (some n) => gramEnter s segs d g n
  if tok = g.endId then
    match gramState s segs d g st with
    | none => .bad
    | some (true, _) => .end_ st
    | some (false, _) => go
  else go

/-- A step of a sequence: a context whose START failed holds no state (log 41). -/
def gramStep (s : State) (segs : List (BitVec 64)) (d : TextDesc) (vocab : Nat) (cur : Option Nat) (tok : Nat) : GramStep :=
  match (gramRead s segs d 0 32).map (fun b => gramOf (leNat b)) with
  | none => .bad
  | some g =>
    if gramOk g d vocab then
      if d.start then gramEnter s segs d g g.start
      else
        match cur with
        | none => .bad
        | some st => gramMove s segs d g st tok
    else .bad

/-- The answer of a step: state, flags and mask. -/
def gramAns (st : Nat) (accept dead end_ : Bool) (mask : List Byte) : TextAns :=
  ⟨stDone, textFlags false false false accept dead end_ false, 15, 0, 0, st, mask⟩

/-- A grammar read that is uncorrectable: MEDIA_ERROR, and the request ends at its next phase boundary (R84, R353). -/
def gramBad (s : State) (d : TextDesc) (r : TextReq) (a : Adm) (off : Nat) (q : Seq) : TextRun :=
  let addr := (segAt a.segs d.gramSeg).base * 1024 + off
  ⟨failRequest (lastingMem s addr (some a.req.ctx)) (r.bound.map (·.1)) stMediaError, seqEnd q d,
   textFail d.op stMediaError q⟩

def gstepRun (bad : Option (BitVec 39)) (s : State) (d : TextDesc) (r : TextReq) (img : List Byte) (q : Seq) : TextRun :=
  let vocab := (tokHeadOf img).vocab
  let zero := List.replicate (maskBytes vocab) (0 : Byte)
  if q.gstate = some gramDead then ⟨s, seqEnd q d, gramAns gramDead false true false zero⟩
  else if q.gend then ⟨s, seqEnd q d, gramAns (q.gstate.getD 0) false false true zero⟩
  else
    match r.bound.bind (fun b => admOf s b.1.val) with
    | none => ⟨s, seqEnd q d, textFail d.op stBadField q⟩
    | some a =>
      match bad with
      | some off => gramBad s d r a off.toNat q
      | none =>
        match gramStep s a.segs d vocab q.gstate (leAt r.input 0 2) with
        | .bad => ⟨s, seqEnd q d, textFail d.op stBadField q⟩
        | .dead =>
          ⟨bump (bump s .grammarDead) .filterFallback, seqEnd { q with gstate := some gramDead, fell := true } d,
           gramAns gramDead false true false zero⟩
        | .end_ st => ⟨s, seqEnd { q with gend := true } d, gramAns st false false true zero⟩
        | .to st acc m => ⟨s, seqEnd { q with gstate := some st } d, gramAns st acc false false m⟩

/-- TEXT_GSTEP (R353): `bad` is the offset in the segment of a grammar read that stays uncorrectable; `corrected` words of the unit's
SRAM were corrected. -/
def execTextGstep (bad : Option (BitVec 39)) (corrected : BitVec 20) (s : State) : Host.Outcome State Fault Refusal :=
  .next (textServe s 2 corrected.toNat (gstepRun bad))

/-! ### TEXT_SRAM_UNCORRECTABLE (R359) -/

/-- A lasting error marks its image or its context FAILED, and the event is raised. -/
def markFailed (s : State) (d : TextDesc) (r : TextReq) (isSeq : Bool) : State :=
  let s1 :=
    if isSeq then putSeq s d.sq { seqOf s d.sq with failed := true }
    else
      let x := s.txt.slots[d.slot]
      putTok s d.slot (if x.switchTick ≤ (r.bound.map (·.2)).getD 0 then { x with activeState := .failed }
                       else { x with standbyState := .failed })
  raiseEvent s1 evTextFailed (textStatusReg s1)

/-- A request that an uncorrectable word of the unit's SRAM stops (R359): MEDIA_ERROR, with its context begun and ended as for any
other outcome. -/
def sramStopped (s : State) (d : TextDesc) (r : TextReq) : TextRun :=
  let q := seqOf s d.sq
  let q1 := seqStart q d r
  let x := seqEnd q1 d
  ⟨bumpBy s .filterFallback (filtersFailed d q x), x, textFail d.op stMediaError q1⟩

/-- TEXT_SRAM_UNCORRECTABLE (R359): the request that the unit serves met the word; `index` names its sequence context or its
slot. -/
def execTextSramUncorrectable (seqNotSlot : Bool) (index : Fin 128) (off : BitVec 24) (lasting : Bool) (s : State) :
    Host.Outcome State Fault Refusal :=
  .next (
    match s.txt.queue with
    | [] => s
    | r :: rest =>
      let d := textDescOf r.desc.toNat
      if (if seqNotSlot then d.sq == index.val else d.slot.val == index.val) && seqAllowed (seqOf s d.sq) d r && textDue s r then
        let ctx := (r.bound.bind (fun b => admOf s b.1.val)).map (·.req.ctx)
        let s1 := raiseUncorr (bump (textTaken s r rest) .uncorrSram) 4 off.toNat ctx
        let x := sramStopped s1 d r
        let s2 := putSeq x.st d.sq x.sq
        let s3 := if lasting then markFailed s2 d r seqNotSlot else s2
        landAns s3 r x.ans
      else s)

/-! ### TOK_LOAD and TOKENISER_SWITCH (R339) -/

/-- The row of TOK_LOAD (R458): an image is a multiple of 32 bytes with its digest. -/
def tokRow : MbxRow := ⟨0x10, false, 1, 0, fun l => l % 32 == 0 && decide (96 ≤ l)⟩

/-- An image and its digest (R259, R339). -/
def splitDigest (b : List Byte) : List Byte × List Byte := (b.take (b.length - 64), b.drop (b.length - 64))

/-- TOK_LOAD (R339): its checks in order, then the standby image is ready and the slot switches at the next boundary. -/
def execTokLoad (data : HostData) (s : State) : Host.Outcome State Fault Refusal :=
  .next (mbxRun s tokRow (fun c =>
    mbxNeed s.aon.textUnit stUnitAbsent (mbxData data (fun b =>
      let (img, dig) := splitDigest b
      let k : Fin 2 := Fin.ofNat 2 c.a0
      let x := s.txt.slots[k]
      mbxNeed (b.length == c.len && sha512 img == dig) stSignature
        (mbxNeed (decide (b.length ≤ 3145728)) stCapacity
          (mbxNeed (tokImageOk img) stBadField
            (mbxNeed (!heldBusy s x) stQueueFull
              (mbxDone (putTok s k { x with standby := img, standbyState := .ready,
                                            standbyDigest := BitVec.ofNat 512 (leNat dig), switchDue := some s.clk.tick })))))))))

/-- TOKENISER_SWITCH (R339): at the first boundary after the load; the old image is held for the requests admitted
earlier. -/
def execTokeniserSwitch (slot : Fin 2) (s : State) : Host.Outcome State Fault Refusal :=
  .next (
    let x := s.txt.slots[slot]
    if x.switchDue.any (fun k => decide (k < s.clk.tick)) then
      putTok s slot ⟨x.standby, .ready, x.standbyDigest, x.active, (if x.activeState = .ready then .held else x.activeState),
        x.digest, none, s.clk.tick⟩
    else s)

end Sys2Proof.Machine
end

