-- ==== Sys2Proof/Machine/PlanTiles.lean ====
section
/-! DEFINITION. What plan verification rejects in a tile section (R230 and the rules it names): constant entries, bundles by
themselves, and the schedule of every instruction. -/

namespace Sys2Proof.Machine

open Sys2Proof

/-- A failure at `off` of tile `tl` unless `ok`. -/
def failUnless (ok : Bool) (off tl : Nat) : List Failing := if ok then [] else [(off, tl)]

/-! ### Constant entries (R187) -/

/-- A staging area (R171, R205): on a 32-byte boundary, at or above PROG_LIMIT and within the tile store. -/
def stageOk (limit base slots size : Nat) : Bool :=
  base % 32 == 0 && decide (limit ≤ base) && decide (1 ≤ slots) && decide (slots ≤ 4096) &&
    decide (base + slots * size ≤ tileStoreBytes)

/-- R171. -/
def gatherDescOk (limit n : Nat) : Bool :=
  let g := gatherDescOf n 0
  decide (g.space ≤ 3) && (g.space == 3 || g.node == 0) && (decide (2 ≤ g.space) || g.seg == 0) &&
    decide (2 ≤ bitsOf n 68 4) && decide (bitsOf n 68 4 ≤ 12) && decide (1 ≤ g.count) &&
    (g.space != 0 || decide (g.base < tileStoreBytes)) && (g.space != 1 || decide (g.base < podStoreBytes)) &&
    stageOk limit g.stageBase g.stageSlots (max 32 g.size) && bitsOf n 0 3 == 0

/-- R203. -/
def windowWordOk (n : Nat) : Bool :=
  bitsOf n 23 105 == 0 && !bitOf n 21 && decide (1 ≤ bitsOf n 0 21) && decide (bitsOf n 0 21 ≤ 1048576)

/-- R205. -/
def fetchDescOk (limit n : Nat) : Bool :=
  let f := fetchDescOf n
  decide (f.kind ≤ 1) && decide (1 ≤ f.nMax) && decide (f.nMax ≤ 65536) && bitsOf n 69 2 != 3 &&
    stageOk limit f.stageBase f.stageSlots f.slotSize && bitsOf n 0 69 == 0

/-- Whether a list entry may be patched (R211). -/
def patchable (n : BitVec 128) : Bool :=
  match beanOpOf (bitsOf n.toNat 60 4) with
  | some .bldw | some .bput | some .bzero => true
  | _ => false

/-- R208, R211. -/
def issueDescOk (lists : List (List (BitVec 128))) (n : Nat) : Bool :=
  let d := issueDescOf n
  bitsOf n 0 68 == 0 &&
    (match lists[d.list]? with
     | none => false
     | some l => decide (d.patchFirst + d.patchMax ≤ l.length) && ((l.drop d.patchFirst).take d.patchMax).all patchable)

/-- K and BUDGET of TSEL and TMRG (R228). -/
def selListOk (d : SelDesc) : Bool := decide (1 ≤ d.k) && decide (d.k ≤ 64) && d.budget == 0

/-- K and BUDGET of TTHR (R228). -/
def selBudgetOk (d : SelDesc) : Bool := d.k == 0 && decide (1 ≤ d.budget) && decide (d.budget ≤ 4096)

/-- R228: an entry is one for TSEL and TMRG, or one for TTHR. -/
def selDescOk (n : Nat) : Bool :=
  let d := selDescOf n
  decide (1 ≤ d.nMax) && decide (d.nMax ≤ 1048576) && (selListOk d || selBudgetOk d) && bitsOf n 0 87 == 0

/-- A constant entry is legal for its kind (R187, R531). -/
def constOk (p : Plan) (x : TileSec) (kind n : Nat) : Bool :=
  match kind with
  | 0 => gatherDescOk x.progLimit n
  | 1 => windowWordOk n
  | 2 => fetchDescOk x.progLimit n
  | 3 => issueDescOk p.lists n
  | 4 => selDescOk n
  | 5 => textDescOk n
  | _ => false

def constFails (p : Plan) (x : TileSec) (o : TileOffs) (t : Nat) : List Failing :=
  (x.consts.zip x.kinds).zipIdx.flatMap (fun e => failUnless (constOk p x e.1.2 e.1.1.toNat) (o.consts + 16 * e.2) t)

/-! ### Bundles by themselves -/

/-- Entry `i` is loaded and of the kind asked for (R187). -/
def constKind (x : TileSec) (i kind : Nat) : Bool := x.kinds[i]? == some kind

/-- What an instruction asks of the constant table (R187, R203, R228). -/
def constRefOk (x : TileSec) (i : Instr) : Bool :=
  let sel (k : Nat) : SelDesc := selDescOf (x.consts.getD k 0).toNat
  let list (k : Nat) : Bool := constKind x k 4 && selListOk (sel k)
  match i with
  | .gather _ _ _ _ _ k _ => constKind x k.val 0 && constKind x (k.val + 1) 1
  | .vfetch _ _ _ _ _ k _ _ => constKind x k.val 2
  | .bissue _ _ _ _ _ k _ => constKind x k.val 3
  | .txq _ _ _ _ _ k _ => constKind x k.val 5
  | .tsel _ _ _ _ _ _ _ k => list k.val
  | .tmrg _ _ _ _ _ _ _ k => list k.val
  | .tthr _ _ _ _ _ _ k => constKind x k.val 4 && selBudgetOk (sel k.val)
  | .csend _ _ _ e => decide (e.toNat < x.sends.length)
  | _ => true

/-- The loops of a program: bundle of the LOOP, level, last bundle of the body. -/
def loopsOf (x : TileSec) (t : Fin 192) : List (Nat × Nat × Nat) :=
  x.bundles.zipIdx.flatMap (fun e => (bundleInstrs t e.1).filterMap (fun i =>
    match i with
    | some (.loop _ _ _ _ _ level body _) => some (e.2, level.val, e.2 + body.toNat)
    | _ => none))

/-- Bundle `pc` lies in the body of a loop. -/
def inBody (l : Nat × Nat × Nat) (pc : Nat) : Bool := decide (l.1 < pc) && decide (pc ≤ l.2.2)

/-- R195: LEVEL is the true depth, bodies lie inside their outer bodies and inside the program region, and bodies of one level
do not overlap. -/
def loopOk (x : TileSec) (ls : List (Nat × Nat × Nat)) (l : Nat × Nat × Nat) : Bool :=
  let outer := ls.filter (fun m => inBody m l.1)
  decide (l.2.2 < x.progLimit / 32) && outer.length == l.2.1 && outer.all (fun m => decide (l.2.2 ≤ m.2.2)) &&
    ls.all (fun m => m == l || m.2.1 != l.2.1 || (!inBody m l.1 && !inBody l m.1))

/-- R196: an unguarded BR stays within the program region, and within or without every loop body. -/
def brOk (x : TileSec) (ls : List (Nat × Nat × Nat)) (pc : Nat) (g : Guard) (target : Nat) : Bool :=
  !mayFail g && decide (target < x.progLimit / 32) && ls.all (fun l => inBody l pc == inBody l target)

/-- One instruction by itself: its constants, its loop or its branch, and P0 is never written (R182). -/
def instrOk (x : TileSec) (ls : List (Nat × Nat × Nat)) (pc : Nat) (i : Instr) : Bool :=
  constRefOk x i &&
    (match i with
     | .loop _ _ _ _ _ level body _ => loopOk x ls (pc, level.val, pc + body.toNat)
     | .br _ g target => brOk x ls pc g target.toNat
     | _ => true) &&
    (useOf 1 (fun _ => 0) none i).writes.all (fun e => e.1 != .p 0)

/-- The registers that the instructions of a bundle name as destinations are distinct (R184). -/
def destsDistinct (is : List Instr) : Bool :=
  decide ((is.flatMap (fun i => (useOf 1 (fun _ => 0) none i).writes.map (·.1))).Nodup)

/-- A bundle by itself: every word is an instruction (R179, R180). -/
def bundleOk (t : Fin 192) (x : TileSec) (ls : List (Nat × Nat × Nat)) (pc : Nat) (ws : List Word64) : Bool :=
  let is := bundleInstrs t ws
  is.all (·.isSome) && (is.filterMap id).all (instrOk x ls pc) && destsDistinct (is.filterMap id)

def bundleFails (t : Fin 192) (x : TileSec) (o : TileOffs) : List Failing :=
  let ls := loopsOf x t
  x.bundles.zipIdx.flatMap (fun e => failUnless (bundleOk t x ls e.2 e.1) (o.bundles + 32 * e.2) t.val)

/-- Bundles that hold a TXQ (R212, R230). -/
def txqBundles (t : Fin 192) (x : TileSec) (o : TileOffs) : List Failing :=
  x.bundles.zipIdx.flatMap (fun e => failUnless (!(bundleInstrs t e.1).any (fun i =>
    match i with
    | some (.txq _ _ _ _ _ _ _) => true
    | _ => false)) (o.bundles + 32 * e.2) t.val)

/-! ### Addresses that verification establishes (R164, R168, R201, R202) -/

/-- The established value of an S register. -/
def knownReg (k : Known) (a : Fin 32) : Option Word64 := (k[a.val]?).join

/-- The established address of a store access. -/
def knownAddr (k : Known) (i : Instr) : Option Nat :=
  match i with
  | .lds _ _ _ a _ x => (knownReg k a).map (fun v => (v + x.signExtend 64).toNat)
  | .sts _ _ a _ _ x => (knownReg k a).map (fun v => (v + x.signExtend 64).toNat)
  | .ldv _ _ _ a _ x => (knownReg k a).map (fun v => (v + x.signExtend 64).toNat)
  | .stv _ _ a _ _ x => (knownReg k a).map (fun v => (v + x.signExtend 64).toNat)
  | _ => none

/-- The established address space of a store access. -/
def knownSpace (k : Known) (i : Instr) : Option Nat := (knownAddr k i).map (fun n => bitsOf n 61 3)

/-- A TILE or POD range (R167, R168, R164). -/
def storeAddrOk (limit n len : Nat) : Bool :=
  match bitsOf n 61 3 with
  | 0 => bitsOf n 20 41 == 0 && decide (limit ≤ n) && decide (n + len ≤ tileStoreBytes)
  | 1 => bitsOf n 24 37 == 0 && decide (bitsOf n 0 24 + len ≤ podStoreBytes)
  | _ => false

/-- A plan address that XLOAD or XSTORE may name (R202), as far as the plan fixes it: no context's segments and no request's
buffers are known. -/
def copyAddrOk (write : Bool) (n len : Nat) : Bool :=
  match bitsOf n 61 3 with
  | 1 => bitsOf n 24 37 == 0 && decide (bitsOf n 0 24 + len ≤ podStoreBytes)
  | 2 => bitsOf n 43 18 == 0
  | 3 => bitsOf n 58 3 == 0 && !write
  | 4 => bitsOf n 33 28 == 0 && bitOf n 32 == write
  | _ => false

/-- Bytes that a list's loads take from the data area, and its BRDLs (R209). -/
def listSizes (l : List (BitVec 128)) : Nat × Nat :=
  l.foldl (fun acc n =>
    match listEntOf n.toNat with
    | none => acc
    | some e => (acc.1 + dataBytes e, acc.2 + (if e.op = .brdl then 1 else 0))) (0, 0)

/-- An established area of tile store lies at or above PROG_LIMIT and within the store (R209). -/
def areaOk (limit : Nat) (a : Option Word64) (len : Nat) : Bool :=
  match a with
  | none => true
  | some v => len == 0 || decide (limit ≤ v.toNat) && decide (v.toNat + len ≤ tileStoreBytes)

/-- The list that a Bean issue entry names. -/
def issueList (p : Plan) (x : TileSec) (i : Nat) : List (BitVec 128) :=
  p.lists.getD (issueDescOf (x.consts.getD i 0).toNat).list []

/-- The least bytes of a list of items of `size` bytes, at most `most` of them: those of its established length, and one byte where
its length is not established (log 130). -/
def leastBytes (k : Known) (b : Fin 32) (size most : Nat) : Nat :=
  match knownReg k b with
  | none => 1
  | some v => size * min v.toNat most

/-- The tile-store ranges that an instruction takes from registers alone: the established start, and the least bytes of it that are
read or written (R164, R212, R219, R229, R530). -/
def staticRanges (x : TileSec) (k : Known) (i : Instr) : List (Option Word64 × Nat) :=
  let n (j : Fin 1024) : Nat := (x.consts.getD j.val 0).toNat
  let dirw (a : Fin 32) : List (Option Word64 × Nat) := [(knownReg k a, 24)]
  let select (a b c : Fin 32) (j : Fin 1024) (out : Nat) : List (Option Word64 × Nat) :=
    [(knownReg k a, leastBytes k b 16 (selDescOf (n j)).nMax), (knownReg k c, 16 * out)]
  match i with
  | .xload _ _ _ b m _ => [(knownReg k b, m.toNat + 1)]
  | .xstore _ _ _ b m _ => [(knownReg k b, m.toNat + 1)]
  | .gather _ _ a b c j _ =>
    let g := gatherDescOf (n j) (x.consts.getD (j.val + 1) 0).toNat
    [(knownReg k a, leastBytes k b 4 g.nMax), (knownReg k c, if g.outPod then 0 else 4 * g.nMax)]
  | .vfetch _ _ a b c j _ _ =>
    let d := fetchDescOf (n j)
    [(knownReg k a, leastBytes k b (if d.kind = 0 then 16 else 8) d.nMax), (knownReg k c, 4 * d.nMax)]
  | .bissue _ _ _ _ c j _ => [(knownReg k c, 8 * (issueDescOf (n j)).patchMax)]
  | .txq _ _ a b c j _ =>
    [(knownReg k a, match knownReg k c with | none => 1 | some v => textInBytes (textDescOf (n j)) v.toNat), (knownReg k b, 16)]
  | .mldw _ _ a b _ f _ _ _ => [(knownReg k a, 128), (knownReg k b, fmtS8 f)]
  | .tsel _ _ _ a b c _ j => select a b c j (selDescOf (n j)).k
  | .tmrg _ _ _ a b c _ j => select a b c j (selDescOf (n j)).k
  | .tthr _ _ _ a b c j => select a b c j (selDescOf (n j)).budget
  | .dirwLook _ _ a _ => dirw a
  | .dirwInsert _ _ a _ => dirw a
  | .dirwMap _ _ a _ => dirw a
  | .dirwFree _ _ a _ => dirw a
  | .csend _ _ a _ => [(knownReg k a, 240)]
  | _ => []

/-- No established range begins below PROG_LIMIT (R164). -/
def rangesOk (limit : Nat) (l : List (Option Word64 × Nat)) : Bool :=
  l.all (fun r => match r.1 with | none => true | some v => r.2 == 0 || decide (limit ≤ v.toNat))

def staticOk (p : Plan) (x : TileSec) (k : Known) (i : Instr) : Bool :=
  let len := match i with | .ldv _ _ _ _ _ _ => 256 | .stv _ _ _ _ _ _ => 256 | _ => 8
  let store := match knownAddr k i with | none => true | some n => storeAddrOk x.progLimit n len
  rangesOk x.progLimit (staticRanges x k i) &&
  match i with
  | .xload _ _ a _ n _ => match knownReg k a with | none => true | some v => copyAddrOk false v.toNat (n.toNat + 1)
  | .xstore _ _ a _ n _ => match knownReg k a with | none => true | some v => copyAddrOk true v.toNat (n.toNat + 1)
  | .bissue _ _ a b _ c _ =>
    let z := listSizes (issueList p x c.val)
    areaOk x.progLimit (knownReg k a) z.1 && areaOk x.progLimit (knownReg k b) (160 * z.2)
  | _ => store

/-! ### The schedule of every instruction -/

/-- What the checks know of an A register since its last MCLR (R223): 1 for integer sums, 2 for tree pushes; the terms or
integer MMACs (E4 counts twice); and whether MFIN has closed it. -/
structure AccChk where
  mode : Nat
  n : Nat
  closed : Bool
deriving DecidableEq, Repr

/-- What the checks know of a stationary bank: when its MLDW is complete, its format, and until when an MMAC reads it. -/
structure BankChk where
  ready : Nat
  fmt : MatFmt
  readTo : Nat
deriving DecidableEq, Repr

/-- The state of the checks along a tile's schedule. Cycles are counted from the schedule's origin. -/
structure Chk where
  pend : List (RegName × Nat × Nat)
  waits : Tab Nat
  gwin : Option (Nat × Nat × Nat)
  fwin : Option Nat
  absFree : Nat
  turnFree : Nat
  sendFree : Nat
  podFree : Nat
  ports : List (Nat × Nat)
  banks : Vector BankChk 2
  accs : Vector AccChk 8
  bad : List Nat
deriving DecidableEq, Repr

def Chk.start : Chk :=
  ⟨[], [], none, none, 0, 0, 0, 0, [], Vector.replicate 2 ⟨0, .e4, 0⟩, Vector.replicate 8 ⟨0, 0, false⟩, []⟩

/-- What the checks of a tile share. -/
structure ChkCtx where
  p : Plan
  t : Fin 192
  x : TileSec
  cpt : Nat
  targets : List (Nat × Nat × Nat)

/-- Tile-store read ports an instruction takes, and for how long (R163, R201, R220). -/
def readPorts (k : Known) (i : Instr) : Nat × Nat :=
  let one : Nat × Nat := if knownSpace k i = none ∨ knownSpace k i = some 0 then (1, 1) else (0, 0)
  match i with
  | .lds _ _ _ _ _ _ => one
  | .ldv _ _ _ _ _ _ => one
  | .mldw _ _ _ _ _ f rows _ _ => (if f = .f16 then 1 else 2, rows.toNat)
  | _ => (0, 0)

/-- Cycles of the Pod port that an instruction may take (R165, R201). -/
def podCycles (k : Known) (i : Instr) : Nat :=
  let pod := knownSpace k i = none ∨ knownSpace k i = some 1
  match i with
  | .lds _ _ _ _ _ _ => if pod then 1 else 0
  | .sts _ _ _ _ _ _ => if pod then 1 else 0
  | .ldv _ _ _ _ _ _ => if pod then 2 else 0
  | .stv _ _ _ _ _ _ => if pod then 2 else 0
  | _ => 0

/-- Terms that one MMAC pushes (R223). -/
def fmtTerms (f : MatFmt) : Nat := fmtElems f / 32

/-- Two areas of tile store share a byte. -/
def areasMeet (a n b m : Nat) : Bool := decide (a < b + m) && decide (b < a + n)

/-- An asynchronous instruction names an armed wait object by its deadline tick (R191). -/
def asyncOk (c : Chk) (tick : Nat) (w : Fin 64) : Bool := decide (tick < tget 0 c.waits w.val)

/-- A list that writes records (R263). -/
def listWrites (l : List (BitVec 128)) : Bool :=
  l.any (fun n => match listEntOf n.toNat with | none => false | some e => e.op == .bput || e.op == .bzero)

/-- Only a FINAL phase writes shard structures (R263); the phases of an INTERNAL pipeline may, as they may by DIRW (R292). -/
def mayWriteRecords (p : Plan) (o : Occ) : Bool :=
  o.final || (match p.pipes[o.pipe]? with | some q => q.kind == 4 | none => false)

/-- The rules of timing that one instruction meets, from what the checks know as its bundle issues. -/
def timingOk (k : ChkCtx) (c : Chk) (v : Visit) (i : Instr) : Bool :=
  let tick := v.now / k.cpt
  let wt (w : Fin 64) : Nat := tget 0 c.waits w.val
  let n (j : Nat) : Nat := (k.x.consts.getD j 0).toNat
  match i with
  | .arm _ _ w _ _ => wt w == 0 || decide (wt w ≤ tick)
  | .await _ _ _ _ w => wt w != 0
  | .wstat _ _ _ w _ => wt w != 0 && decide (wt w ≤ tick)
  | .cplt _ _ _ _ _ _ => v.occ.final
  | .xload _ _ _ _ _ w => asyncOk c tick w
  | .xstore _ _ _ _ _ w => asyncOk c tick w
  | .gather _ _ _ _ _ _ w => asyncOk c tick w && (match c.gwin with | none => true | some g => decide (g.1 < tick))
  | .vfetch _ _ _ _ _ j w _ =>
    let f := fetchDescOf (n j.val)
    asyncOk c tick w && (match c.fwin with | none => true | some d => decide (d < tick)) &&
      (match c.gwin with
       | none => true
       | some g => decide (g.1 < tick) || !areasMeet g.2.1 g.2.2 f.stageBase (f.stageSlots * f.slotSize))
  | .slst _ _ _ _ _ false => match c.gwin with | none => false | some g => decide (g.1 < tick)
  | .slst _ _ _ _ _ true => match c.fwin with | none => false | some d => decide (d < tick)
  | .dirwLook _ _ _ w => asyncOk c (tick + 1) w
  | .dirwInsert _ _ _ w => asyncOk c (tick + 1) w
  | .dirwMap _ _ _ w => asyncOk c (tick + 1) w
  | .dirwFree _ _ _ w => asyncOk c (tick + 1) w
  | .bissue _ _ _ _ _ j w => 
    asyncOk c tick w && decide (tick < v.occ.start + (issueDescOf (n j.val)).start) &&
      (!listWrites (issueList k.p k.x j.val) || mayWriteRecords k.p v.occ)
  | .txq _ _ _ _ _ _ w => asyncOk c tick w
  | .vamx _ _ _ _ _ => decide (c.absFree ≤ v.now)
  | .vamr _ _ _ _ _ => decide (c.absFree ≤ v.now)
  | .vamc _ _ => decide (c.absFree ≤ v.now)
  | .mldw _ _ _ _ b _ _ _ _ => decide (c.banks[b].readTo ≤ v.now)
  | .mmac _ _ d _ b tree =>
    let x := c.accs[d]
    let y := c.banks[b]
    decide (y.ready ≤ v.now) &&
      (if tree then x.mode != 1 && decide (x.n + fmtTerms y.fmt ≤ 128)
       else y.fmt != .f16 && x.mode != 2 && decide (x.n + (if y.fmt = .e4 then 2 else 1) ≤ 32))
  | .mmov _ _ _ a _ => c.accs[a].mode != 2 || c.accs[a].closed
  | .tsel _ _ _ _ _ _ _ _ => decide (c.turnFree ≤ v.now)
  | .tmrg _ _ _ _ _ _ _ _ => decide (c.turnFree ≤ v.now)
  | .tthr _ _ _ _ _ _ _ => decide (c.turnFree ≤ v.now)
  | .csend _ _ _ e =>
    let se := sendEntOf (k.x.sends.getD e.toNat 0).toNat
    decide (c.sendFree ≤ v.now) && (tick + 1) % (64 / 2 ^ se.repeat_) == se.tickMod
  | _ => true

/-- What one instruction changes in what the checks know. -/
def chkNext (k : ChkCtx) (v : Visit) (c : Chk) (i : Instr) : Chk :=
  let n (j : Nat) : Nat := (k.x.consts.getD j 0).toNat
  let nMax (j : Nat) : Nat := (selDescOf (n j)).nMax
  let dl (w : Fin 64) : Nat := tget 0 c.waits w.val - 1
  match i with
  | .arm _ _ w d _ => { c with waits := tput 0 c.waits w.val (v.occ.start + d.toNat + 1) }
  | .gather _ _ _ _ _ j w =>
    let g := gatherDescOf (n j.val) 0
    { c with gwin := some (dl w, g.stageBase, g.stageSlots * max 32 g.size) }
  | .vfetch _ _ _ _ _ _ w _ => { c with fwin := some (dl w) }
  | .vamx _ _ _ _ f16 => { c with absFree := v.now + (if f16 then 2 else 1) }
  | .vamr _ _ _ _ _ => { c with absFree := v.now + 1 }
  | .vamc _ _ => { c with absFree := v.now + 64 }
  | .mldw _ _ _ _ b f rows _ _ => { c with banks := c.banks.set b ⟨v.now + rows.toNat + 4, f, c.banks[b].readTo⟩ }
  | .mmac _ _ d _ b tree =>
    let x := c.accs[d]
    let y := c.banks[b]
    let grow := if tree then fmtTerms y.fmt else if y.fmt = .e4 then 2 else 1
    { c with accs := c.accs.set d ⟨if tree then 2 else 1, x.n + grow, false⟩, banks := c.banks.set b { y with readTo := v.now + 8 } }
  | .mfin _ _ d _ _ _ => { c with accs := c.accs.set d ⟨c.accs[d].mode, 0, true⟩ }
  | .mclr _ _ d => { c with accs := c.accs.set d ⟨0, 0, false⟩ }
  | .tsel _ _ _ _ _ _ _ j => { c with turnFree := v.now + turnipLat false (nMax j.val) }
  | .tmrg _ _ _ _ _ _ _ j => { c with turnFree := v.now + turnipLat false (nMax j.val) }
  | .tthr _ _ _ _ _ _ j => { c with turnFree := v.now + turnipLat true (nMax j.val) }
  | .csend _ _ _ _ => { c with sendFree := v.now + 4 }
  | _ => c

/-- Two results to one register may become visible in one cycle (R184). -/
def sameCycle (a b : RegName × Nat × Nat) : Bool := a.1 == b.1 && decide (a.2.1 ≤ b.2.2) && decide (b.2.1 ≤ a.2.2)

/-- No two results of a list, and none of it and of `pend`, become visible in one cycle. -/
def resultsApart (pend : List (RegName × Nat × Nat)) : List (RegName × Nat × Nat) → Bool
  | [] => true
  | w :: l => pend.all (fun q => !sameCycle q w) && l.all (fun q => !sameCycle q w) && resultsApart pend l

/-- The results a bundle brings, by the cycle from which they are visible: those of its instructions, but for LOOP, whose
writes are visible at the first bundle of each iteration (R195). -/
def bundleResults (k : ChkCtx) (kn : Known) (v : Visit) : List (RegName × Nat × Nat) :=
  let nMax (j : Nat) : Nat := (selDescOf (k.x.consts.getD j 0).toNat).nMax
  let enter := k.targets.flatMap (fun e =>
    if e.1 = v.pc then [(RegName.s e.2.1, v.now, v.now), (RegName.p e.2.2, v.now, v.now)] else [])
  enter ++ v.is.flatMap (fun i =>
    match i with
    | .loop _ _ _ _ _ _ _ _ => []
    | i => (useOf (v.next - v.now) nMax (knownSpace kn i) i).writes.map (fun e => (e.1, v.now + e.2.1, v.now + e.2.2)))

/-- The registers a bundle reads, its guards among them. -/
def bundleReads (v : Visit) : List RegName :=
  v.is.flatMap (fun i => .p (guardOf i).gp.val :: (useOf 1 (fun _ => 0) none i).reads)

/-- Whether a bundle obeys every rule of the schedule where it issues. -/
def visitOk (k : ChkCtx) (kn : Known) (c : Chk) (v : Visit) : Bool :=
  let rp := v.is.map (readPorts kn)
  let used := (c.ports.filter (fun q => decide (v.now < q.1))).foldl (fun (n : Nat) (q : Nat × Nat) => n + q.2) 0
  let pod := v.is.foldl (fun n i => n + podCycles kn i) 0
  (bundleReads v).all (fun r => c.pend.all (fun q => q.1 != r || decide (q.2.2 ≤ v.now))) &&
    resultsApart c.pend (bundleResults k kn v) && decide (rp.foldl (fun (n : Nat) (q : Nat × Nat) => n + q.1) used ≤ 2) &&
    (pod == 0 || decide (c.podFree ≤ v.now)) && v.is.all (staticOk k.p k.x kn) && v.is.all (timingOk k c v)

/-- What the checks know after a bundle. -/
def visitNext (k : ChkCtx) (kn : Known) (c : Chk) (v : Visit) : Chk :=
  let c1 := v.is.foldl (chkNext k v) c
  let rp := (v.is.map (readPorts kn)).filter (fun q => q.1 != 0)
  let pod := v.is.foldl (fun n i => n + podCycles kn i) 0
  { c1 with
    pend := c.pend.filter (fun q => decide (v.now ≤ q.2.2)) ++ bundleResults k kn v
    ports := c.ports.filter (fun q => decide (v.now < q.1)) ++ rp.map (fun q => (v.now + q.2, q.1))
    podFree := if pod = 0 then c.podFree else v.now + pod }

/-- One bundle of the schedule. Breaches of the first round, whose start no earlier round has prepared, do not count. -/
def visitCheck (k : ChkCtx) (known : Tab (Option Known)) (c : Chk) (v : Visit) : Chk :=
  let kn := (tget none known v.pc).getD unknown
  let c1 := visitNext k kn c v
  if v.occ.start < 64 ∨ visitOk k kn c v = true then c1 else { c1 with bad := v.pc :: c1.bad }

/-- The loop registers written at the first bundle of each body (R195): bundle, D, PD. -/
def loopWrites (x : TileSec) (t : Fin 192) : List (Nat × Nat × Nat) :=
  x.bundles.zipIdx.flatMap (fun e => (bundleInstrs t e.1).filterMap (fun i =>
    match i with
    | some (.loop _ _ d _ pd _ _ _) => some (e.2 + 1, d.val, pd.val)
    | _ => none))

/-- What fails on a tile: entries of no phase, overlapping phases (R273), constants, bundles, the walk (R230 rule 11) and the
schedule. -/
def tileFails (p : Plan) (node : NodeId) (cpt : Nat) (t : Fin 192) (x : TileSec) (o : TileOffs) (w : Walk) : List Failing :=
  let vs := visitsOf w
  let known := knownOf t node cpt x vs
  let c := vs.foldl (visitCheck ⟨p, t, x, cpt, loopWrites x t⟩ known) Chk.start
  failUnless (x.entries.all (fun e => decide (e.1 < p.phases.length)) && occsDisjoint p (tileOccs p x)) o.head t.val ++
    constFails p x o t.val ++ bundleFails t x o ++ (w.bad ++ c.bad).map (fun pc => (o.bundles + 32 * pc, t.val))

end Sys2Proof.Machine
end

