-- ==== Sys2Proof/Machine/PlanLists.lean ====
section
/-! DEFINITION. What plan verification rejects in the Bean command lists (R155, R211), each list on its own and across every list
of the repeating schedule, and in the gating of Pods (R198, R274). -/

namespace Sys2Proof.Machine

open Sys2Proof

/-- Whether a command uses the pseudo-channel data bus (R125). -/
def usesBus (op : BeanOp) : Bool := !opComputes op && op != .bclr

/-! ### Each list on its own: rules 1, 2, 7, 8, 9 and 10 of R155 -/

/-- Rules 1, 2 and 10 for one entry. -/
def listEntOk (present out : BitVec 6144) (n : Nat) : Bool :=
  match listEntOf n with
  | none => false
  | some e =>
    bitsOf n 64 27 == 0 && bitsOf n 0 2 == 0 && decide (e.bean < 6144) && beanWordOk e.op e.w && e.op != .bcopy &&
      e.op != .brrd && bit present e.bean && !bit out e.bean

/-- What the checks know of a Bean along a list: a BLDP has come, a BLDQ since, the group's kind (1 scans, 2 writes), the end of
its last booked span, and its longest BSCAN. A group ends with BRDL, BCLR or a BSCAN with NEW (R134). -/
structure GroupChk where
  param : Bool
  query : Bool
  kind : Nat
  last : Nat
  longest : Nat
deriving DecidableEq, Repr

def GroupChk.start : GroupChk := ⟨false, false, 0, 0, 0⟩

/-- Rules 7, 8 and 9 for one entry. -/
def groupOk (g : GroupChk) (e : ListEnt) : Bool :=
  match e.op with
  | .bscan => g.param && g.query && (e.w.new || g.kind != 2)
  | .bput => g.kind != 1
  | .bzero => g.kind != 1
  | .brdl => g.kind != 1 || decide (g.last + 64 + g.longest ≤ 2 * e.issue)
  | _ => true

def groupNext (g : GroupChk) (e : ListEnt) : GroupChk :=
  let stop := 2 * e.issue + bookedNs e.op e.w
  match e.op with
  | .bldp => { g with param := true, query := false }
  | .bldq => { g with query := true }
  | .bscan => { g with kind := 1, last := stop, longest := max (if e.w.new then 0 else g.longest) (beanNs e.op e.w) }
  | .bput => { g with kind := 2, last := stop }
  | .bzero => { g with kind := 2, last := stop }
  | .brdl => { g with kind := 0, longest := 0 }
  | .bclr => { g with kind := 0, longest := 0 }
  | _ => g

/-- One entry of a list: the failures so far, the groups, and the last ISSUE (ascending, R154). -/
def listStep (present out : BitVec 6144) (base : Nat) (acc : List Failing × Tab GroupChk × Nat) (e : BitVec 128 × Nat) :
    List Failing × Tab GroupChk × Nat :=
  let off := base + 16 * e.2
  match listEntOf e.1.toNat with
  | none => ((off, noTile) :: acc.1, acc.2)
  | some x =>
    let g := tget GroupChk.start acc.2.1 x.bean
    let ok := listEntOk present out e.1.toNat && groupOk g x && decide (acc.2.2 ≤ x.issue)
    (failUnless ok off noTile ++ acc.1, tput GroupChk.start acc.2.1 x.bean (groupNext g x), x.issue)

def listFails (present out : BitVec 6144) (base : Nat) (l : List (BitVec 128)) : List Failing :=
  (l.zipIdx.foldl (listStep present out base) ([], [], 0)).1

/-! ### Across the lists: rules 3 to 6 of R155, R211

The schedule repeats every 64 ticks of 640 ns, so times are taken on a circle of 40,960 ns. -/

def circleNs : Nat := 40960

/-- A command of a list that a BISSUE starts: its issue time on the circle, its Bean (none for a patchable entry, which may go to
any), its word, and its offset in the image. -/
structure Cmd where
  at_ : Nat
  bean : Option Nat
  op : BeanOp
  w : BeanWord
  off : Nat
deriving DecidableEq, Repr

/-- The commands of one BISSUE (R208, R211) whose list starts in tick `start` of the schedule. -/
def issueCmds (img : PlanImg) (d : IssueDesc) (start : Nat) : List Cmd :=
  (img.plan.lists.getD d.list []).zipIdx.filterMap (fun e =>
    (listEntOf e.1.toNat).map (fun x =>
      let float := decide (d.patchFirst ≤ e.2) && decide (e.2 < d.patchFirst + d.patchMax)
      ⟨(640 * start + 2 * x.issue) % circleNs, if float then none else some x.bean, x.op, x.w,
        img.listsAt.getD d.list 0 + 16 * e.2⟩))

/-- The commands that the second round of a tile's walk issues. -/
def walkCmds (img : PlanImg) (x : TileSec) (w : Walk) : List Cmd :=
  (visitsOf w).flatMap (fun v =>
    if v.occ.start < 64 then []
    else v.is.flatMap (fun i =>
      match i with
      | .bissue _ _ _ _ _ j _ =>
        let d := issueDescOf (x.consts.getD j.val 0).toNat
        issueCmds img d (v.occ.start + d.start)
      | _ => []))

/-- Two spans on the circle come closer than `gap`. -/
def spansMeet (gap a la b lb : Nat) : Bool :=
  decide ((b + circleNs - a) % circleNs < la + gap) || decide ((a + circleNs - b) % circleNs < lb + gap)

/-- Two Beans may be one. -/
def mayShare (f : Nat → Nat) (a b : Option Nat) : Bool :=
  match a, b with
  | some x, some y => f x == f y
  | _, _ => true

/-- Rule 3: computing spans on one pair lie 64 ns apart. Rule 4: data-bus uses on one pseudo-channel do not overlap. -/
def cmdsClash (a b : Cmd) : Bool :=
  (opComputes a.op && opComputes b.op && mayShare id a.bean b.bean &&
    spansMeet 64 a.at_ (bookedNs a.op a.w) b.at_ (bookedNs b.op b.w)) ||
  (usesBus a.op && usesBus b.op && mayShare pcOfBean a.bean b.bean &&
    spansMeet 0 (a.at_ + 4) (beanNs a.op a.w - 4) (b.at_ + 4) (beanNs b.op b.w - 4))

def clashFails : List Cmd → List Failing
  | [] => []
  | c :: l => l.flatMap (fun d => failUnless (!cmdsClash c d) (max c.off d.off) noTile) ++ clashFails l

/-- Computing spans booked on a die at an instant (R139). -/
def bookedOn (l : List Cmd) (die instant : Nat) : Nat :=
  (l.filter (fun c => opComputes c.op && mayShare id (c.bean.map dieOfBean) (some die) &&
    decide ((instant + circleNs - c.at_) % circleNs < bookedNs c.op c.w))).length

/-- Rule 5: at most 15 on any die as any span starts. -/
def dieFails (l : List Cmd) : List Failing :=
  l.flatMap (fun c =>
    if opComputes c.op then
      (match c.bean with
       | some b => failUnless (decide (bookedOn l (dieOfBean b) c.at_ ≤ 15)) c.off noTile
       | none => (List.range 96).flatMap (fun d => failUnless (decide (bookedOn l d c.at_ ≤ 15)) c.off noTile))
    else [])

/-- The span checked and the pair refresh time of a class (R145). -/
def refreshSpan (cls : Nat) : Nat × Nat := if cls = 0 then (31250, 168) else if cls = 1 then (31250, 188) else (15625, 188)

/-- The idle stretches between busy spans on the circle: starts and lengths, from the start of the first span. -/
def idleStretches (busy : List (Nat × Nat)) : List (Nat × Nat) :=
  match sortBy (fun a b => decide (a.1 < b.1)) busy with
  | [] => []
  | f :: l =>
    let r := l.foldl (fun (acc : List (Nat × Nat) × Nat) s =>
      if acc.2 < s.1 then ((acc.2, s.1 - acc.2) :: acc.1, max acc.2 (s.1 + s.2)) else (acc.1, max acc.2 (s.1 + s.2)))
      ([], f.1 + f.2)
    (r.2, f.1 + circleNs - r.2) :: r.1

/-- Pair refreshes that the idle stretches serve within the span of `len` from `from_` (R146), in half nanoseconds. -/
def refreshesIn (idle : List (Nat × Nat)) (tp from_ len : Nat) : Nat :=
  (idle.flatMap (fun g => [g, (g.1 + circleNs, g.2)])).foldl (fun n g =>
    n + (min (2 * (g.1 + g.2)) (from_ + len) - max (2 * g.1) from_) / (2 * tp)) 0

/-- Rule 6 for one pair: within every span of the class, idle stretches serve at least 8 pair refreshes (R146). -/
def refreshOk (cls : Nat) (l : List Cmd) (bean : Option Nat) : Bool :=
  let busy := (l.filter (fun c => opComputes c.op && (c.bean == none || c.bean == bean))).map
    (fun c => (c.at_, bookedNs c.op c.w))
  let idle := idleStretches busy
  let (span, tp) := refreshSpan cls
  let first := busy.foldl (fun n b => min n b.1) circleNs
  busy.isEmpty || (List.range (2 * circleNs)).all (fun x => decide (8 ≤ refreshesIn idle tp (2 * first + x) (2 * span)))

def refreshFails (cls : Nat) (l : List Cmd) : List Failing :=
  (uniq (none :: l.map (·.bean))).flatMap (fun b =>
    match l.find? (fun c => opComputes c.op && c.bean == b) with
    | none => []
    | some c => failUnless (refreshOk cls l b) c.off noTile)

def cmdFails (cls : Nat) (l : List Cmd) : List Failing := clashFails l ++ dieFails l ++ refreshFails cls l

/-! ### Pods (R198, R274, rule 10 of R230) -/

/-- A bundle of the schedule as the Pods see it: its tick of the 64, its tile, its offset in the image, and its instructions. -/
structure PodUse where
  tick : Nat
  tile : Fin 192
  off : Nat
  is : List Instr
deriving DecidableEq, Repr

/-- The bundles of a tile's second round. -/
def podUses (cpt : Nat) (t : Fin 192) (o : TileOffs) (w : Walk) : List PodUse :=
  ((visitsOf w).filter (fun v => decide (64 ≤ v.occ.start))).map (fun v =>
    ⟨v.now / cpt % 64, t, o.bundles + 32 * v.pc, v.is.filter (fun i =>
      match i with
      | .wake _ _ _ _ => true
      | .gate _ _ _ _ => true
      | _ => false)⟩)

/-- The Pods along the schedule, and what failed. -/
structure PodRun where
  pods : List Pod
  bad : List Failing
deriving DecidableEq, Repr

/-- A function on the Pods of a mask. -/
def maskPods (m : BitVec 8) (f : Pod → Pod) (l : List Pod) : List Pod :=
  l.zipIdx.map (fun e => if bit m e.2 then f e.1 else e.1)

/-- A Pod of a mask has its PLL off. -/
def anyOff (m : BitVec 8) (l : List Pod) : Bool := l.zipIdx.any (fun e => bit m e.2 && e.1.clk == .gatedOff)

/-- A wake that is due starts the Pod. -/
def startPod (tick : Nat) (p : Pod) : Pod :=
  match p.wakeAt with
  | some w => if w ≤ tick ∧ p.clk ≠ .running then { p with clk := .running, wakeAt := none } else p
  | none => p

/-- WAKE and GATE of one bundle (R198). -/
def podInstr (tick off tile : Nat) (r : PodRun) (i : Instr) : PodRun :=
  match i with
  | .wake _ _ m cold => ⟨maskPods m (wakePod tick cold) r.pods, failUnless (cold || !anyOff m r.pods) off tile ++ r.bad⟩
  | .gate _ _ m off => ⟨maskPods m (fun p => { p with gateAsked := some off }) r.pods, r.bad⟩
  | _ => r

/-- What Sprout asks for in a tick (R274). -/
def podPhases (img : PlanImg) (tick : Nat) (r : PodRun) : PodRun :=
  img.plan.phases.zipIdx.foldl (fun r e =>
    (pipesOf img.plan e.2).foldl (fun r q =>
      let due (lead : Nat) : Bool := (phaseStarts q.2 e.1).contains ((tick + lead) % 64)
      let warm := e.1.podMask &&& ~~~e.1.coldMask
      let r1 : PodRun :=
        if due 1 then ⟨maskPods warm (wakePod tick false) r.pods,
          failUnless (!anyOff warm r.pods) (img.phasesAt + 8 * e.2) noTile ++ r.bad⟩ else r
      if due 64 then { r1 with pods := maskPods e.1.coldMask (wakePod tick true) r1.pods } else r1) r) r

/-- One tick: due wakes start Pods, bundles need a running Pod, wakes are asked for, and gated Pods stop at its end. -/
def podTick (img : PlanImg) (uses : List PodUse) (r : PodRun) (tick : Nat) : PodRun :=
  let r0 : PodRun := ⟨r.pods.map (startPod tick), r.bad⟩
  let here := uses.filter (fun u => u.tick == tick % 64)
  let stopped := here.flatMap (fun u =>
    failUnless (r0.pods.zipIdx.any (fun e => e.2 == podOfTile u.tile.val && e.1.clk == .running)) u.off u.tile.val)
  let r1 := podPhases img tick ⟨r0.pods, stopped ++ r0.bad⟩
  let r2 := here.foldl (fun r u => u.is.foldl (podInstr tick u.off u.tile.val) r) r1
  ⟨r2.pods.map gatePod, r2.bad⟩

/-- The repeating schedule from Pods whose PLLs run: two rounds bring it to what every later round repeats, the third is checked. -/
def podFails (img : PlanImg) (uses : List PodUse) : List Failing :=
  let r := (List.range 128).foldl (podTick img uses) ⟨List.replicate 8 { Pod.reset with clk := .gated }, []⟩
  ((List.range 64).foldl (fun r k => podTick img uses r (128 + k)) ⟨r.pods, []⟩).bad

end Sys2Proof.Machine
end

