-- ==== Sys2Proof/Machine/PlanPorts.lean ====
section
/-! DEFINITION. What plan verification rejects in the slot tables and send lists (R368, R370, R371, R374). -/

namespace Sys2Proof.Machine

open Sys2Proof

/-- A send-table entry (R370). -/
structure SlotEnt where
  kind : Nat
  tile : Nat
  inPort : Nat
  reserved : Nat
deriving DecidableEq, Repr

def slotEntOf (n : Nat) : SlotEnt := ⟨bitsOf n 14 2, bitsOf n 6 8, bitsOf n 3 3, bitsOf n 0 3⟩

/-- R370 for a send-table entry, and rule 4 of R374: the last four slots are UNUSED. -/
def slotEntOk (i n : Nat) : Bool :=
  let e := slotEntOf n
  (if e.kind = 1 then decide (e.tile < 192) else e.tile == 0) &&
    (if e.kind = 2 then decide (e.inPort < 6) else e.inPort == 0) && e.reserved == 0 &&
    (decide (i % 500 < 496) || e.kind == 0)

/-- R371 for a receive-table entry, and rule 4 of R374. -/
def recvEntOk (p : Plan) (i n : Nat) : Bool :=
  let e := recvEntOf n
  let place :=
    match p.tiles[e.tile]? with
    | none => false
    | some x => decide (x.progLimit ≤ 32 * e.offset) && decide (32 * e.offset + 256 ≤ tileStoreBytes)
  (if e.forwards then decide (e.outPort < 6) else e.outPort == 0) &&
    (if e.delivers then place else e.tile == 0 && e.offset == 0 && e.wait == 0 && e.age == 0) && e.reserved == 0 &&
    (decide (i % 500 < 496) || e.action == 0)

/-- The port tables of a plan. -/
def planPort (p : Plan) (k : Nat) : PortTab := p.ports.getD k ⟨false, 0, [], []⟩

/-- Rule 2 of R374: a forwarded cell meets a FORWARD entry of its out port that names this port, one slot later. -/
def forwardOk (p : Plan) (k i n : Nat) : Bool :=
  let e := recvEntOf n
  if e.forwards then
    let f := slotEntOf (tget 0 (planPort p e.outPort).send ((i + 1) % 32000)).toNat
    f.kind == 2 && f.inPort == k
  else true

/-- The tick rows that a send-list entry stands for (R370). -/
def sendRows (e : SendEnt) : List Nat := (List.range 64).filter (fun r => r % (64 / 2 ^ e.repeat_) == e.tickMod)

/-- R370 for a send-list entry: its fields, a used port (R368), and a LOCAL entry of its tile in every row it stands for (rule 3 of
R374). -/
def sendEntOk (p : Plan) (t : Nat) (n : Nat) : Bool :=
  let e := sendEntOf n
  decide (e.port < 6) && decide (e.slot ≤ 495) && decide (1 ≤ e.hops) && decide (e.hops ≤ 63) && decide (e.repeat_ ≤ 6) &&
    decide (e.tickMod < 64 / 2 ^ e.repeat_) && bitsOf n 0 5 == 0 && (planPort p e.port).used &&
    (sendRows e).all (fun r =>
      let f := slotEntOf (tget 0 (planPort p e.port).send (500 * r + e.slot)).toNat
      f.kind == 1 && f.tile == t)

def sendFails (p : Plan) (o : TileOffs) (t : Nat) (x : TileSec) : List Failing :=
  x.sends.zipIdx.flatMap (fun e => failUnless (sendEntOk p t e.1.toNat) (o.sends + 8 * e.2) t)

/-- How many send-list entries of a tile fill a slot (rule 3 of R374). -/
def fillers (p : Plan) (k i tile : Nat) : Nat :=
  match p.tiles[tile]? with
  | none => 0
  | some x => (x.sends.filter (fun n =>
      let e := sendEntOf n.toNat
      e.port == k && e.slot == i % 500 && i / 500 % (64 / 2 ^ e.repeat_) == e.tickMod)).length

/-- One send-table entry that is not zero. -/
def sendTabFails (p : Plan) (base k : Nat) (e : Nat × BitVec 16) : List Failing :=
  let f := slotEntOf e.2.toNat
  failUnless (slotEntOk e.1 e.2.toNat && (f.kind != 1 || fillers p k e.1 f.tile == 1)) (base + 32 + 2 * e.1) noTile

/-- One receive-table entry that is not zero. -/
def recvTabFails (p : Plan) (base k : Nat) (e : Nat × BitVec 64) : List Failing :=
  failUnless (recvEntOk p e.1 e.2.toNat && forwardOk p k e.1 e.2.toNat) (base + 64032 + 8 * e.1) noTile

/-- Consecutive BE entries of a tick row reach 32 (R381, rule 6 of R374). -/
def rowHasWindow (send : Tab (BitVec 16)) (r : Nat) : Bool :=
  ((List.range 500).foldl (fun (acc : Nat × Bool) s =>
    let n := if (slotEntOf (tget 0 send (500 * r + s)).toNat).kind = 3 then acc.1 + 1 else 0
    (n, acc.2 || decide (32 ≤ n))) (0, false)).2

/-- The port header (R368) and rule 6 of R374. -/
def portHeadOk (x : PortTab) : Bool :=
  if x.used then decide (16 ≤ x.hop) && decide (x.hop ≤ 1000) && (List.range 64).any (rowHasWindow x.send)
  else x.hop == 0 && x.send.isEmpty && x.recv.isEmpty

def portFails (p : Plan) (base k : Nat) (x : PortTab) : List Failing :=
  failUnless (portHeadOk x) base noTile ++ x.send.flatMap (sendTabFails p base k) ++ x.recv.flatMap (recvTabFails p base k)

/-- Every delivery of a plan: tile, landing slot of the 32,000, and offset in the image. -/
def deliveries (img : PlanImg) : List (Nat × Nat × Nat) :=
  img.plan.ports.zipIdx.flatMap (fun x => x.1.recv.filterMap (fun e =>
    let r := recvEntOf e.2.toNat
    if r.delivers then some (r.tile, (e.1 + 2) % 32000, img.portsAt.getD x.2 0 + 64032 + 8 * e.1) else none))

/-- Rule 5 of R374: no tile receives two deliveries whose landing slots are less than 2 apart. -/
def landFails : List (Nat × Nat × Nat) → List Failing
  | [] => []
  | a :: l =>
    l.flatMap (fun b =>
      let near := decide ((a.2.1 + 32000 - b.2.1) % 32000 < 2) || decide ((b.2.1 + 32000 - a.2.1) % 32000 < 2)
      failUnless (a.1 != b.1 || !near) (max a.2.2 b.2.2) noTile) ++ landFails l

def slotFails (img : PlanImg) : List Failing :=
  (img.plan.ports.zipIdx.flatMap (fun x => portFails img.plan (img.portsAt.getD x.2 0) x.2 x.1)) ++
    ((img.plan.tiles.zip img.tilesAt).zipIdx.flatMap (fun e => sendFails img.plan e.1.2 e.2 e.1.1)) ++
    landFails (deliveries img)

end Sys2Proof.Machine
end

