-- ==== Sys2Proof/Machine/PlanVerify.lean ====
section
/-! DEFINITION. Plan verification (R265): the digest, the rules of the header, pipelines and phases (R260 to R263, R274, R407), and
every rule of the other sections, with the verdict and the first item that failed. -/

namespace Sys2Proof.Machine

open Sys2Proof

/-- The header against the node (R7, R260). -/
def planHeadFits (s : State) (p : Plan) : Bool :=
  p.clockClass == s.aon.clockClass.toNat && p.nodeId == s.aon.nodeId && p.partition == s.mach.partition

/-- A pipeline descriptor by itself (R261, R262). -/
def pipeOk (p : Plan) (q : Pipe) : Bool :=
  decide (q.kind ≤ 4) && decide (1 ≤ q.length) && [1, 2, 4, 8, 16, 32, 64].contains q.period && decide (q.phase < q.period) &&
    decide (1 ≤ q.perIssue) && decide (q.perIssue ≤ 64) && decide (1 ≤ q.phaseNum) &&
    decide (q.phaseFirst + q.phaseNum ≤ p.phases.length) && decide (q.resSets ≤ 16) &&
    (if q.resSets = 0 then q.resSpan == 0 && q.frameMax == 0
     else decide (1 ≤ q.resSpan) && decide (q.resSpan ≤ 64) && decide (1 ≤ q.frameMax)) &&
    decide (1 ≤ q.maxK) && decide (q.maxK ≤ 4096)

/-- Admission slots of a pipeline: the first and how many (R262). -/
def pipeSlots (q : Pipe) : Nat × Nat := (q.slotBase, (q.length + 1 + q.period - 1) / q.period * q.perIssue)

/-- Slot ranges run to 1,023 at most and do not overlap (R262). -/
def slotsOk (p : Plan) (k : Nat) (q : Pipe) : Bool :=
  let a := pipeSlots q
  decide (a.1 + a.2 ≤ 1024) && p.pipes.zipIdx.all (fun e => decide (k ≤ e.2) || !areasMeet a.1 a.2 (pipeSlots e.1).1 (pipeSlots e.1).2)

/-- Phases of a pipeline in order, each with the next. -/
def phasesRise : List Phase → Bool
  | a :: b :: l => decide (a.start < b.start) && decide (a.start + a.len ≤ b.start) && phasesRise (b :: l)
  | _ => true

/-- A checkpoint phase that ends in tick E and is followed in tick S: at least 8 ticks between, and never the last (R407). -/
def checkpointsOk : List Phase → Bool
  | a :: b :: l => (!a.checkpoint || decide (a.start + a.len - 1 + 8 ≤ b.start)) && checkpointsOk (b :: l)
  | [a] => !a.checkpoint
  | [] => true

/-- The phases of a pipeline (R261, R263). -/
def phasesOf (p : Plan) (q : Pipe) : List Phase := (p.phases.drop q.phaseFirst).take q.phaseNum

/-- A pipeline's phases (R263, R407): rising, apart, within its LENGTH, FINAL on the last alone. -/
def pipePhasesOk (p : Plan) (q : Pipe) : Bool :=
  let l := phasesOf p q
  phasesRise l && checkpointsOk l && l.all (fun h => decide (h.start + h.len ≤ q.length + 1)) &&
    (l.reverse.zipIdx).all (fun e => e.1.final == (e.2 == 0))

/-- A phase descriptor by itself (R263). -/
def phaseOk (p : Plan) (k : Nat) (h : Phase) : Bool :=
  decide (1 ≤ h.len) && h.coldMask &&& ~~~h.podMask == 0 && (h.coldMask == 0 || decide (64 ≤ h.start)) &&
    (!h.final || !(pipesOf p k).isEmpty)

def headFails (s : State) (img : PlanImg) : List Failing :=
  let p := img.plan
  failUnless (planHeadFits s p) 0 noTile ++
    p.pipes.zipIdx.flatMap (fun e => failUnless (pipeOk p e.1 && slotsOk p e.2 e.1 && pipePhasesOk p e.1) (img.pipesAt + 16 * e.2) noTile) ++
    p.phases.zipIdx.flatMap (fun e => failUnless (phaseOk p e.2 e.1) (img.phasesAt + 8 * e.2) noTile)

/-- A tile section with its number and offsets. -/
structure TileItem where
  t : Fin 192
  x : TileSec
  o : TileOffs
  w : Walk

/-- The tile sections of an image, each walked with the wakes `ev`. -/
def walkedItems (img : PlanImg) (cpt : Nat) (ev : List WakeEv) : List TileItem :=
  (img.plan.tiles.zip img.tilesAt).zipIdx.map (fun e =>
    let t : Fin 192 := Fin.ofNat 192 e.2
    ⟨t, e.1.1, e.1.2, walkTile img.plan ev t e.1.1 cpt⟩)

/-- The wakes of a plan: its phase table's, and those of its tiles (R198, R274). -/
def wakesOf (img : PlanImg) (cpt : Nat) (l : List TileItem) : List WakeEv :=
  tableWakes img.plan ++ l.flatMap (fun e => walkWakes cpt e.w)

/-- The tile sections of an image with their walks. A WAKE may itself follow a pause of its tile, so the walks are taken again with
the wakes they ask for, until pauses within pauses are settled (log 131). -/
def tileItems (img : PlanImg) (cpt : Nat) : List TileItem :=
  (List.range 3).foldl (fun l _ => walkedItems img cpt (wakesOf img cpt l)) (walkedItems img cpt (tableWakes img.plan))

/-! ### The text unit (R346) -/

/-- One TXQ of the schedule: its issue cycle, its tile, its descriptor, the deadline tick of its wait object plus one, where it stands in
the image, and whether it is of the second round. -/
structure TxqUse where
  cyc : Nat
  tile : Nat
  desc : Nat
  dl : Nat
  off : Nat
  second : Bool
deriving DecidableEq, Repr

/-- The deadlines that a bundle's ARMs give (R191). -/
def armsOf (o : Occ) (w : Tab Nat) (is : List Instr) : Tab Nat :=
  is.foldl (fun w i =>
    match i with
    | .arm _ _ k d _ => tput 0 w k.val (o.start + d.toNat + 1)
    | _ => w) w

/-- The TXQs of a tile's walk. -/
def txqUses (e : TileItem) : List TxqUse :=
  ((visitsOf e.w).foldl (fun (acc : List TxqUse × Tab Nat) v =>
    (acc.1 ++ v.is.filterMap (fun i =>
      match i with
      | .txq _ _ _ _ _ j w =>
        some ⟨v.now, e.t.val, (e.x.consts.getD j.val 0).toNat, tget 0 acc.2 w.val, e.o.bundles + 32 * v.pc, decide (64 ≤ v.occ.start)⟩
      | _ => none), armsOf v.occ acc.2 v.is)) ([], [])).1

/-- The text unit along the schedule: when it is free, and what failed; times are as `textEnd` counts them. -/
def txqStep (s : State) (cpt : Nat) (acc : Nat × List Failing) (u : TxqUse) : Nat × List Failing :=
  let d := textDescOf u.desc
  let stop := textEnd cpt acc.1 (u.cyc + 4) (textService d (tokHeadOf (imageFor s.txt.slots[d.slot] s.clk.tick).1).vocab)
  (stop, failUnless (!u.second || decide (stop ≤ 1280 * cpt * u.dl)) u.off u.tile ++ acc.2)

/-- Every TXQ ends by the end of its deadline tick (R346), whether its guard holds or not. Where the unit falls behind from one round of
the schedule to the next, later rounds end later still, and every TXQ fails. The vocabulary is that of the image in use (log 133). -/
def txqFails (s : State) (cpt : Nat) (l : List TileItem) : List Failing :=
  let all := sortBy (fun a b => decide (a.cyc < b.cyc) || (a.cyc == b.cyc && decide (a.tile < b.tile))) (l.flatMap txqUses)
  let first := (all.filter (fun u => !u.second)).foldl (txqStep s cpt) (0, [])
  let second := (all.filter (·.second)).foldl (txqStep s cpt) first
  second.2 ++ all.flatMap (fun u => failUnless (decide (second.1 ≤ first.1 + 64 * 1280 * cpt)) u.off u.tile)

/-- Everything that breaks a rule of the plan (R155, R230, R260 to R263, R273, R274, R374, R407). -/
def planFails (s : State) (img : PlanImg) : List Failing :=
  let p := img.plan
  let cpt := cyclesPerTick (BitVec.ofNat 2 p.clockClass)
  let l := tileItems img cpt
  headFails s img ++
    l.flatMap (fun e => tileFails p s.aon.nodeId cpt e.t e.x e.o e.w) ++
    (p.lists.zip img.listsAt).flatMap (fun e => listFails s.stk.present s.stk.beanOut e.2 e.1) ++
    cmdFails p.timingClass (l.flatMap (fun e => walkCmds img e.x e.w)) ++
    podFails img (l.flatMap (fun e => podUses cpt e.t e.o e.w)) ++ txqFails s cpt l ++
    slotFails img

/-- Units that the plan needs and the node lacks (R5, R212, R260, R368). Ports 4 and 5 are absent from a node without Z ports, and from
every node where NZ is 1 (R16, R362). -/
def absentFails (s : State) (img : PlanImg) : List Failing :=
  let p := img.plan
  failUnless ((!bit p.units 0 || s.aon.textUnit) && (!bit p.units 1 || s.fab.ports[(4 : Fin 6)].state != .absent) &&
      (!bit p.units 2 || decide (2 ≤ s.aon.flashGroups.toNat))) 0 noTile ++
    p.ports.zipIdx.flatMap (fun e =>
      failUnless (!e.1.used || s.fab.ports[Fin.ofNat 6 e.2].state != .absent) (img.portsAt.getD e.2 0) noTile) ++
    (if s.aon.textUnit then []
     else (p.tiles.zip img.tilesAt).zipIdx.flatMap (fun e => txqBundles (Fin.ofNat 192 e.2) e.1.1 e.1.2))

/-- The item that stands first in the image. -/
def firstFailing : List Failing → Option Failing
  | [] => none
  | f :: l => match firstFailing l with
    | none => some f
    | some g => if g.1 < f.1 then some g else some f

/-- What verification ends with: the plan, or the status and the first item that failed. -/
inductive Verdict where
  | ok (p : Plan)
  | bad (st : BitVec 8) (f : Failing)
deriving DecidableEq, Repr

/-- The image's bytes before its digest, and the digest (R259, R265). -/
def imageParts (b : List Byte) : List Byte × List Byte := (b.take (b.length - 64), b.drop (b.length - 64))

/-- The digest of an image, as PLAN_DIGEST would hold it. -/
def imageDigest (b : List Byte) : BitVec 512 := BitVec.ofNat 512 (leNat (imageParts b).2)

/-- Verification of an image (R265): SIGNATURE, then PLAN_REJECTED, then UNIT_ABSENT. -/
def verifyImage (s : State) (b : List Byte) : Verdict :=
  let body := (imageParts b).1
  if sha512 body ≠ (imageParts b).2 then .bad stSignature (body.length, noTile)
  else
    match parsePlan body with
    | .error f => .bad stPlanRejected f
    | .ok img =>
      match firstFailing (planFails s img) with
      | some f => .bad stPlanRejected f
      | none =>
        match firstFailing (absentFails s img) with
        | some f => .bad stUnitAbsent f
        | none => .ok img.plan

end Sys2Proof.Machine
end

