-- ==== Sys2Proof/Machine/Plans.lean ====
section
/-! DEFINITION. Loading, verifying and activating plans (R265 to R267, R369): PLAN_LOAD, PLAN_VERIFY_DONE, PLAN_ACTIVATE,
ACTIVATION_DRAIN_START, PLAN_PLACEMENT, PLACEMENT_COMPLETE. -/

namespace Sys2Proof.Machine

open Sys2Proof

/-! ### Loading and verifying (R265) -/

/-- The row of PLAN_LOAD (R265): a multiple of 32 from 96 upward. -/
def planRow : MbxRow := ⟨0x0E, false, 0, 0, fun l => l % 32 == 0 && decide (96 ≤ l)⟩

/-- PLAN_LOAD (R265): verification of the image starts, and a verified plan that waits is discarded. -/
def execPlanLoad (data : HostData) (s : State) : Host.Outcome State Fault Refusal :=
  .next (mbxRun s planRow (fun _ => mbxData data (fun b =>
    mbxNeed (s.plan.nextState != .verifying && s.plan.act.isNone) stQueueFull
      (mbxDone (setNextState { s with plan := { s.plan with loading := b, next := none } } .verifying stDone)))))

/-- What PLAN_FAULT shows of a failure (R268). -/
def noteFailing (s : State) (f : Failing) : State :=
  { s with plan := { s.plan with failOffset := BitVec.ofNat 32 f.1, failTile := BitVec.ofNat 8 f.2 } }

/-- PLAN_VERIFY_DONE (R265): the node keeps the result and the digest, not the image. -/
def execPlanVerifyDone (s : State) : Host.Outcome State Fault Refusal :=
  .next (
    if s.plan.nextState = .verifying then
      let b := s.plan.loading
      let s1 := { s with plan := { s.plan with loading := [] } }
      match verifyImage s b with
      | .ok p =>
        setNextState { s1 with plan := { s1.plan with next := some p, nextDigest := imageDigest b } } .verified stDone
      | .bad st f => setNextState (noteFailing s1 f) .failed st
    else s)

/-! ### Activating (R266, R369) -/

/-- No port that the plan uses measures more than its HOP_SLOTS (R369). -/
def hopsReach (s : State) (p : Plan) : Bool :=
  p.ports.zipIdx.all (fun e => !e.1.used || decide (s.fab.ports[Fin.ofNat 6 e.2].meas.toNat ≤ e.1.hop))

/-- PLAN_ACTIVATE (R266): the slot tables go to the standby buffer at once. Every multiple of 16,384 ticks counts as announced
(log 45). -/
def execPlanActivate (s : State) : Host.Outcome State Fault Refusal :=
  .next (mbxRun s ⟨0x0F, false, 64, 20, (· == 0)⟩ (fun c =>
    mbxNeed s.plan.act.isNone stQueueFull
      (match s.plan.nextState, s.plan.next with
       | .verified, some p =>
         mbxNeed (decide (64 ≤ c.a1) && c.a0 % 16384 == 0 && decide (s.clk.tick + 2 * c.a1 ≤ c.a0) && hopsReach s p) stBadField
           (let pl := { s.plan with act := some ⟨c.a0, c.a1, false, none⟩, standby := p.ports }
            mbxDone (setNextState { s with plan := pl } .activating s.plan.nextStatus))
       | _, _ => .error stBadField)))

/-- DRAIN of the plan that runs (R266): its largest LENGTH plus 1. -/
def drainTicks (s : State) : Nat :=
  match s.plan.active with
  | none => 0
  | some p => p.pipes.foldl (fun n q => max n q.length) 0 + 1

/-- ACTIVATION_DRAIN_START (R266): from tick A - DRAIN the old plan admits nothing. -/
def execActivationDrainStart (s : State) : Host.Outcome State Fault Refusal :=
  .next (
    match s.plan.act with
    | none => s
    | some a => if a.a ≤ s.clk.tick + drainTicks s then { s with plan := { s.plan with draining := true } } else s)

/-! ### Placing (R259, R266) -/

/-- The program region of a tile (R531): its bundles from offset 0, zero above the last. -/
def programBytes (x : TileSec) : List Byte :=
  slice (x.bundles.flatMap (fun b => b.flatMap (fun w => leBytes 8 w.toNat))) 0 x.progLimit

/-- A tile as a plan is placed on it (R185): its program region, and every register cleared. Stores keep their other bytes, and the
words whose error lasts but for those that the program rewrites (R166). -/
def placeTile (y : Tile) (x : TileSec) : Tile :=
  { Tile.reset with store := writeBytes y.store 0 (programBytes x), absmax := y.absmax, scrub := y.scrub,
                    bad := keptBad y.bad 0 (programBytes x).length, spares := y.spares }

/-- A queued request still names a pipeline of its kind, within its MAX_K (R261, R443). -/
def stillFits (p : Plan) (r : Req) : Bool :=
  match p.pipes[r.pipe]? with
  | none => false
  | some q => q.kind + 1 == r.op.toNat && decide (r.k ≤ q.maxK)

/-- Every section in its place (R259): the plan is the active one, V_p is 0 (R452), residency sets are empty, and queued requests
that name no pipeline of theirs end (log 46). -/
def placePlan (s : State) (p : Plan) (a : Activation) : State :=
  let s1 := p.tiles.zipIdx.foldl (fun s e => putTile s e.2 (placeTile (tileOf s e.2) e.1)) s
  let pl := { s1.plan with active := some p, activeDigest := s1.plan.nextDigest, activeId := p.planId, draining := false,
                           start := a.a + a.wload, act := some { a with placed := true } }
  let s2 := { s1 with plan := pl, host := { s1.host with vtime := [], resSets := [], resChanged := [] } }
  (s2.host.queued.filter (fun r => !stillFits p r)).foldl (fun s r => failQueued s r stBadField) s2

/-- PLAN_PLACEMENT (R266, R267): from tick A, what the second read of the image brought, and whether placing ends in time. -/
def execPlanPlacement (data : HostData) (inTime : Bool) (s : State) : Host.Outcome State Fault Refusal :=
  .next (
    match s.plan.act, s.plan.next with
    | some a, some p =>
      if s.clk.tick < a.a ∨ a.placed = true ∨ a.failed.isSome = true then s
      else
        let stop (st : BitVec 8) : State := { s with plan := { s.plan with act := some { a with failed := some st } } }
        match data with
        | none => stop stFenced
        | some b =>
          let parts := imageParts b
          if BitVec.ofNat 512 (leNat (sha512 parts.1)) ≠ s.plan.nextDigest ∨ imageDigest b ≠ s.plan.nextDigest then stop stSignature
          else if inTime = false ∨ a.a + a.wload ≤ s.clk.tick then stop stFenced
          else placePlan s p a
    | _, _ => s)

/-- An activation that failed (R267): no request under any plan, bypasses closed, dropped from the epoch. -/
def failActivation (s : State) (st : BitVec 8) : State :=
  let pl := { s.plan with active := none, act := none, draining := false, next := none }
  dropNode (setNextState { s with plan := pl } .failed st) .activation

/-- PLACEMENT_COMPLETE (R266, R267): from tick A + W_LOAD the new plan admits requests; the first activation makes the node
plan-ready, and Cress forms its segments (R319). -/
def execPlacementComplete (s : State) : Host.Outcome State Fault Refusal :=
  .next (
    match s.plan.act with
    | none => s
    | some a =>
      if s.clk.tick < a.a + a.wload then s
      else if a.placed then
        let pl := { s.plan with act := none, next := none, ready := true }
        let s1 := setNextState { s with plan := pl } .empty stDone
        if s.plan.ready then s1 else formSegments s1
      else failActivation s (a.failed.getD stFenced))

end Sys2Proof.Machine
end

