-- ==== Sys2Proof/Machine/Pools.lean ====
section
/-! DEFINITION. Checkpoints, resumes and standby blocks (R405 to R412). -/

namespace Sys2Proof.Machine

open Sys2Proof

/-! ### The phases that checkpoint (R407) -/

/-- A CHECKPOINT phase of a request: its index in the pipeline, the tick E in which it ends, the tick S in which the next phase
starts. -/
structure Ckpt where
  phase : Nat
  e : Nat
  s : Nat
deriving DecidableEq, Repr

def Ckpt.d1 (c : Ckpt) : Nat := c.e + 1 + (c.s - c.e - 2) / 2
def Ckpt.d2 (c : Ckpt) : Nat := c.s - 1

/-- The CHECKPOINT phases of a request admitted on this node, whose pool is its home (R399). -/
def ckptsOf (s : State) (a : Adm) : List Ckpt :=
  if a.entry.isSome then [] else
  match s.plan.active.bind (fun p => (p.pipes[a.req.pipe]?).map (fun q => (p, q))) with
  | none => []
  | some (p, q) =>
    (List.range (q.phaseNum - 1)).filterMap (fun k =>
      match p.phases[q.phaseFirst + k]?, p.phases[q.phaseFirst + k + 1]? with
      | some h, some n => if h.checkpoint then some ⟨k, a.t + h.start + h.len - 1, a.t + n.start⟩ else none
      | _, _ => none)

/-- The checkpoint between whose E and S the present tick lies. -/
def ckptNow (s : State) (slot : Nat) : Option Ckpt :=
  match admOf s slot with
  | none => none
  | some a => (ckptsOf s a).find? (fun c => decide (c.e < s.clk.tick) && decide (s.clk.tick < c.s))

/-- The admission slot that a request id names (R402). -/
def slotOfReq (id : BitVec 64) : Nat := bitsOf id.toNat 39 10

/-- The context of the request in a slot. -/
def slotCtx (s : State) (slot : Nat) : Option CtxId := (admOf s slot).map (·.req.ctx)

/-! ### Checkpoints at the entry node (R408, R409) -/

/-- The checkpoint of a home block goes to its standby; an illegal LEN sends nothing (R401, R408). -/
def sendCkpt (s : State) (slot : Nat) (c : Ckpt) : State :=
  let l := ledgerOf s slot
  let h := blockHeadOf (memRead s (blockAddr s slot) 32)
  if blockBytes s / 32 - 1 < h.len then bump s .poolBadlen
  else if l.mirrored then
    let d := blockHeadBytes ⟨l.reqId, h.len, c.phase, l.epoch.toNat⟩ ++ memRead s (blockAddr s slot + 32) (32 * h.len)
    putLedger (sendBlock s opCkpt l.standby l.reqId.toNat (ledgerNat l) d) slot { l with ckptSent := true }
  else s

/-- Whether bytes of a home block are uncorrectable in memory as it stands (R83). -/
def blockBad (s : State) (slot n : Nat) : Bool := (deadAt s [(blockAddr s slot, n)]).isSome

/-- The bytes that a checkpoint reads: the header and 32 × LEN after it (R408). -/
def ckptBytes (s : State) (slot : Nat) : Nat := 32 + 32 * (blockHeadOf (memRead s (blockAddr s slot) 32)).len

/-- CHECKPOINT_READ (R408): in tick E + 1; `bad` says that the read and its one retry met uncorrectable data, beside data that memory
holds so. -/
def execCheckpointRead (slot : Fin 1024) (bad : Bool) (s : State) : Host.Outcome State Fault Refusal :=
  .next (
    match ckptNow s slot.val with
    | none => s
    | some c =>
      if s.clk.tick = c.e + 1 ∧ (ledgerOf s slot.val).valid = true ∧ (ledgerOf s slot.val).ckptSent = false then
        if bad || blockBad s slot.val (ckptBytes s slot.val) then loseState (lastingMem s (blockAddr s slot.val) (slotCtx s slot.val)) slot.val else sendCkpt s slot.val c
      else s)

/-- A checkpoint that was not acknowledged in time is counted, once. -/
def ckptLate (s : State) (slot : Nat) : State :=
  let l := ledgerOf s slot
  if l.ckptSent then bump (putLedger s slot { l with ckptSent := false }) .ckptLate else s

/-- CKPT_ACK (R408): by the end of D1 it sets CKPT_PHASE and SBLOCK. -/
def execCkptAck (f : PoolFrame) (capacity : Bool) (s : State) : Host.Outcome State Fault Refusal :=
  .next (
    let k := slotOfReq f.reqId
    let l := ledgerOf s k
    let w := ledgerWordOf f.ledger
    match ckptNow s k with
    | none => s
    | some c =>
      if l.valid && l.reqId == f.reqId && l.ckptSent && f.src == l.standby then
        if c.d1 < s.clk.tick then ckptLate s k
        else if capacity then putLedger s k { l with ckptSent := false }
        else if w.phase.toNat = c.phase then
          changeLedger s k (fun l => { l with phase := w.phase, sblock := w.sblock, ckptSent := false })
        else s
      else s)

/-- A POOL_HOME rehearsal fails every verify read of the home blocks (R424). -/
def rehPoolHome (s : State) : Bool := s.mach.rehActive && s.mach.rehKind == 4

/-- The home block has failed between two phases (R409, R410): a resume starts, if the ledger holds this phase's checkpoint. -/
def homeFailed (s : State) (slot : Fin 1024) (c : Ckpt) : State :=
  let l := ledgerOf s slot.val
  let s1 := lastingMem s (blockAddr s slot.val) (slotCtx s slot.val)
  if l.phase.toNat = c.phase ∧ l.mirrored = true then
    putResume (ownSwap s1 slot ownStandby) ⟨slot, .swapAsked, [], s.clk.tick⟩
  else loseState s1 slot.val

/-- VERIFY_READ (R409): in tick D1 + 1; `bad` says that the read and its one retry failed, beside data that memory holds so. -/
def execVerifyRead (slot : Fin 1024) (bad : Bool) (s : State) : Host.Outcome State Fault Refusal :=
  .next (
    match ckptNow s slot.val with
    | none => s
    | some c =>
      if s.clk.tick = c.d1 + 1 ∧ (ledgerOf s slot.val).valid = true ∧ (resumeOf s slot.val).isNone = true then
        let s1 := ckptLate s slot.val
        if bad || rehPoolHome s || blockBad s slot.val (blockBytes s) then homeFailed s1 slot c else s1
      else s)

/-! ### Standby blocks (R408, R411, R412) -/

def setStandbys (s : State) (l : List Standby) : State := { s with pool := { s.pool with standbys := l } }

/-- The lowest free standby block (R399, R408): among one more than are in use. -/
def freeStandby (s : State) : Option Nat :=
  ((List.range (min (poolBlocks s - 1024) (s.pool.standbys.length + 1))).map (· + 1024)).find? (fun n => !s.pool.standbys.any (fun b => b.block == n))

/-- What a copy of a request becomes under a ledger word (R411): a word older than the last one is ignored. A copy that the
word names is kept; a superseded one goes once the word names another block here; one of another standby's request stays
RETAINED until EPOCH has grown by two. -/
def underWord (s : State) (w : BitVec 64) (b : Standby) : Option Standby :=
  let l := ledgerWordOf w
  if l.epoch < (ledgerWordOf b.word).epoch then some { b with last := s.clk.tick }
  else
    let b1 := { b with word := w, last := s.clk.tick }
    if l.standby = s.aon.nodeId then
      if b.retained ∧ l.sblock.toNat ≠ b.block ∧ s.pool.standbys.any (fun x => x.reqId == b.reqId && x.block == l.sblock.toNat) = true
      then none
      else some b1
    else if b.epoch.toNat + 2 ≤ l.epoch.toNat then none
    else some { b1 with retained := true }

/-- A pool engine receives a ledger word (R411). -/
def takeWord (s : State) (id : BitVec 64) (w : BitVec 64) : State :=
  setStandbys s (s.pool.standbys.filterMap (fun b => if b.reqId == id then underWord s w b else some b))

/-- NOTICE (R405, R411). -/
def execNotice (f : PoolFrame) (s : State) : Host.Outcome State Fault Refusal := .next (takeWord s f.reqId f.ledger)

/-- The block in which a checkpoint is being written. -/
def openCopy (s : State) (f : PoolFrame) (phase : BitVec 8) : Option Standby :=
  s.pool.standbys.find? (fun b => b.reqId == f.reqId && b.phase == phase && !b.retained)

/-- The acknowledgement of a checkpoint: block and phase in the ledger word's fields (log 18). -/
def sendCkptAck (s : State) (f : PoolFrame) (block : Nat) (phase : BitVec 8) (st : BitVec 8) : State :=
  let w : Ledger := { ledgerWordOf f.ledger with sblock := BitVec.ofNat 25 block, phase := phase }
  sendPool s opCkptAck f.src f.reqId.toNat (ledgerNat w) 0 [st]

/-- The bytes that a checkpoint's frames must bring: header and state. -/
def copyNeeds (s : State) (b : Standby) : Nat :=
  32 + 32 * (blockHeadOf (remoteView s (blockAddr s b.block) 32)).len

/-- A frame's bytes are written into a copy's block, the header with them (R408); the last one is acknowledged. `bad`: the
write met uncorrectable bytes that it had to keep (R120), and is abandoned. -/
def writeCopy (s : State) (f : PoolFrame) (bad : Bool) (b : Standby) : State :=
  if bad then lastingMem s (blockAddr s b.block + f.offset.toNat) none
  else if f.offset.toNat + f.data.length ≤ blockBytes s then
    let s1 := remoteWrite s (blockAddr s b.block + f.offset.toNat) f.data
    let got := b.got.filter (fun x => x.1 != f.offset.toNat) ++ [(f.offset.toNat, f.data.length)]
    let b1 : Standby := { b with got := got, last := s.clk.tick }
    let s2 := setStandbys s1 (s1.pool.standbys.map (fun x => if x.block == b.block then b1 else x))
    if got.any (fun x => x.1 == 0) && decide (copyNeeds s2 b1 ≤ (got.map (·.2)).foldl (· + ·) 0) then
      sendCkptAck s2 f b.block b.phase stDone
    else s2
  else s

/-- The phase that a checkpoint's frames carry: in the header at offset 0, else that of the copy being written. -/
def ckptPhase (s : State) (f : PoolFrame) : Option (BitVec 8 × BitVec 13) :=
  if f.offset = 0 then
    let h := blockHeadOf (slice f.data 0 32)
    some (BitVec.ofNat 8 h.phase, BitVec.ofNat 13 h.epoch)
  else (s.pool.standbys.find? (fun b => b.reqId == f.reqId && !b.retained)).map (fun b => (b.phase, b.epoch))

/-- CKPT (R408): the standby writes the bytes into the request's block, a new one for a new phase, and keeps the one it
supersedes as RETAINED. -/
def execCkpt (f : PoolFrame) (bad : Bool) (s : State) : Host.Outcome State Fault Refusal :=
  .next (
    match ckptPhase s f with
    | none => s
    | some (ph, ep) =>
      match openCopy s f ph with
      | some b => writeCopy s f bad b
      | none =>
        match freeStandby s with
        | none => bump (sendCkptAck s f 0 ph stCapacity) .poolNostandby
        | some n =>
          let b : Standby := ⟨n, f.reqId, f.src, ph, ep, false, s.clk.tick, f.ledger, []⟩
          let old := s.pool.standbys.map (fun x => if x.reqId == f.reqId then { x with retained := true } else x)
          writeCopy (setStandbys s (old ++ [b])) f bad b)

/-- END (R412): the standby frees the request's blocks. -/
def execPoolEnd (f : PoolFrame) (s : State) : Host.Outcome State Fault Refusal :=
  .next (setStandbys s (s.pool.standbys.filter (fun b => b.reqId != f.reqId)))

/-- POOL_STANDBY_TIMEOUT (R412): 131,072 ticks after the last pool frame of the request. -/
def execPoolStandbyTimeout (reqId : BitVec 64) (s : State) : Host.Outcome State Fault Refusal :=
  .next (
    let mine (b : Standby) : Bool := b.reqId == reqId
    if (s.pool.standbys.filter mine).all (fun b => decide (b.last + 131072 ≤ s.clk.tick)) then
      setStandbys s (s.pool.standbys.filter (fun b => !mine b))
    else s)

/-! ### Resuming (R410, R411) -/

/-- The copy from which a standby answers an ADOPT: HELD or RETAINED, of the phase the word names (R410 step 3, R411). -/
def adoptCopy (s : State) (id : BitVec 64) (l : Ledger) : Option Standby :=
  s.pool.standbys.find? (fun b => b.reqId == id && b.phase == l.phase)

/-- The standby answers an ADOPT. -/
def answerAdopt (s : State) (f : PoolFrame) : State :=
  let l := ledgerWordOf f.ledger
  let s1 := takeWord s f.reqId f.ledger
  match adoptCopy s f.reqId l with
  | none => sendPool s1 opAdoptFail f.src f.reqId.toNat f.ledger.toNat 0 []
  | some b => sendBlock s1 opRestore f.src f.reqId.toNat f.ledger.toNat (memRead s (blockAddr s b.block) (copyNeeds s b))

/-- ADOPT (R410): with a frame, the standby receives it; without, the entry node sends it again in a later window. -/
def execAdopt (f : Option PoolFrame) (slot : Fin 1024) (s : State) : Host.Outcome State Fault Refusal :=
  .next (
    match f with
    | some x => answerAdopt s x
    | none =>
      match resumeOf s slot.val, ckptNow s slot.val with
      | some r, some c =>
        if r.step = .adopting ∧ r.got = [] ∧ s.clk.tick ≤ c.d2 then sendAdopt s slot.val else s
      | _, _ => s)

/-- The bytes that a restore must bring, once its first frame has. -/
def restoreNeeds (got : List (Nat × List Byte)) : Option Nat :=
  (got.find? (fun x => x.1 == 0)).map (fun x => 32 + 32 * (blockHeadOf (slice x.2 0 32)).len)

/-- Whether every byte has landed. -/
def restoreDone (got : List (Nat × List Byte)) : Bool :=
  match restoreNeeds got with
  | none => false
  | some n => decide (n ≤ (got.map (fun x => x.2.length)).foldl (· + ·) 0)

/-- RESTORE (R410 step 3): bytes land at the entry node. -/
def execRestore (f : PoolFrame) (s : State) : Host.Outcome State Fault Refusal :=
  .next (
    let k := slotOfReq f.reqId
    let l := ledgerOf s k
    match resumeOf s k, ckptNow s k with
    | some r, some c =>
      if r.step = .adopting ∧ l.valid = true ∧ l.reqId = f.reqId ∧ f.src = l.standby ∧ s.clk.tick ≤ c.d2 then
        let got := r.got.filter (fun x => x.1 != f.offset.toNat) ++ [(f.offset.toNat, f.data)]
        putResume s { r with got := got, tick := s.clk.tick, step := if restoreDone got then .restored else .adopting }
      else s
    | _, _ => s)

/-- The whole home block as the engine writes it (R410 step 4): a fresh header, the restored state, and bytes that R410 does
not state (free values). -/
def restoredBlock (s : State) (slot : Nat) (got : List (Nat × List Byte)) : List Byte :=
  let d := got.foldl (fun b x => splice b x.1 x.2) []
  let h := blockHeadOf (slice d 0 32)
  let l := ledgerOf s slot
  let used := 32 + 32 * h.len
  blockHeadBytes ⟨l.reqId, h.len, 0, l.epoch.toNat⟩ ++ slice d 32 (32 * h.len)
  ++ (List.range (blockBytes s - used)).map (fun i => Config.freeByte (s.free + i))

/-- The block is written whole, with fresh codes (R410 step 4). -/
def rewriteBlock (s : State) (slot : Nat) (r : Resume) : State :=
  let s1 := memWrite s (blockAddr s slot) (restoredBlock s slot r.got)
  putResume { s1 with free := s1.free + blockBytes s } { r with step := .rewritten, tick := s.clk.tick }

/-- The verify read of the block written (R410 step 5): when it passes the ledger goes back to HOME, else the state is lost. -/
def verifyBlock (s : State) (slot : Fin 1024) (r : Resume) (passes : Bool) : State :=
  if passes && !rehPoolHome s && !blockBad s slot.val (blockBytes s) then putResume (ownSwap s slot ownHome) { r with step := .swapBack }
  else loseState (dropResume (lastingMem s (blockAddr s slot.val) (slotCtx s slot.val)) slot.val) slot.val

/-- HOME_BLOCK_REWRITE (R410 steps 4 and 5): in a tick after the last byte landed the block is written, and in the next one it is
verify-read, in time for the swap to take effect by the end of D2. -/
def execHomeBlockRewrite (slot : Fin 1024) (passes : Bool) (s : State) : Host.Outcome State Fault Refusal :=
  .next (
    match resumeOf s slot.val, ckptNow s slot.val with
    | some r, some c =>
      if r.step = .restored ∧ r.tick < s.clk.tick ∧ s.clk.tick < c.d2 then rewriteBlock s slot.val r
      else if r.step = .rewritten ∧ r.tick < s.clk.tick ∧ s.clk.tick < c.d2 then verifyBlock s slot r passes
      else s
    | _, _ => s)

/-- ADOPT_FAIL (R411): the standby holds no copy; the request ends with STATE_LOST. -/
def execAdoptFail (f : PoolFrame) (s : State) : Host.Outcome State Fault Refusal :=
  .next (
    let k := slotOfReq f.reqId
    let l := ledgerOf s k
    match resumeOf s k with
    | some r =>
      if r.step = .adopting ∧ l.valid = true ∧ l.reqId = f.reqId ∧ f.src = l.standby then loseState (dropResume s k) k else s
    | none => s)

/-! ### Swaps by frame (R405) -/

/-- CAS (R405): a standby's swap waits for the boundary. -/
def execCas (f : CasBody) (s : State) : Host.Outcome State Fault Refusal :=
  .next (queueSwap s ⟨false, f, Fin.ofNat 1024 (slotOfReq f.reqId)⟩)

/-- CAS_REPLY (R405): the status of the oldest swap of a slot, and the ledger word as it stood after that swap. -/
def execCasReply (slot : Fin 1024) (s : State) : Host.Outcome State Fault Refusal :=
  .next (
    match s.pool.swapReplies.find? (fun r => r.1.slot == slot) with
    | none => s
    | some r =>
      let s1 : State := { s with pool := { s.pool with swapReplies := s.pool.swapReplies.erase r } }
      sendPool s1 opCasReply r.1.body.src r.1.body.reqId.toNat (ledgerNat r.2.2) 0 [r.2.1])

end Sys2Proof.Machine
end

