-- ==== Sys2Proof/Machine/Smbus.lean ====
section
/-! DEFINITION. The sideband port (R481, R482): one meaning per command. A reply is ready as its command ends. -/

namespace Sys2Proof.Machine

open Sys2Proof

/-- NODE_CAP (R434). -/
def nodeCapReg (s : State) : Nat :=
  packFields [(16, 384), (8, 24), (8, 8), (10, 512), (2, s.aon.flashGroups.toNat), (1, b2n s.aon.zPorts),
    (1, b2n s.aon.textUnit), (2, s.aon.clockClass.toNat), (8, s.aon.variant.toNat), (8, 1)]

/-- RESET_CAUSE (R480). -/
def causeCode (c : Cause) : Nat :=
  match c with
  | .powerOn => 0
  | .pfFlr => 1
  | .watchdog => 2
  | .thermal => 3
  | .smbus => 4
  | .firmware => 5

/-- A transaction on the port (R481): it works while the AON domain has power, and one whose PEC fails is discarded. -/
def smbDoes (s : State) (pecOk : Bool) (f : State → State) : State :=
  if s.aon.powered then (if pecOk then f s else bump s .smbusPec) else s

/-- The reply to a command (R482): opcode, ready, status, data. -/
def smbAnswer (s : State) (op : Nat) (status : BitVec 8) (data : List Byte) : State :=
  { s with aon := { s.aon with smbReply := [BitVec.ofNat 8 op, 1, status] ++ data } }

/-- GET_ID (R482). -/
def execGetId (pecOk : Bool) (s : State) : Host.Outcome State Fault Refusal :=
  .next (smbDoes s pecOk (fun s =>
    smbAnswer s 1 stDone (leBytes 8 (nodeCapReg s) ++ leBytes 8 s.aon.nodeId.toNat ++ leBytes 4 s.aon.fwVersion.toNat)))

/-- GET_TEMPS (R482). -/
def execGetTemps (pecOk : Bool) (s : State) : Host.Outcome State Fault Refusal :=
  .next (smbDoes s pecOk (fun s => smbAnswer s 2 stDone (leBytes 8 (tempStatusReg s) ++ leBytes 4 (memClassReg s))))

/-- GET_POWER (R482). -/
def execGetPower (pecOk : Bool) (s : State) : Host.Outcome State Fault Refusal :=
  .next (smbDoes s pecOk (fun s => smbAnswer s 3 stDone (leBytes 8 (pwrStatusReg s))))

/-- A board cap that SET_CAP takes (R482): 0 removes it; 1 to 199, or above the variant's limit, is no cap. -/
def boardCapOk (s : State) (w : Nat) : Bool := w == 0 || (decide (200 ≤ w) && decide (w ≤ s.aon.powerLimit.toNat))

/-- SET_CAP (R469, R482). -/
def execSetCap (pecOk : Bool) (data : List Byte) (s : State) : Host.Outcome State Fault Refusal :=
  .next (smbDoes s pecOk (fun s =>
    let w := leNat data
    if data.length = 2 ∧ boardCapOk s w = true then
      smbAnswer { s with pow := { s.pow with boardCap := if w = 0 then none else some (BitVec.ofNat 16 w) } } 4 stDone []
    else smbAnswer s 4 stBadField []))

/-- The state byte of GET_STATE (R482): 0 AON only, 1 booting, 2 plan-ready. -/
def smbStateByte (s : State) : Nat := if !nodeRuns s then 0 else if s.plan.ready then 2 else 1

/-- GET_STATE (R482). -/
def execGetState (pecOk : Bool) (s : State) : Host.Outcome State Fault Refusal :=
  .next (smbDoes s pecOk (fun s =>
    smbAnswer s 5 stDone (leBytes 1 (smbStateByte s) ++ leBytes 1 (causeCode s.aon.cause) ++ leBytes 8 (epochStatusReg s))))

/-- NODE_RESET (R482): the byte 0x5A alone resets the node, after the reply is ready. -/
def execNodeReset (pecOk : Bool) (data : List Byte) (s : State) : Host.Outcome State Fault Refusal :=
  .next (smbDoes s pecOk (fun s =>
    if data = [0x5A] then
      let s1 := smbAnswer s 6 stDone []
      if nodeRuns s1 then resetNode s1 .smbus else s1
    else smbAnswer s 6 stBadField []))

/-- SMBUS_REPLY_READ (R482): a Block Read of command code 0x00. -/
def execSmbusReplyRead (pecOk : Bool) (s : State) : Host.Outcome State Fault Refusal :=
  .next (smbDoes s pecOk (fun s => { s with io := { s.io with smb := s.aon.smbReply } }))

end Sys2Proof.Machine
end

