-- ==== Sys2Proof/Machine/Startup.lean ====
section
/-! DEFINITION. The start-up and trust commands of the mailbox (R504 to R509): ATTEST, CERT_READ, FW_STAGE, FW_SELECT, TRAIN_SAVE,
TRAIN_CLEAR, EVT_SW_CONFIG, MACHINE_JOIN and its steps, MEMBER_ADD, MACHINE_LEAVE. -/

namespace Sys2Proof.Machine

open Sys2Proof

/-- Bytes that a command writes at its ADDR in host memory. -/
def mbxWrite (s : State) (c : MbxCmd) (d : List Byte) : State := { s with io := { s.io with hostWrites := s.io.hostWrites ++ [(c.addr, d)] } }

/-! ### ATTEST and CERT_READ (R493, R504) -/

/-- The digest of a tokeniser slot's active image: zero when empty. -/
def tokDigest (s : State) (k : Fin 2) : Nat :=
  let x := s.txt.slots[k]
  if x.activeState = .empty then 0 else x.digest.toNat

/-- Bytes 0 to 479 of the report (R504). -/
def attestMessage (s : State) (nonce : List Byte) : List Byte :=
  [0xA1] ++ leBytes 1 (b2n s.aon.fwSlot) ++ leBytes 1 s.aon.variant.toNat ++ [0] ++ leBytes 4 s.aon.fwVersion.toNat
  ++ leBytes 8 s.clk.tick ++ leBytes 16 s.aon.deviceId.toNat ++ nonce ++ leBytes 32 s.aon.pubKey.toNat
  ++ leBytes 64 Config.romDigest.toNat ++ sha512 (s.aon.measRecs.flatMap (fun m => leBytes 64 m.toNat))
  ++ leBytes 64 s.aon.measFw.toNat
  ++ leBytes 64 (if s.plan.active.isSome then s.plan.activeDigest.toNat else 0)
  ++ leBytes 64 (tokDigest s 0) ++ leBytes 64 (tokDigest s 1)

/-- ATTEST (R504): the nonce comes from the buffer, the signed report fills it. -/
def execAttest (data : HostData) (s : State) : Host.Outcome State Fault Refusal :=
  .next (mbxRun s ⟨0x20, false, 0, 0, (· == 544)⟩ (fun c =>
    mbxData data (fun b =>
      let m := attestMessage s (slice b 32 32)
      match engineSign s m with
      | none => .error stMediaError
      | some sig => mbxDone (mbxWrite s c (m ++ sig)))))

/-- CERT_READ (R507). -/
def execCertRead (s : State) : Host.Outcome State Fault Refusal :=
  .next (mbxRun s ⟨0x21, false, 0, 0, (· == 4096)⟩ (fun c =>
    .ok ⟨mbxWrite s c (s.aon.cert.take 4096), stDone, [BitVec.ofNat 64 s.aon.cert.length]⟩))

/-! ### Firmware (R496, R506) -/

/-- The record of the slot that is not running goes while a new one is written (R506). -/
def dropOtherSlot (s : State) : State :=
  let hit (r : BootRec) : Bool := r.type.toNat == 6 && r.slot.toNat == b2n (!s.aon.fwSlot)
  { s with aon := { s.aon with flash := s.aon.flash.filter (fun r => !hit r) } }

/-- FW_STAGE (R506). -/
def execFwStage (data : HostData) (s : State) : Host.Outcome State Fault Refusal :=
  .next (mbxRun s ⟨0x22, false, 0, 0, fun l => decide (128 < l) && decide (l ≤ 16777344)⟩ (fun c =>
    mbxData data (fun b =>
      mbxNeed (b.length == c.len && 128 + (bootHeadOf b).length == c.len && recAccepted s.aon.deviceId 6 b) stSignature
        (mbxNeed (s.aon.fwStageState != .writing) stQueueFull
          (let s1 := dropOtherSlot s
           mbxDone { s1 with aon := { s1.aon with fwStageState := .writing, fwStaged := b } })))))

/-- FW_STAGE_WRITE_DONE (R506). -/
def execFwStageWriteDone (ok : Bool) (s : State) : Host.Outcome State Fault Refusal :=
  .next (
    if nodeRuns s && s.aon.fwStageState == .writing then
      let s1 : State := { s with aon := { s.aon with fwStageState := if ok then .written else .failed, fwStaged := [] } }
      if ok then putRec s1 ⟨6, BitVec.ofNat 8 (b2n (!s.aon.fwSlot)), s.aon.fwStaged⟩ else s1
    else s)

/-- The row of FW_SELECT. -/
def fwSelectRow : MbxRow := ⟨0x23, false, 2, 0, (· == 0)⟩

def fwSelectBody (s : State) (c : MbxCmd) : MbxRes := mbxDone { s with aon := { s.aon with fwFirst := bitOf c.a0 0 } }

/-- FW_SELECT (R496, R507): with bit 1 the node resets after the reply. -/
def execFwSelect (s : State) : Host.Outcome State Fault Refusal :=
  .next (
    let s1 := mbxRun s fwSelectRow (fwSelectBody s)
    let taken := s.host.mbx.busy && (mbxCmd s).op == fwSelectRow.op
      && (match mbxCheck s fwSelectRow (fwSelectBody s) with | .ok _ => true | .error _ => false)
    if taken && bitOf (mbxCmd s).a0 1 then resetNode s1 .firmware else s1)

/-! ### Training records and events (R476, R500) -/

/-- TRAIN_SAVE (R500, R507). -/
def execTrainSave (s : State) : Host.Outcome State Fault Refusal :=
  .next (mbxRun s ⟨0x24, false, 0, 0, (· == 0)⟩ (fun _ =>
    mbxNeed (!s.aon.trainWriting) stQueueFull (mbxDone { s with aon := { s.aon with trainWriting := true } })))

/-- TRAIN_CLEAR (R507). -/
def execTrainClear (s : State) : Host.Outcome State Fault Refusal :=
  .next (mbxRun s ⟨0x25, false, 0, 0, (· == 0)⟩ (fun _ => mbxDone (dropRecs s 7)))

/-- EVT_SW_CONFIG (R476, R507): sources 448 to 511. -/
def execEvtSwConfig (data : HostData) (s : State) : Host.Outcome State Fault Refusal :=
  .next (mbxRun s ⟨0x26, false, 0, 0, (· == 64)⟩ (fun _ =>
    mbxData data (fun b =>
      mbxNeed ((b.take 64).all (fun x => bitsOf x.toNat 4 2 == 0)) stBadField
        (let src := (List.range 64).foldl (fun t i => tput Events.srcReset t (448 + i) (b.getD i 0)) s.evt.src
         mbxDone { s with evt := { s.evt with src := src } }))))

/-! ### Joining a machine (R507 to R509) -/

/-- The pairs that ARG1 names. -/
def namedPairs (pairs : BitVec 3) : List (Fin 3) := allPairs.filter (fun p => bit pairs p.val)

/-- What an accepted MACHINE_JOIN does (R509 step 1): the node takes the machine's tick, partition and reference, and is its own
steward no more. -/
def startJoin (s : State) (m : Marker) (j : Nat) (pairs : BitVec 3) : State :=
  let jn : Join := ⟨j, m.partition, pairs, false⟩
  let mach := { s.mach with partition := m.partition, role := .none_, join := some jn, nextEpoch := 0, members := [], nextMembers := [] }
  setSteward { s with clk := { s.clk with tick := m.tick.toNat }, aon := { s.aon with joinState := .waiting }, mach := mach } m.ref

/-- Whether the node has the Z ports that a partition of its machine needs (R6): without them it joins only where the Z extent is 1
(log 145). -/
def zFits (s : State) : Bool := s.aon.zPorts || Config.nz == 1

/-- MACHINE_JOIN (R6, R509): the refusals in the order of the table; a node without Z ports meets UNIT_ABSENT where the Z extent is
more than 1. -/
def execMachineJoin (tapped : Option Marker) (s : State) : Host.Outcome State Fault Refusal :=
  .next (mbxRun s ⟨0x27, false, 64, 9, (· == 0)⟩ (fun c =>
    let part : BitVec 6 := BitVec.ofNat 6 c.a1
    let pairs : BitVec 3 := BitVec.ofNat 3 (c.a1 / 64)
    let ahead := match tapped with | some m => decide (m.tick.toNat + 8192 ≤ c.a0) | none => true
    mbxNeed s.mach.join.isNone stQueueFull
      (mbxNeed (onGrid c.a0 && ahead) stBadField
        (mbxNeed (!(namedPairs pairs).any (pairAbsent s) && zFits s) stUnitAbsent
          (match (if pairs = 0 then none else tapped) with
           | none => .error stTimeout
           | some m => mbxNeed (m.partition == part && !s.plan.ready) stFenced (mbxDone (startJoin s m c.a0 pairs)))))))

/-- JOIN_FENCE_OPEN (R509 step 2): at J - 4,096. -/
def execJoinFenceOpen (s : State) : Host.Outcome State Fault Refusal :=
  .next (
    match s.mach.join with
    | none => s
    | some j =>
      if s.aon.joinState = .waiting ∧ j.j ≤ s.clk.tick + 4096 then
        (namedPairs j.pairs).foldl unfencePair { s with aon := { s.aon with joinState := .opening } }
      else s)

/-- The conditions of R509 step 4. -/
def joinHolds (s : State) (j : Join) : Bool :=
  s.aon.joinState == .opening && (namedPairs j.pairs).all (fun p => s.fab.byp[p] == .open_ && !bit s.fab.fence p.val)
  && s.clk.locked && s.mach.partition == j.partition

/-- The join succeeds: the node is a member from J, which is a boundary announced to it. -/
def joinDone (s : State) (j : Join) : State :=
  let me := s.aon.nodeId
  let l := if s.mach.nextMembers.contains me then s.mach.nextMembers else uniq [s.mach.steward, me]
  { s with aon := { s.aon with joinState := .member },
           mach := { s.mach with join := none, role := .member, dropped := none, nextEpoch := j.j, nextMembers := l, silent := 0 } }

/-- A join that fails leaves no activation (R509). -/
def joinFailed (s : State) : State :=
  let p := { s.plan with act := none, draining := false, standby := [] }
  fenceAll (setNextState { s with aon := { s.aon with joinState := .failed }, mach := { s.mach with join := none }, plan := p }
    .failed stFenced)

/-- JOIN_MEMBERSHIP_CHECK (R509 step 4): at the end of tick J - 1. -/
def execJoinMembershipCheck (s : State) : Host.Outcome State Fault Refusal :=
  .next (
    match s.mach.join with
    | none => s
    | some j => if j.j ≤ s.clk.tick + 1 then (if joinHolds s j then joinDone s j else joinFailed s) else s)

/-- MEMBER_ADD (R508): on the steward. -/
def execMemberAdd (s : State) : Host.Outcome State Fault Refusal :=
  .next (mbxRun s ⟨0x28, false, 64, 15, (· == 0)⟩ (fun c =>
    let n : NodeId := BitVec.ofNat 15 c.a1
    mbxNeed (s.mach.role == .steward) stNoRights
      (mbxNeed (onGrid c.a0 && decide (s.clk.tick + 4096 ≤ c.a0)) stBadField
        (let m := { s.mach with adds := s.mach.adds ++ [(c.a0, n)] }
         mbxDone { s with mach := { m with
           nextMembers := if s.mach.nextEpoch = c.a0 then uniq (m.nextMembers ++ [n]) else m.nextMembers } }))))

/-- MACHINE_LEAVE (R507). -/
def execMachineLeave (s : State) : Host.Outcome State Fault Refusal :=
  .next (mbxRun s ⟨0x29, false, 0, 0, (· == 0)⟩ (fun _ => mbxDone { s with mach := { s.mach with leaveAsked := true } }))

end Sys2Proof.Machine
end

