-- ==== Sys2Proof/Machine/Dispatch.lean ====
section
/-! DEFINITION. The meaning of every command: one arm per constructor, in the order of spec/opcode_table.json. -/

namespace Sys2Proof.Machine

open Sys2Proof

def exec (i : Instr) (s : State) : Host.Outcome State Fault Refusal :=
  match i with
  | .powerOn smbAddr => Sys2Proof.Machine.execPowerOn smbAddr s
  | .nodeResetNFall => Sys2Proof.Machine.execNodeResetNFall s
  | .perstNFall => Sys2Proof.Machine.execPerstNFall s
  | .resetRelease straps => Sys2Proof.Machine.execResetRelease straps s
  | .bfOwnHandover flash => Sys2Proof.Machine.execBfOwnHandover flash s
  | .bfOwnRelease straps => Sys2Proof.Machine.execBfOwnRelease straps s
  | .romStage puf1 puf2 => Sys2Proof.Machine.execRomStage puf1 puf2 s
  | .firmwareStage rails => Sys2Proof.Machine.execFirmwareStage rails s
  | .trainingStage report => Sys2Proof.Machine.execTrainingStage report s
  | .trainRecordWrite => Sys2Proof.Machine.execTrainRecordWrite s
  | .zeroingStage => Sys2Proof.Machine.execZeroingStage s
  | .readyStage => Sys2Proof.Machine.execReadyStage s
  | .watchdogExpiry withTrip => Sys2Proof.Machine.execWatchdogExpiry withTrip s
  | .watchdogRestart => Sys2Proof.Machine.execWatchdogRestart s
  | .thermalTrip => Sys2Proof.Machine.execThermalTrip s
  | .thermalHoldEnd => Sys2Proof.Machine.execThermalHoldEnd s
  | .tickBoundary => Sys2Proof.Machine.execTickBoundary s
  | .tickMarkerReceive port m offset => Sys2Proof.Machine.execTickMarkerReceive port m offset s
  | .descriptorConsume => Sys2Proof.Machine.execDescriptorConsume s
  | .admissionOpportunity pipe bad => Sys2Proof.Machine.execAdmissionOpportunity pipe bad s
  | .frameBoundary => Sys2Proof.Machine.execFrameBoundary s
  | .phaseStart pipe phase queries audit lists => Sys2Proof.Machine.execPhaseStart pipe phase queries audit lists s
  | .phaseBoundaryEnd slot => Sys2Proof.Machine.execPhaseBoundaryEnd slot s
  | .sproutWakeRequest pipe phase cold => Sys2Proof.Machine.execSproutWakeRequest pipe phase cold s
  | .podWarmWake pod => Sys2Proof.Machine.execPodWarmWake pod s
  | .podColdWake pod => Sys2Proof.Machine.execPodColdWake pod s
  | .nop t g => Sys2Proof.Machine.execNop t g s
  | .seti t g d imm => Sys2Proof.Machine.execSeti t g d imm s
  | .seth t g d imm => Sys2Proof.Machine.execSeth t g d imm s
  | .add t g d a b => Sys2Proof.Machine.execAdd t g d a b s
  | .addi t g d a x => Sys2Proof.Machine.execAddi t g d a x s
  | .sub t g d a b => Sys2Proof.Machine.execSub t g d a b s
  | .mul t g d a b => Sys2Proof.Machine.execMul t g d a b s
  | .and t g d a b => Sys2Proof.Machine.execAnd t g d a b s
  | .or t g d a b => Sys2Proof.Machine.execOr t g d a b s
  | .xor t g d a b => Sys2Proof.Machine.execXor t g d a b s
  | .shl t g d a b => Sys2Proof.Machine.execShl t g d a b s
  | .shr t g d a b => Sys2Proof.Machine.execShr t g d a b s
  | .sar t g d a b => Sys2Proof.Machine.execSar t g d a b s
  | .shi t g d a k amt => Sys2Proof.Machine.execShi t g d a k amt s
  | .mins t g d a b => Sys2Proof.Machine.execMins t g d a b s
  | .maxs t g d a b => Sys2Proof.Machine.execMaxs t g d a b s
  | .minu t g d a b => Sys2Proof.Machine.execMinu t g d a b s
  | .maxu t g d a b => Sys2Proof.Machine.execMaxu t g d a b s
  | .cmp t g pd a b c => Sys2Proof.Machine.execCmp t g pd a b c s
  | .cmpi t g pd a c imm => Sys2Proof.Machine.execCmpi t g pd a c imm s
  | .sel t g d a b c => Sys2Proof.Machine.execSel t g d a b c s
  | .plog t g pd a b op => Sys2Proof.Machine.execPlog t g pd a b op s
  | .pfroms t g pd a => Sys2Proof.Machine.execPfroms t g pd a s
  | .stop t g d a => Sys2Proof.Machine.execStop t g d a s
  | .rdsp t g d x => Sys2Proof.Machine.execRdsp t g d x s
  | .loop t g d a pd level body maxTrip => Sys2Proof.Machine.execLoop t g d a pd level body maxTrip s
  | .br t g target => Sys2Proof.Machine.execBr t g target s
  | .bind t g pd a => Sys2Proof.Machine.execBind t g pd a s
  | .arm t g w dl exp => Sys2Proof.Machine.execArm t g w dl exp s
  | .await t g d pd w => Sys2Proof.Machine.execAwait t g d pd w s
  | .wstat t g d w st => Sys2Proof.Machine.execWstat t g d w st s
  | .wake t g pods cold => Sys2Proof.Machine.execWake t g pods cold s
  | .gate t g pods pllOff => Sys2Proof.Machine.execGate t g pods pllOff s
  | .cplt t g pd a b c => Sys2Proof.Machine.execCplt t g pd a b c s
  | .pend t g => Sys2Proof.Machine.execPend t g s
  | .lds t g d a pd x => Sys2Proof.Machine.execLds t g d a pd x s
  | .sts t g a b pd x => Sys2Proof.Machine.execSts t g a b pd x s
  | .ldv t g d a pd x => Sys2Proof.Machine.execLdv t g d a pd x s
  | .stv t g a b pd x => Sys2Proof.Machine.execStv t g a b pd x s
  | .xload t g a b lenM1 w => Sys2Proof.Machine.execXload t g a b lenM1 w s
  | .xstore t g a b lenM1 w => Sys2Proof.Machine.execXstore t g a b lenM1 w s
  | .gather t g a b c ix w => Sys2Proof.Machine.execGather t g a b c ix w s
  | .vfetch t g a b c ix w odd => Sys2Proof.Machine.execVfetch t g a b c ix w odd s
  | .slst t g d a pd fetchUnit => Sys2Proof.Machine.execSlst t g d a pd fetchUnit s
  | .dirwLook t g a w => Sys2Proof.Machine.execDirwLook t g a w s
  | .dirwInsert t g a w => Sys2Proof.Machine.execDirwInsert t g a w s
  | .dirwMap t g a w => Sys2Proof.Machine.execDirwMap t g a w s
  | .dirwFree t g a w => Sys2Proof.Machine.execDirwFree t g a w s
  | .bissue t g a b c ix w => Sys2Proof.Machine.execBissue t g a b c ix w s
  | .txq t g a b c ix w => Sys2Proof.Machine.execTxq t g a b c ix w s
  | .vadd t g d a b m ty => Sys2Proof.Machine.execVadd t g d a b m ty s
  | .vsub t g d a b m ty => Sys2Proof.Machine.execVsub t g d a b m ty s
  | .vmul t g d a b m ty => Sys2Proof.Machine.execVmul t g d a b m ty s
  | .vfma t g d a b m => Sys2Proof.Machine.execVfma t g d a b m s
  | .vmax t g d a b m ty => Sys2Proof.Machine.execVmax t g d a b m ty s
  | .vmin t g d a b m ty => Sys2Proof.Machine.execVmin t g d a b m ty s
  | .vabs t g d a m ty => Sys2Proof.Machine.execVabs t g d a m ty s
  | .vcmp t g pd a b m c => Sys2Proof.Machine.execVcmp t g pd a b m c s
  | .vsel t g d a b m => Sys2Proof.Machine.execVsel t g d a b m s
  | .vdiv t g d a b m => Sys2Proof.Machine.execVdiv t g d a b m s
  | .vsqrt t g d a m => Sys2Proof.Machine.execVsqrt t g d a m s
  | .vrcp t g d a m => Sys2Proof.Machine.execVrcp t g d a m s
  | .vrsqrt t g d a m => Sys2Proof.Machine.execVrsqrt t g d a m s
  | .vexp2 t g d a m => Sys2Proof.Machine.execVexp2 t g d a m s
  | .vcvt t g d a m k => Sys2Proof.Machine.execVcvt t g d a m k s
  | .vq t g d a b m e8 => Sys2Proof.Machine.execVq t g d a b m e8 s
  | .vf16up t g d a m => Sys2Proof.Machine.execVf16up t g d a m s
  | .vs8up t g d a m => Sys2Proof.Machine.execVs8up t g d a m s
  | .vtree t g d a m n => Sys2Proof.Machine.execVtree t g d a m n s
  | .vhmax t g d a m n => Sys2Proof.Machine.execVhmax t g d a m n s
  | .vperm t g d a b m => Sys2Proof.Machine.execVperm t g d a b m s
  | .vbcast t g d a m => Sys2Proof.Machine.execVbcast t g d a m s
  | .vext t g d a lane => Sys2Proof.Machine.execVext t g d a lane s
  | .vand t g d a b m => Sys2Proof.Machine.execVand t g d a b m s
  | .vor t g d a b m => Sys2Proof.Machine.execVor t g d a b m s
  | .vxor t g d a b m => Sys2Proof.Machine.execVxor t g d a b m s
  | .vpop t g d a b m => Sys2Proof.Machine.execVpop t g d a b m s
  | .vamx t g a b f16 => Sys2Proof.Machine.execVamx t g a b f16 s
  | .vamr t g d a m => Sys2Proof.Machine.execVamr t g d a m s
  | .vamc t g => Sys2Proof.Machine.execVamc t g s
  | .mldw t g a b bank fmt rows stride bad => Sys2Proof.Machine.execMldw t g a b bank fmt rows stride bad s
  | .mmac t g d a bank tree => Sys2Proof.Machine.execMmac t g d a bank tree s
  | .mfin t g d a b noscale => Sys2Proof.Machine.execMfin t g d a b noscale s
  | .mclr t g d => Sys2Proof.Machine.execMclr t g d s
  | .mmov t g d a pd => Sys2Proof.Machine.execMmov t g d a pd s
  | .tsel t g d a b c pd ix => Sys2Proof.Machine.execTsel t g d a b c pd ix s
  | .tmrg t g d a b c pd ix => Sys2Proof.Machine.execTmrg t g d a b c pd ix s
  | .tthr t g d a b c ix => Sys2Proof.Machine.execTthr t g d a b c ix s
  | .csend t g a e => Sys2Proof.Machine.execCsend t g a e s
  | .bundleFetchUncorrectable t off => Sys2Proof.Machine.execBundleFetchUncorrectable t off s
  | .sramScrubReread u off decodes => Sys2Proof.Machine.execSramScrubReread u off decodes s
  | .waitDeadlineEnd t w => Sys2Proof.Machine.execWaitDeadlineEnd t w s
  | .asyncElementLand id how => Sys2Proof.Machine.execAsyncElementLand id how s
  | .bldq b w data => Sys2Proof.Machine.execBldq b w data s
  | .bldw b w data => Sys2Proof.Machine.execBldw b w data s
  | .bldp b w data => Sys2Proof.Machine.execBldp b w data s
  | .bldx b w data => Sys2Proof.Machine.execBldx b w data s
  | .brdl b w unsound => Sys2Proof.Machine.execBrdl b w unsound s
  | .bclr b w => Sys2Proof.Machine.execBclr b w s
  | .brrd b unsound => Sys2Proof.Machine.execBrrd b unsound s
  | .bscan b w odd => Sys2Proof.Machine.execBscan b w odd s
  | .bput b w odd => Sys2Proof.Machine.execBput b w odd s
  | .bzero b w => Sys2Proof.Machine.execBzero b w s
  | .bcopy b w odd => Sys2Proof.Machine.execBcopy b w odd s
  | .beanRetry b odd => Sys2Proof.Machine.execBeanRetry b odd s
  | .extraStart die odd => Sys2Proof.Machine.execExtraStart die odd s
  | .beanCommandEnd b => Sys2Proof.Machine.execBeanCommandEnd b s
  | .ordinaryAccess a => Sys2Proof.Machine.execOrdinaryAccess a s
  | .refreshDebtAccrue b bank => Sys2Proof.Machine.execRefreshDebtAccrue b bank s
  | .refpbIssue b => Sys2Proof.Machine.execRefpbIssue b s
  | .rfmpbIssue b bank => Sys2Proof.Machine.execRfmpbIssue b bank s
  | .rowRemap stack odd => Sys2Proof.Machine.execRowRemap stack odd s
  | .moverStart b => Sys2Proof.Machine.execMoverStart b s
  | .selfRefreshEntry stack => Sys2Proof.Machine.execSelfRefreshEntry stack s
  | .selfRefreshExit stack => Sys2Proof.Machine.execSelfRefreshExit stack s
  | .memTempReading temps => Sys2Proof.Machine.execMemTempReading temps s
  | .memClassChange => Sys2Proof.Machine.execMemClassChange s
  | .calRampOnThermal ctx => Sys2Proof.Machine.execCalRampOnThermal ctx s
  | .aonSensorReading compute io optics => Sys2Proof.Machine.execAonSensorReading compute io optics s
  | .rateWindowBoundary bad => Sys2Proof.Machine.execRateWindowBoundary bad s
  | .auditRootDecision ctx counts bad => Sys2Proof.Machine.execAuditRootDecision ctx counts bad s
  | .marginBroadcastApply ctx rx => Sys2Proof.Machine.execMarginBroadcastApply ctx rx s
  | .powerWindowBoundary power => Sys2Proof.Machine.execPowerWindowBoundary power s
  | .updateApply ms => Sys2Proof.Machine.execUpdateApply ms s
  | .applyAckReceive slot primary status version => Sys2Proof.Machine.execApplyAckReceive slot primary status version s
  | .updateDecision slot => Sys2Proof.Machine.execUpdateDecision slot s
  | .decisionApply e d => Sys2Proof.Machine.execDecisionApply e d s
  | .abortRollback e => Sys2Proof.Machine.execAbortRollback e s
  | .changeEntryClose e => Sys2Proof.Machine.execChangeEntryClose e s
  | .changeEntryFree e => Sys2Proof.Machine.execChangeEntryFree e s
  | .exclusionReload b => Sys2Proof.Machine.execExclusionReload b s
  | .unsureResolve e a => Sys2Proof.Machine.execUnsureResolve e a s
  | .graphPrepare p => Sys2Proof.Machine.execGraphPrepare p s
  | .graphPrepareTimeout fn sqIndex => Sys2Proof.Machine.execGraphPrepareTimeout fn sqIndex s
  | .purge ctx item => Sys2Proof.Machine.execPurge ctx item s
  | .compactionMove ctx shard part groupBad => Sys2Proof.Machine.execCompactionMove ctx shard part groupBad s
  | .rowCountDecrement ctx shard part => Sys2Proof.Machine.execRowCountDecrement ctx shard part s
  | .migrationFlip id => Sys2Proof.Machine.execMigrationFlip id s
  | .migrationRecopyOrDrop id => Sys2Proof.Machine.execMigrationRecopyOrDrop id s
  | .promotionCopyStart => Sys2Proof.Machine.execPromotionCopyStart s
  | .releasedLocationReclaim => Sys2Proof.Machine.execReleasedLocationReclaim s
  | .tierChangeDemote ctx => Sys2Proof.Machine.execTierChangeDemote ctx s
  | .tierChangeComplete ctx => Sys2Proof.Machine.execTierChangeComplete ctx s
  | .codewordPack staged => Sys2Proof.Machine.execCodewordPack staged s
  | .packWaitExpiry ctx => Sys2Proof.Machine.execPackWaitExpiry ctx s
  | .flashProgram lun => Sys2Proof.Machine.execFlashProgram lun s
  | .flashProgramDone lun pass => Sys2Proof.Machine.execFlashProgramDone lun pass s
  | .flashErase lun block => Sys2Proof.Machine.execFlashErase lun block s
  | .flashSuspend lun => Sys2Proof.Machine.execFlashSuspend lun s
  | .flashResume lun => Sys2Proof.Machine.execFlashResume lun s
  | .flashDiscardRead id => Sys2Proof.Machine.execFlashDiscardRead id s
  | .flashReadSend lun => Sys2Proof.Machine.execFlashReadSend lun s
  | .flashReadCancel id => Sys2Proof.Machine.execFlashReadCancel id s
  | .flashArrayReadDone ready => Sys2Proof.Machine.execFlashArrayReadDone ready s
  | .flashLadderReread id decodes => Sys2Proof.Machine.execFlashLadderReread id decodes s
  | .flashSoftDecode id decodes => Sys2Proof.Machine.execFlashSoftDecode id decodes s
  | .flashDieParity id => Sys2Proof.Machine.execFlashDieParity id s
  | .partnerReplicaRequest id => Sys2Proof.Machine.execPartnerReplicaRequest id s
  | .partnerReplicaServe src ctx item version => Sys2Proof.Machine.execPartnerReplicaServe src ctx item version s
  | .partnerReplicaTimeout id => Sys2Proof.Machine.execPartnerReplicaTimeout id s
  | .blockRetire lun block cause => Sys2Proof.Machine.execBlockRetire lun block cause s
  | .fold => Sys2Proof.Machine.execFold s
  | .garbageCollect => Sys2Proof.Machine.execGarbageCollect s
  | .gcRelocate seg addr => Sys2Proof.Machine.execGcRelocate seg addr s
  | .segmentEraseFree seg => Sys2Proof.Machine.execSegmentEraseFree seg s
  | .lunTempRead lun temp => Sys2Proof.Machine.execLunTempRead lun temp s
  | .channelWake ch => Sys2Proof.Machine.execChannelWake ch s
  | .flashChannelRetrain ch ok temp => Sys2Proof.Machine.execFlashChannelRetrain ch ok temp s
  | .textTokenise corrected => Sys2Proof.Machine.execTextTokenise corrected s
  | .textDetokenise corrected => Sys2Proof.Machine.execTextDetokenise corrected s
  | .textGstep bad corrected => Sys2Proof.Machine.execTextGstep bad corrected s
  | .textSramUncorrectable seqNotSlot index off lasting => Sys2Proof.Machine.execTextSramUncorrectable seqNotSlot index off lasting s
  | .tokeniserSwitch slot => Sys2Proof.Machine.execTokeniserSwitch slot s
  | .staticCellArrive port slot cell badLanes first => Sys2Proof.Machine.execStaticCellArrive port slot cell badLanes first s
  | .cellDeliverLand => Sys2Proof.Machine.execCellDeliverLand s
  | .retryResend port what => Sys2Proof.Machine.execRetryResend port what s
  | .resendFail port what lanes => Sys2Proof.Machine.execResendFail port what lanes s
  | .laneSwitchover port e => Sys2Proof.Machine.execLaneSwitchover port e s
  | .laneTrainingDone port ok temp => Sys2Proof.Machine.execLaneTrainingDone port ok temp s
  | .bypassSwitchDone pair => Sys2Proof.Machine.execBypassSwitchDone pair s
  | .frameReceive port cells badLanes => Sys2Proof.Machine.execFrameReceive port cells badLanes s
  | .frameSend port room => Sys2Proof.Machine.execFrameSend port room s
  | .rreqServe cells bad => Sys2Proof.Machine.execRreqServe cells bad s
  | .rreplyReceive cells => Sys2Proof.Machine.execRreplyReceive cells s
  | .epochBoundary => Sys2Proof.Machine.execEpochBoundary s
  | .slotTableSwap => Sys2Proof.Machine.execSlotTableSwap s
  | .lease f armed => Sys2Proof.Machine.execLease f armed s
  | .leaseAck r => Sys2Proof.Machine.execLeaseAck r s
  | .leaseDeadline => Sys2Proof.Machine.execLeaseDeadline s
  | .claim c => Sys2Proof.Machine.execClaim c s
  | .stewardTakeover => Sys2Proof.Machine.execStewardTakeover s
  | .fillStart ctx shard => Sys2Proof.Machine.execFillStart ctx shard s
  | .fillCopy ctx shard e => Sys2Proof.Machine.execFillCopy ctx shard e s
  | .fillDone ctx shard => Sys2Proof.Machine.execFillDone ctx shard s
  | .fillAbandon ctx shard => Sys2Proof.Machine.execFillAbandon ctx shard s
  | .lostShardRecord r => Sys2Proof.Machine.execLostShardRecord r s
  | .checkpointRead slot bad => Sys2Proof.Machine.execCheckpointRead slot bad s
  | .ckpt f bad => Sys2Proof.Machine.execCkpt f bad s
  | .ckptAck f capacity => Sys2Proof.Machine.execCkptAck f capacity s
  | .verifyRead slot bad => Sys2Proof.Machine.execVerifyRead slot bad s
  | .adopt f slot => Sys2Proof.Machine.execAdopt f slot s
  | .restore f => Sys2Proof.Machine.execRestore f s
  | .homeBlockRewrite slot passes => Sys2Proof.Machine.execHomeBlockRewrite slot passes s
  | .adoptFail f => Sys2Proof.Machine.execAdoptFail f s
  | .cas f => Sys2Proof.Machine.execCas f s
  | .casReply slot => Sys2Proof.Machine.execCasReply slot s
  | .notice f => Sys2Proof.Machine.execNotice f s
  | .poolEnd f => Sys2Proof.Machine.execPoolEnd f s
  | .poolStandbyTimeout reqId => Sys2Proof.Machine.execPoolStandbyTimeout reqId s
  | .rehearsalStart => Sys2Proof.Machine.execRehearsalStart s
  | .rehearsalEnd => Sys2Proof.Machine.execRehearsalEnd s
  | .hostAccessError a retryOk => Sys2Proof.Machine.execHostAccessError a retryOk s
  | .vfFlr fn => Sys2Proof.Machine.execVfFlr fn s
  | .pfFlr => Sys2Proof.Machine.execPfFlr s
  | .registerWrite fn off bytes => Sys2Proof.Machine.execRegisterWrite fn off bytes s
  | .counterRead c => Sys2Proof.Machine.execCounterRead c s
  | .writeStatusRead fn => Sys2Proof.Machine.execWriteStatusRead fn s
  | .sqTailWrite fn v => Sys2Proof.Machine.execSqTailWrite fn v s
  | .cqHeadWrite fn v => Sys2Proof.Machine.execCqHeadWrite fn v s
  | .cqEnable fn v => Sys2Proof.Machine.execCqEnable fn v s
  | .cqDisable fn v => Sys2Proof.Machine.execCqDisable fn v s
  | .cqFaultClear fn v => Sys2Proof.Machine.execCqFaultClear fn v s
  | .evtRingEnable v => Sys2Proof.Machine.execEvtRingEnable v s
  | .evtHeadWrite v => Sys2Proof.Machine.execEvtHeadWrite v s
  | .evtDoorbell v => Sys2Proof.Machine.execEvtDoorbell v s
  | .fenceClose v => Sys2Proof.Machine.execFenceClose v s
  | .fenceOpenRequest v => Sys2Proof.Machine.execFenceOpenRequest v s
  | .beanReadmit ix v => Sys2Proof.Machine.execBeanReadmit ix v s
  | .rehearsalArm v => Sys2Proof.Machine.execRehearsalArm v s
  | .dbgRowWrite v => Sys2Proof.Machine.execDbgRowWrite v s
  | .debugWindowRead off len odd => Sys2Proof.Machine.execDebugWindowRead off len odd s
  | .mbxBadOpcode => Sys2Proof.Machine.execMbxBadOpcode s
  | .ctxCreate data => Sys2Proof.Machine.execCtxCreate data s
  | .ctxDestroy => Sys2Proof.Machine.execCtxDestroy s
  | .ctxAdmit data => Sys2Proof.Machine.execCtxAdmit data s
  | .admissionWordEffect ctx => Sys2Proof.Machine.execAdmissionWordEffect ctx s
  | .shardMap data => Sys2Proof.Machine.execShardMap data s
  | .shardCopy data => Sys2Proof.Machine.execShardCopy data s
  | .partWrite data => Sys2Proof.Machine.execPartWrite data s
  | .memWrite data odd => Sys2Proof.Machine.execMemWrite data odd s
  | .memRead odd => Sys2Proof.Machine.execMemRead odd s
  | .calLoad data => Sys2Proof.Machine.execCalLoad data s
  | .calLoadEffect ctx => Sys2Proof.Machine.execCalLoadEffect ctx s
  | .segWrite data => Sys2Proof.Machine.execSegWrite data s
  | .tierLoad data => Sys2Proof.Machine.execTierLoad data s
  | .fabLoad data => Sys2Proof.Machine.execFabLoad data s
  | .vfPolice data => Sys2Proof.Machine.execVfPolice data s
  | .planLoad data => Sys2Proof.Machine.execPlanLoad data s
  | .planVerifyDone => Sys2Proof.Machine.execPlanVerifyDone s
  | .planActivate => Sys2Proof.Machine.execPlanActivate s
  | .activationDrainStart => Sys2Proof.Machine.execActivationDrainStart s
  | .planPlacement data inTime => Sys2Proof.Machine.execPlanPlacement data inTime s
  | .placementComplete => Sys2Proof.Machine.execPlacementComplete s
  | .tokLoad data => Sys2Proof.Machine.execTokLoad data s
  | .shardReload => Sys2Proof.Machine.execShardReload s
  | .attest data => Sys2Proof.Machine.execAttest data s
  | .certRead => Sys2Proof.Machine.execCertRead s
  | .fwStage data => Sys2Proof.Machine.execFwStage data s
  | .fwSelect => Sys2Proof.Machine.execFwSelect s
  | .trainSave => Sys2Proof.Machine.execTrainSave s
  | .trainClear => Sys2Proof.Machine.execTrainClear s
  | .evtSwConfig data => Sys2Proof.Machine.execEvtSwConfig data s
  | .machineJoin tapped => Sys2Proof.Machine.execMachineJoin tapped s
  | .joinFenceOpen => Sys2Proof.Machine.execJoinFenceOpen s
  | .joinMembershipCheck => Sys2Proof.Machine.execJoinMembershipCheck s
  | .memberAdd => Sys2Proof.Machine.execMemberAdd s
  | .machineLeave => Sys2Proof.Machine.execMachineLeave s
  | .stackPcRetrain pc cause last => Sys2Proof.Machine.execStackPcRetrain pc cause last s
  | .eventAssert source payload edge => Sys2Proof.Machine.execEventAssert source payload edge s
  | .eventTake cycle => Sys2Proof.Machine.execEventTake cycle s
  | .eventHandlerReturn => Sys2Proof.Machine.execEventHandlerReturn s
  | .eventHoldoffExpiry group cycle => Sys2Proof.Machine.execEventHoldoffExpiry group cycle s
  | .eventRecordWrite => Sys2Proof.Machine.execEventRecordWrite s
  | .getId pecOk => Sys2Proof.Machine.execGetId pecOk s
  | .getTemps pecOk => Sys2Proof.Machine.execGetTemps pecOk s
  | .getPower pecOk => Sys2Proof.Machine.execGetPower pecOk s
  | .setCap pecOk data => Sys2Proof.Machine.execSetCap pecOk data s
  | .getState pecOk => Sys2Proof.Machine.execGetState pecOk s
  | .nodeReset pecOk data => Sys2Proof.Machine.execNodeReset pecOk data s
  | .smbusReplyRead pecOk => Sys2Proof.Machine.execSmbusReplyRead pecOk s
  | .aonPwrgoodFall => Sys2Proof.Machine.execAonPwrgoodFall s
  | .fwStageWriteDone ok => Sys2Proof.Machine.execFwStageWriteDone ok s
  | .flashEraseDone lun ok => Sys2Proof.Machine.execFlashEraseDone lun ok s
  | .stackLaneTrainingDone pc ok temp => Sys2Proof.Machine.execStackLaneTrainingDone pc ok temp s
  | .functionPowerStateWrite fn d3hot => Sys2Proof.Machine.execFunctionPowerStateWrite fn d3hot s

end Sys2Proof.Machine
end

