-- ==== Sys2Proof/Machine/RegRead.lean ====
section
/-! DEFINITION. What a read of each register returns (R11, R12, R432 to R439): RO, RW, RW1C and RWL fields their values, WO fields and
reserved bits zero. A read of a register without RC fields changes nothing, so no command stands for it; COUNTER_READ and
WRITE_STATUS_READ are the reads that clear. -/

namespace Sys2Proof.Machine

open Sys2Proof

/-! ### Codes of states -/

def bypCode : BypState → Nat
  | .closed => 0
  | .opening => 1
  | .open_ => 2
  | .closing => 3

def podClkCode : PodClk → Nat
  | .gatedOff => 0
  | .gated => 1
  | .running => 2
  | .relocking => 3

def stageCode : Stage → Nat
  | .rom => 0
  | .firmware => 1
  | .training => 2
  | .zeroing => 3
  | .ready => 4

def joinCode : JoinState → Nat
  | .none_ => 0
  | .waiting => 1
  | .opening => 2
  | .member => 3
  | .failed => 4

def fwStageCode : FwStage → Nat
  | .idle => 0
  | .writing => 1
  | .written => 2
  | .failed => 3

def chgStateCode : ChgState → Nat
  | .free => 0
  | .applied => 1
  | .committed => 2
  | .aborted => 3
  | .unsure => 4

def chgKindCode : ChgKind → Nat
  | .upsert => 0
  | .delete => 1
  | .move => 2

/-! ### Registers of the units -/

/-- BOOT_STATUS (R497). -/
def bootStatusReg (s : State) : Nat :=
  let a := s.aon
  packFields [(12, 0), (3, fwStageCode a.fwStageState), (3, joinCode a.joinState), (1, b2n a.fast), (1, b2n a.fwSlot),
    (8, a.fail.toNat), (4, stageCode a.stage), (32, a.fwVersion.toNat)]

/-- CHG_e (R284): a FREE entry's other fields read as they reset. -/
def chgReg (e : Chg) : Nat :=
  packFields [(128, e.oldEntry.toNat), (110, 0), (28, e.oldSpill.toNat), (28, e.oldHome.toNat), (28, e.newSpill.toNat),
    (28, e.newHome.toNat), (32, e.closeTick), (32, e.commitTick), (24, e.version.toNat), (36, e.item.toNat),
    (20, e.shard.toNat), (12, e.ctx.toNat), (2, chgKindCode e.kind), (4, chgStateCode e.state)]

/-- CRESS_CTL (R336). -/
def cressCtlReg (s : State) : Nat :=
  let f := s.fl
  packFields [(8, f.packWait.toNat), (12, f.overhead.toNat), (11, f.gcLow.toNat), (5, f.ageShift.toNat), (8, f.wWear.toNat),
    (8, f.wAge.toNat), (8, f.wInv.toNat), (4, f.slcPct.toNat)]

/-- FLASH_GEOM (R335). -/
def flashGeomReg (s : State) : Nat :=
  let f := s.fl
  packFields [(1, 0), (2, f.groups.toNat), (2, f.lunsPerCe.toNat), (15, f.segments), (16, f.eraseLimit.toNat), (16, f.blocks.toNat),
    (12, f.pages.toNat)]

/-- FAB_FENCE (R364). -/
def fenceReg (s : State) : Nat :=
  packFields [(3, s.fab.fence.toNat), (3, 0), (2, bypCode s.fab.byp[0]), (2, bypCode s.fab.byp[1]), (2, bypCode s.fab.byp[2]), (20, 0)]

/-- LEDGER_k (R404). -/
def ledgerReg (l : Ledger) : Nat :=
  packFields [(1, b2n l.valid), (8, l.phase.toNat), (25, l.sblock.toNat), (15, l.standby.toNat), (2, l.owner.toNat), (13, l.epoch.toNat)]

/-- POD_CLK (R463). -/
def podClkReg (s : State) : Nat := packFields ((List.range 8).map (fun p => (2, podClkCode (podOf s p).clk)))

/-- POOL_CTL (R398). -/
def poolCtlReg (s : State) : Nat := packFields [(3, 0), (3, s.pool.blockLog2.toNat), (29, s.pool.rows), (29, s.pool.base)]

/-- POOL_MAP (R403). -/
def poolMapReg (s : State) : Nat :=
  packFields ([3, 2, 1, 0].map (fun i => (15, (s.pool.cands.getD i 0).toNat)) ++ [(4, s.pool.mapValid.toNat)])

/-- REMAP_n (R156). -/
def remapReg (r : Remap) : Nat :=
  packFields [(14, 0), (6, r.spare.toNat), (15, r.row.toNat), (6, r.bank.toNat), (1, b2n r.pc), (4, r.ch.toNat), (16, 0),
    (1, b2n r.factory), (1, b2n r.valid)]

/-- STAGE_CTL (R305). -/
def stageCtlReg (s : State) : Nat := packFields [(6, 0), (29, s.upd.stageRows), (29, s.upd.stageBase)]

/-- ADM_CTL (R454): the last value written. -/
def admCtlReg (s : State) : Nat :=
  let a := s.host.admNext.getD (s.host.admMode, s.host.admOver)
  packFields [(32, 0), (16, a.2.toNat), (14, 0), (2, a.1.toNat)]

/-- The 32 bits of word `i` of a bitmap register. -/
def bitsWord {n : Nat} (v : BitVec n) (i : Nat) : Nat := bitsOf v.toNat (32 * i) 32

/-- TILE_FAULT_i (R176): tiles in words 0 to 5, Pods in word 6. -/
def tileFaultReg (s : State) (i : Nat) : Nat := if i < 6 then bitsWord s.tileFault i else s.podFault.toNat

/-! ### Reads -/

/-- The value of instance `i` of a register of the physical function. -/
def regValue (s : State) (r : Reg) (i : Nat) : Nat :=
  match r with
  | .nodeCap => nodeCapReg s
  | .nodeId => s.aon.nodeId.toNat
  | .beanPresent => bitsWord s.stk.present i
  | .writeStatus => writeStatusNat (funcOf s 0).ws
  | .admCtl => admCtlReg s
  | .dbgRow => (s.host.dbgNext.getD s.host.dbgRow).toNat
  | .mbxCmd => bitsOf s.host.mbx.cmd.toNat (64 * i) 64
  | .mbxGo => 0
  | .mbxState => packFields [(8, s.host.mbx.status.toNat), (55, 0), (1, b2n s.host.mbx.busy)]
  | .mbxReply => (s.host.mbx.reply.getD i 0).toNat
  | .beanOut => bitsWord s.stk.beanOut i
  | .bootStatus => bootStatusReg s
  | .chg => chgReg (chgOf s i)
  | .cressCtl => cressCtlReg s
  | .cressStatus => cressStatusReg s
  | .epochStatus => epochStatusReg s
  | .evtBase => s.evt.base.toNat
  | .evtDoorbell => 0
  | .evtHead => s.evt.head.toNat
  | .evtRingCtl => packFields [(4, s.evt.log2.toNat), (59, 0), (1, b2n s.evt.en)]
  | .evtTail => packFields [(16, s.evt.tail.toNat), (1, b2n s.evt.phase)]
  | .fabFence => fenceReg s
  | .flashGeom => flashGeomReg s
  | .ledger => ledgerReg (ledgerOf s i)
  | .memClass => memClassReg s
  | .memTrain => memTrainReg s
  | .nextEpoch => s.mach.nextEpoch
  | .planFault => planFaultReg s
  | .planStatus => planStatusReg s
  | .podClk => podClkReg s
  | .poolCtl => poolCtlReg s
  | .poolMap => poolMapReg s
  | .portCtl => packFields [(16, 0), (16, s.fab.ports[(Fin.ofNat 6 i)].retryMax.toNat)]
  | .portStatus => portStatusReg s.fab.ports[(Fin.ofNat 6 i)]
  | .pwrCap => s.pow.capW.toNat
  | .pwrStatus => pwrStatusReg s
  | .rehCtl => rehCtlReg s
  | .rehStart => s.mach.rehStart.toNat
  | .remap => remapReg (tget Remap.reset s.stk.remap i)
  | .resetCause => causeCode s.aon.cause
  | .stageCtl => stageCtlReg s
  | .tempStatus => tempStatusReg s
  | .textStatus => textStatusReg s
  | .tickAlign => tickAlignReg s
  | .tickNow => s.clk.tick
  | .tileFault => tileFaultReg s i
  | .counter => (tget (0 : BitVec 32) s.cnt i).toNat

/-- The value of a queue register by its offset in a function's space (R439); an offset without a register reads zero. -/
def queueValue (s : State) (fn rel : Nat) : Nat :=
  let f := funcOf s fn
  match rel with
  | 0x00 => fn
  | 0x08 => writeStatusNat f.ws
  | 0x10 => f.sqTail.toNat
  | 0x18 => f.sqHead.toNat
  | 0x20 => f.cqBase.toNat
  | 0x28 => packFields [(5, f.log2.toNat), (56, 0), (1, b2n f.fault), (1, b2n (drainingFn f)), (1, b2n f.en)]
  | 0x30 => f.cqHead.toNat
  | 0x38 => packFields [(16, f.cqTail.toNat), (1, b2n f.phase)]
  | 0x40 => packFields [(16, inflightOf s fn), (16, queuedOf s fn)]
  | _ => 0

/-- What a read of the physical function's BAR0 returns for the register that starts at an offset: zero where none does (R432). -/
def pfValue (s : State) (off : Nat) : Nat :=
  if 0x20000 ≤ off ∧ off < 0x30000 then queueValue s 0 (off - 0x20000)
  else
    match regAt off with
    | some (r, i, _) => regValue s r i
    | none => 0

end Sys2Proof.Machine
end

