-- ==== Sys2Proof/WellFormed.lean ====
section
/-! DEFINITION. Which commands a sender can form: the operands of a tile instruction that a slot word holds and a verified
plan may use (R179 to R182, R195, R218), the command words of Beans (R123), and operands of the sizes their rules give. -/

namespace Sys2Proof

/-- P0 always reads all ones, and a plan that writes it is rejected (R182). -/
def writesP (pd : Fin 16) : Bool := pd.val != 0

/-- The lanes that VTREE and VHMAX take (R213). -/
def lanesOk (n : BitVec 7) : Bool := decide (1 ≤ n.toNat) && decide (n.toNat ≤ 64)

/-- A burst of 64 bytes with its eight metadata bytes and the inner check bits of its four data words (R117, R118). -/
def burstWellFormed (b : Burst) : Bool := b.bytes.length == 64 && b.check.length == 8 && b.inner.length == 4

/-- Bursts that an access did not read as they are stored: what each of its two reads gave (R119, R422). -/
def oddWellFormed (l : List (Nat × Burst × Burst)) : Bool := l.all (fun o => burstWellFormed o.2.1 && burstWellFormed o.2.2)

/-- Bursts that a Bean did not read as they are stored (R117). -/
def beanOddWellFormed (l : List (Nat × Burst)) : Bool := l.all (fun o => burstWellFormed o.2)

/-- An access writes as many bytes as it covers, and a read brings none (R142); a tile's accesses are those of its instructions. -/
def accessWellFormed (a : Access) : Bool :=
  (if a.write then a.data.length == a.len else a.data.length == 0) && oddWellFormed a.odd
  && (match a.who with | .tile _ => false | _ => true)

/-- A frame is 1 to 32 cells of 256 bytes (R365, R381). -/
def frameWellFormed (cells : FrameCells) : Bool :=
  decide (1 ≤ cells.length) && decide (cells.length ≤ 32) && cells.all (fun c => c.length == 256)

/-- The units of R498, the parts' positions and the six ports (R313, R397). -/
def reportWellFormed (r : TrainReport) : Bool :=
  r.pcs.length == 256 && r.flash.length == 32 && r.lanes.length == 54 && r.parts.length == 256 && r.meas.length == 6

/-- Whether a command is well formed. -/
def Instr.wellFormed (i : Instr) : Bool :=
  match i with
  | .powerOn _ => true
  | .nodeResetNFall => true
  | .perstNFall => true
  | .resetRelease _ => true
  | .bfOwnHandover _ => true
  | .bfOwnRelease _ => true
  | .romStage puf1 puf2 => puf1.length == 16384 && puf2.length == 16384
  | .firmwareStage _ => true
  | .trainingStage report => reportWellFormed report
  | .trainRecordWrite => true
  | .zeroingStage => true
  | .readyStage => true
  | .watchdogExpiry _ => true
  | .watchdogRestart => true
  | .thermalTrip => true
  | .thermalHoldEnd => true
  | .tickBoundary => true
  | .tickMarkerReceive _ _ _ => true
  | .descriptorConsume => true
  | .admissionOpportunity _ _ => true
  | .frameBoundary => true
  | .phaseStart _ _ _ _ _ => true
  | .phaseBoundaryEnd _ => true
  | .sproutWakeRequest _ _ _ => true
  | .podWarmWake _ => true
  | .podColdWake _ => true
  | .nop _ g => g.gp.val == 0 && !g.gn
  | .seti _ _ _ _ => true
  | .seth _ _ _ _ => true
  | .add _ _ _ _ _ => true
  | .addi _ _ _ _ _ => true
  | .sub _ _ _ _ _ => true
  | .mul _ _ _ _ _ => true
  | .and _ _ _ _ _ => true
  | .or _ _ _ _ _ => true
  | .xor _ _ _ _ _ => true
  | .shl _ _ _ _ _ => true
  | .shr _ _ _ _ _ => true
  | .sar _ _ _ _ _ => true
  | .shi _ _ _ _ _ _ => true
  | .mins _ _ _ _ _ => true
  | .maxs _ _ _ _ _ => true
  | .minu _ _ _ _ _ => true
  | .maxu _ _ _ _ _ => true
  | .cmp _ _ pd _ _ _ => writesP pd
  | .cmpi _ _ pd _ _ _ => writesP pd
  | .sel _ _ _ _ _ _ => true
  | .plog _ _ pd _ _ _ => writesP pd
  | .pfroms _ _ pd _ => writesP pd
  | .stop _ _ _ _ => true
  | .rdsp _ _ _ _ => true
  | .loop _ _ _ _ pd _ body maxTrip => writesP pd && body != 0 && maxTrip != 0
  | .br _ _ _ => true
  | .bind _ _ pd _ => writesP pd
  | .arm _ _ _ _ _ => true
  | .await _ _ _ pd _ => writesP pd
  | .wstat _ _ _ _ _ => true
  | .wake _ _ _ _ => true
  | .gate _ _ _ _ => true
  | .cplt _ _ pd _ _ _ => writesP pd
  | .pend _ _ => true
  | .lds _ _ _ _ pd _ => writesP pd
  | .sts _ _ _ _ pd _ => writesP pd
  | .ldv _ _ _ _ pd _ => writesP pd
  | .stv _ _ _ _ pd _ => writesP pd
  | .xload _ _ _ _ _ _ => true
  | .xstore _ _ _ _ _ _ => true
  | .gather _ _ _ _ _ _ _ => true
  | .vfetch _ _ _ _ _ _ _ _ => true
  | .slst _ _ _ _ pd _ => writesP pd
  | .dirwLook _ _ _ _ => true
  | .dirwInsert _ _ _ _ => true
  | .dirwMap _ _ _ _ => true
  | .dirwFree _ _ _ _ => true
  | .bissue _ _ _ _ _ _ _ => true
  | .txq _ _ _ _ _ _ _ => true
  | .vadd _ _ _ _ _ _ _ => true
  | .vsub _ _ _ _ _ _ _ => true
  | .vmul _ _ _ _ _ _ _ => true
  | .vfma _ _ _ _ _ _ => true
  | .vmax _ _ _ _ _ _ _ => true
  | .vmin _ _ _ _ _ _ _ => true
  | .vabs _ _ _ _ _ _ => true
  | .vcmp _ _ pd _ _ _ _ => writesP pd
  | .vsel _ _ _ _ _ _ => true
  | .vdiv _ _ _ _ _ _ => true
  | .vsqrt _ _ _ _ _ => true
  | .vrcp _ _ _ _ _ => true
  | .vrsqrt _ _ _ _ _ => true
  | .vexp2 _ _ _ _ _ => true
  | .vcvt _ _ _ _ _ _ => true
  | .vq _ _ _ _ _ _ _ => true
  | .vf16up _ _ _ _ _ => true
  | .vs8up _ _ _ _ _ => true
  | .vtree _ _ _ _ _ n => lanesOk n
  | .vhmax _ _ _ _ _ n => lanesOk n
  | .vperm _ _ _ _ _ _ => true
  | .vbcast _ _ _ _ _ => true
  | .vext _ _ _ _ _ => true
  | .vand _ _ _ _ _ _ => true
  | .vor _ _ _ _ _ _ => true
  | .vxor _ _ _ _ _ _ => true
  | .vpop _ _ _ _ _ _ => true
  | .vamx _ _ _ _ _ => true
  | .vamr _ _ _ _ _ => true
  | .vamc _ _ => true
  | .mldw _ _ _ _ _ fmt rows _ _ => Machine.rowsOk fmt rows.toNat
  | .mmac _ _ _ _ _ _ => true
  | .mfin _ _ _ _ _ _ => true
  | .mclr _ _ _ => true
  | .mmov _ _ d _ pd => writesP pd && decide (d.val % 2 = 0) && decide (pd.val % 2 = 0)
  | .tsel _ _ _ _ _ _ pd _ => writesP pd
  | .tmrg _ _ _ _ _ _ pd _ => writesP pd
  | .tthr _ _ _ _ _ _ _ => true
  | .csend _ _ _ _ => true
  | .bundleFetchUncorrectable _ _ => true
  | .sramScrubReread _ _ _ => true
  | .waitDeadlineEnd _ _ => true
  | .asyncElementLand _ _ => true
  | .bldq _ w data => Machine.beanWordOk .bldq w && data.length == 32 * w.len.toNat
  | .bldw _ w data => Machine.beanWordOk .bldw w && data.length == 32 * w.len.toNat
  | .bldp _ w data => Machine.beanWordOk .bldp w && data.length == 64
  | .bldx _ w data => Machine.beanWordOk .bldx w && data.length == 64
  | .brdl _ w _ => Machine.beanWordOk .brdl w
  | .bclr _ w => Machine.beanWordOk .bclr w
  | .brrd _ _ => true
  | .bscan _ w odd => Machine.beanWordOk .bscan w && beanOddWellFormed odd
  | .bput _ w odd => Machine.beanWordOk .bput w && beanOddWellFormed odd
  | .bzero _ w => Machine.beanWordOk .bzero w
  | .bcopy _ w odd => Machine.beanWordOk .bcopy w && beanOddWellFormed odd
  | .beanRetry _ odd => beanOddWellFormed odd
  | .extraStart _ odd => beanOddWellFormed odd
  | .beanCommandEnd _ => true
  | .ordinaryAccess a => accessWellFormed a
  | .refreshDebtAccrue _ _ => true
  | .refpbIssue _ => true
  | .rfmpbIssue _ _ => true
  | .rowRemap _ odd => oddWellFormed odd
  | .moverStart _ => true
  | .selfRefreshEntry _ => true
  | .selfRefreshExit _ => true
  | .memTempReading temps => temps.length == 96
  | .memClassChange => true
  | .calRampOnThermal _ => true
  | .aonSensorReading _ _ optics => optics.length == 6
  | .rateWindowBoundary _ => true
  | .auditRootDecision _ _ _ => true
  | .marginBroadcastApply _ _ => true
  | .powerWindowBoundary _ => true
  | .updateApply _ => true
  | .applyAckReceive _ _ _ _ => true
  | .updateDecision _ => true
  | .decisionApply _ _ => true
  | .abortRollback _ => true
  | .changeEntryClose _ => true
  | .changeEntryFree _ => true
  | .exclusionReload _ => true
  | .unsureResolve _ _ => true
  | .graphPrepare _ => true
  | .graphPrepareTimeout _ _ => true
  | .purge _ _ => true
  | .compactionMove _ _ _ _ => true
  | .rowCountDecrement _ _ _ => true
  | .migrationFlip _ => true
  | .migrationRecopyOrDrop _ => true
  | .promotionCopyStart => true
  | .releasedLocationReclaim => true
  | .tierChangeDemote _ => true
  | .tierChangeComplete _ => true
  | .codewordPack _ => true
  | .packWaitExpiry _ => true
  | .flashProgram _ => true
  | .flashProgramDone _ _ => true
  | .flashErase _ _ => true
  | .flashSuspend _ => true
  | .flashResume _ => true
  | .flashDiscardRead _ => true
  | .flashReadSend _ => true
  | .flashReadCancel _ => true
  | .flashArrayReadDone _ => true
  | .flashLadderReread _ _ => true
  | .flashSoftDecode _ _ => true
  | .flashDieParity _ => true
  | .partnerReplicaRequest _ => true
  | .partnerReplicaServe _ _ _ _ => true
  | .partnerReplicaTimeout _ => true
  | .blockRetire _ _ _ => true
  | .fold => true
  | .garbageCollect => true
  | .gcRelocate _ _ => true
  | .segmentEraseFree _ => true
  | .lunTempRead _ _ => true
  | .channelWake _ => true
  | .flashChannelRetrain _ _ _ => true
  | .textTokenise _ => true
  | .textDetokenise _ => true
  | .textGstep _ _ => true
  | .textSramUncorrectable _ _ _ _ => true
  | .tokeniserSwitch _ => true
  | .staticCellArrive _ _ cell _ _ => cell.length == 256
  | .cellDeliverLand => true
  | .retryResend _ _ => true
  | .resendFail _ _ _ => true
  | .laneSwitchover _ _ => true
  | .laneTrainingDone _ _ _ => true
  | .bypassSwitchDone _ => true
  | .frameReceive _ cells _ => frameWellFormed cells
  | .frameSend _ _ => true
  | .rreqServe cells _ => frameWellFormed cells
  | .rreplyReceive cells => frameWellFormed cells
  | .epochBoundary => true
  | .slotTableSwap => true
  | .lease _ _ => true
  | .leaseAck _ => true
  | .leaseDeadline => true
  | .claim _ => true
  | .stewardTakeover => true
  | .fillStart _ _ => true
  | .fillCopy _ _ _ => true
  | .fillDone _ _ => true
  | .fillAbandon _ _ => true
  | .lostShardRecord _ => true
  | .checkpointRead _ _ => true
  | .ckpt _ _ => true
  | .ckptAck _ _ => true
  | .verifyRead _ _ => true
  | .adopt _ _ => true
  | .restore _ => true
  | .homeBlockRewrite _ _ => true
  | .adoptFail _ => true
  | .cas _ => true
  | .casReply _ => true
  | .notice _ => true
  | .poolEnd _ => true
  | .poolStandbyTimeout _ => true
  | .rehearsalStart => true
  | .rehearsalEnd => true
  | .hostAccessError _ _ => true
  | .vfFlr _ => true
  | .pfFlr => true
  | .registerWrite _ _ bytes => decide (1 ≤ bytes.length) && decide (bytes.length ≤ 64)
  | .counterRead _ => true
  | .writeStatusRead _ => true
  | .sqTailWrite _ _ => true
  | .cqHeadWrite _ _ => true
  | .cqEnable _ _ => true
  | .cqDisable _ _ => true
  | .cqFaultClear _ _ => true
  | .evtRingEnable _ => true
  | .evtHeadWrite _ => true
  | .evtDoorbell _ => true
  | .fenceClose _ => true
  | .fenceOpenRequest _ => true
  | .beanReadmit _ _ => true
  | .rehearsalArm _ => true
  | .dbgRowWrite _ => true
  | .debugWindowRead _ len _ => decide (1 ≤ len.val)
  | .mbxBadOpcode => true
  | .ctxCreate _ => true
  | .ctxDestroy => true
  | .ctxAdmit _ => true
  | .admissionWordEffect _ => true
  | .shardMap _ => true
  | .shardCopy _ => true
  | .partWrite _ => true
  | .memWrite _ odd => oddWellFormed odd
  | .memRead odd => oddWellFormed odd
  | .calLoad _ => true
  | .calLoadEffect _ => true
  | .segWrite _ => true
  | .tierLoad _ => true
  | .fabLoad _ => true
  | .vfPolice _ => true
  | .planLoad _ => true
  | .planVerifyDone => true
  | .planActivate => true
  | .activationDrainStart => true
  | .planPlacement _ _ => true
  | .placementComplete => true
  | .tokLoad _ => true
  | .shardReload => true
  | .attest _ => true
  | .certRead => true
  | .fwStage _ => true
  | .fwSelect => true
  | .trainSave => true
  | .trainClear => true
  | .evtSwConfig _ => true
  | .machineJoin _ => true
  | .joinFenceOpen => true
  | .joinMembershipCheck => true
  | .memberAdd => true
  | .machineLeave => true
  | .stackPcRetrain _ _ _ => true
  | .eventAssert _ _ _ => true
  | .eventTake _ => true
  | .eventHandlerReturn => true
  | .eventHoldoffExpiry _ _ => true
  | .eventRecordWrite => true
  | .getId _ => true
  | .getTemps _ => true
  | .getPower _ => true
  | .setCap _ _ => true
  | .getState _ => true
  | .nodeReset _ _ => true
  | .smbusReplyRead _ => true
  | .aonPwrgoodFall => true
  | .fwStageWriteDone _ => true
  | .flashEraseDone _ _ => true
  | .stackLaneTrainingDone _ _ _ => true
  | .functionPowerStateWrite _ _ => true

end Sys2Proof
end

