-- ==== Sys2Proof/Safety.lean ====
section
/-! DEFINITION. The terms that claims are stated in: what a safe run is, which part of the state a command may change, and the
spec's own arithmetic for the results of tile instructions. -/

namespace Sys2Proof

open Sys2Proof.Machine

/-! ### Safe runs -/

/-- The canonical form of node memory: addresses strictly rising, and no entry equal to what an unlisted address reads
as (log 7). -/
def Machine.Memory.wf (m : List Host.Cell) : Bool := twf (0 : Byte) m

/-- P0 of a register file always reads all ones (R182). -/
def Machine.Regs.P0 (r : Regs) : Prop := r.p[0] = BitVec.allOnes 64

/-- P0 of every tile, now and as the present bundle began (R182, R184). -/
def Safety.P0Ones (s : State) : Prop := ∀ t : Nat, (tileOf s t).regs.P0 ∧ (tileOf s t).src.P0

/-- A step that runs: it answers a next state. -/
def Safety.Runs (s : State) : Prop := ∃ t, Machine.step s = .next t

namespace Claims

/-! ### Tiles -/

/-- A tile instruction issues, and its guard holds (R160, R183). -/
def Executes (s : State) (t : Fin 192) (g : Guard) (i : Instr) : Prop :=
  mayIssue s t g i = true ∧ guardHolds (tileOf (issued s t g i) t.val).src.p g = true

/-- The tile as its instruction finds it: `src` and `srcStore` hold what the slots of the bundle read (R163, R184). -/
def tileAt (s : State) (t : Fin 192) (g : Guard) (i : Instr) : Tile := tileOf (issued s t g i) t.val

/-- The tile after an instruction that brings it `y` (R184): each result stands unless one issued earlier to the same register, and
not yet visible, becomes visible later. -/
def settled (s : State) (t : Fin 192) (g : Guard) (i : Instr) (y : Tile) : Tile :=
  landed (tileAt s t g i).cyc (tileAt s t g i) y (broughtBy i y (resultsOf (issued s t g i) t i))

/-- Of the whole node only one tile changes, and it becomes `x`. -/
def TileBecomes (s u : State) (t : Fin 192) (x : Tile) : Prop :=
  u = { s with tiles := u.tiles } ∧ tileOf u t.val = x ∧ ∀ k : Nat, k ≠ t.val → tileOf u k = tileOf s k

/-- A tile with S[D] written and nothing else changed. -/
def withS (x : Tile) (d : Fin 32) (v : Word64) : Tile := { x with regs := { x.regs with s := x.regs.s.set d v } }

/-- A tile with V[D] written and nothing else changed. -/
def withV (x : Tile) (d : Fin 64) (v : VReg) : Tile := { x with regs := { x.regs with v := x.regs.v.set d v } }

/-- A tile with P[PD] written and nothing else changed; a write to P0 is lost, for P0 always reads all ones (R182). -/
def withP (x : Tile) (d : Fin 16) (v : Word64) : Tile :=
  { x with regs := { x.regs with p := if d = 0 then x.regs.p else x.regs.p.set d v } }

/-- All ones on success, all zeros on failure (R182). -/
def status (ok : Prop) [Decidable ok] : Word64 := if ok then 0xFFFFFFFFFFFFFFFF#64 else 0

/-- A shift of a kind by an amount: a multiplication or a division by a power of two (R192, R194). -/
def shifted (k : ShiftKind) (v : Word64) (n : Nat) : Word64 :=
  match k with
  | .shl => BitVec.ofNat 64 (v.toNat * 2 ^ n)
  | .shr => BitVec.ofNat 64 (v.toNat / 2 ^ n)
  | .sar => BitVec.ofInt 64 (v.toInt / (2 ^ n : Int))

/-- The scalar instructions that write S[D] alone (R192): tile, guard, D, and the value that the registers as they are read
give it, in the spec's arithmetic. -/
def scalarResult : Instr → Option (Fin 192 × Guard × Fin 32 × (Regs → Word64))
  | .seti t g d imm => some (t, g, d, fun _ => BitVec.ofInt 64 imm.toInt)
  | .seth t g d imm => some (t, g, d, fun r => BitVec.ofNat 64 (imm.toNat * 2 ^ 32 + (r.s[d]).toNat % 2 ^ 32))
  | .add t g d a b => some (t, g, d, fun r => BitVec.ofNat 64 ((r.s[a]).toNat + (r.s[b]).toNat))
  | .addi t g d a x => some (t, g, d, fun r => BitVec.ofInt 64 ((r.s[a]).toInt + x.toInt))
  | .sub t g d a b => some (t, g, d, fun r => BitVec.ofInt 64 ((r.s[a]).toInt - (r.s[b]).toInt))
  | .mul t g d a b => some (t, g, d, fun r => BitVec.ofNat 64 ((r.s[a]).toNat * (r.s[b]).toNat))
  | .and t g d a b => some (t, g, d, fun r => BitVec.ofNat 64 ((r.s[a]).toNat &&& (r.s[b]).toNat))
  | .or t g d a b => some (t, g, d, fun r => BitVec.ofNat 64 ((r.s[a]).toNat ||| (r.s[b]).toNat))
  | .xor t g d a b => some (t, g, d, fun r => BitVec.ofNat 64 ((r.s[a]).toNat ^^^ (r.s[b]).toNat))
  | .shl t g d a b => some (t, g, d, fun r => shifted .shl r.s[a] ((r.s[b]).toNat % 64))
  | .shr t g d a b => some (t, g, d, fun r => shifted .shr r.s[a] ((r.s[b]).toNat % 64))
  | .sar t g d a b => some (t, g, d, fun r => shifted .sar r.s[a] ((r.s[b]).toNat % 64))
  | .shi t g d a k n => some (t, g, d, fun r => shifted k r.s[a] n.toNat)
  | .mins t g d a b => some (t, g, d, fun r => if (r.s[a]).toInt ≤ (r.s[b]).toInt then r.s[a] else r.s[b])
  | .maxs t g d a b => some (t, g, d, fun r => if (r.s[a]).toInt ≤ (r.s[b]).toInt then r.s[b] else r.s[a])
  | .minu t g d a b => some (t, g, d, fun r => if (r.s[a]).toNat ≤ (r.s[b]).toNat then r.s[a] else r.s[b])
  | .maxu t g d a b => some (t, g, d, fun r => if (r.s[a]).toNat ≤ (r.s[b]).toNat then r.s[b] else r.s[a])
  | .sel t g d a b c => some (t, g, d, fun r => if (r.p[c]).toNat % 2 = 1 then r.s[a] else r.s[b])
  | .stop t g d a => some (t, g, d, fun r => r.p[a])
  | _ => none

/-- The conditions of CMP and CMPI (R192, R193). -/
def Holds (c : CmpCond) (a b : Word64) : Prop :=
  match c with
  | .eq => a = b
  | .ne => a ≠ b
  | .lts => a.toInt < b.toInt
  | .les => a.toInt ≤ b.toInt
  | .ltu => a.toNat < b.toNat
  | .leu => a.toNat ≤ b.toNat

/-- The instructions that write P[PD] alone (R192): tile, guard, PD, and what its bit `i` holds then. -/
def predicateBit : Instr → Option (Fin 192 × Guard × Fin 16 × (Regs → Nat → Prop))
  | .cmp t g pd a b c => some (t, g, pd, fun r _ => Holds c r.s[a] r.s[b])
  | .cmpi t g pd a c imm => some (t, g, pd, fun r _ => Holds c r.s[a] (BitVec.ofInt 64 imm.toInt))
  | .plog t g pd a b op => some (t, g, pd, fun r i =>
      match op with
      | .and => (r.p[a]).getLsbD i = true ∧ (r.p[b]).getLsbD i = true
      | .or => (r.p[a]).getLsbD i = true ∨ (r.p[b]).getLsbD i = true
      | .xor => (r.p[a]).getLsbD i ≠ (r.p[b]).getLsbD i
      | .andNot => (r.p[a]).getLsbD i = true ∧ (r.p[b]).getLsbD i = false)
  | .pfroms t g pd a => some (t, g, pd, fun r i => (r.s[a]).getLsbD i = true)
  | _ => none

/-- The number of a wait object's elements with a status (R189). -/
def elements (o : WaitObj) : ElemStatus → Nat
  | .arrived => o.arrived
  | .late => o.late
  | .unreadable => o.unreadable
  | .absent => o.absent
  | .refused => o.refused

/-- What the slots of a window answer for an offset (R206): the code of the first slot that starts there, once it has its
status. -/
def slotCode (w : Option Window) (off : Nat) : Option Nat :=
  w.bind (fun v => ((v.slots.find? (fun x => x.off == off)).bind (·.status)).map statusCode)

/-- The instructions whose whole effect is a change of their own tile that no other part of the node takes part in (R190, R192,
R196, R206, R213, R217): tile, guard, and the tile that follows. -/
def tileChange : Instr → Option (Fin 192 × Guard × (Tile → Tile))
  | .nop t g => some (t, g, fun x => x)
  | .br t g n => some (t, g, fun x => { x with next := n.toNat })
  | .pend t g => some (t, g, fun x => { x with run := false })
  | .arm t g w dl exp => some (t, g, fun x =>
      { x with wait := x.wait.set w ⟨true, x.phaseTick + dl.toNat, exp.toNat, 0, 0, 0, 0, 0, 0, 0, false⟩ })
  | .wstat t g d w st => some (t, g, fun x => withS x d (BitVec.ofNat 64 (elements x.wait[w] st)))
  | .slst t g d a pd fetch => some (t, g, fun x =>
      match slotCode (if fetch then x.fwin else x.gwin) (x.src.s[a]).toNat with
      | some k => withP (withS x d (BitVec.ofNat 64 k)) pd (status True)
      | none => withP (withS x d 255) pd (status False))
  | .vext t g d a lane => some (t, g, fun x =>
      withS x d (BitVec.ofNat 64 ((x.src.v[a]).toNat / 2 ^ (32 * lane.val) % 2 ^ 32)))
  | .vamc t g => some (t, g, fun x => { x with absmax := [] })
  | .mclr t g d => some (t, g, fun x => { x with acc := x.acc.set d ⟨Vector.replicate 128 0, [], 0⟩ })
  | _ => none

/-- An instruction of a tile: its tile and guard (R178). -/
def tileInstr : Instr → Option (Fin 192 × Guard)
  | .nop t g | .seti t g _ _ | .seth t g _ _ | .add t g _ _ _ | .addi t g _ _ _ | .sub t g _ _ _
  | .mul t g _ _ _ | .and t g _ _ _ | .or t g _ _ _ | .xor t g _ _ _ | .shl t g _ _ _ | .shr t g _ _ _
  | .sar t g _ _ _ | .shi t g _ _ _ _ | .mins t g _ _ _ | .maxs t g _ _ _ | .minu t g _ _ _ | .maxu t g _ _ _
  | .cmp t g _ _ _ _ | .cmpi t g _ _ _ _ | .sel t g _ _ _ _ | .plog t g _ _ _ _ | .pfroms t g _ _
  | .stop t g _ _ | .rdsp t g _ _ | .loop t g _ _ _ _ _ _ | .br t g _ | .bind t g _ _ | .arm t g _ _ _
  | .await t g _ _ _ | .wstat t g _ _ _ | .wake t g _ _ | .gate t g _ _ | .cplt t g _ _ _ _ | .pend t g
  | .lds t g _ _ _ _ | .sts t g _ _ _ _ | .ldv t g _ _ _ _ | .stv t g _ _ _ _ | .xload t g _ _ _ _
  | .xstore t g _ _ _ _ | .gather t g _ _ _ _ _ | .vfetch t g _ _ _ _ _ _ | .slst t g _ _ _ _ | .dirwLook t g _ _
  | .dirwInsert t g _ _ | .dirwMap t g _ _ | .dirwFree t g _ _ | .bissue t g _ _ _ _ _ | .txq t g _ _ _ _ _
  | .vadd t g _ _ _ _ _ | .vsub t g _ _ _ _ _ | .vmul t g _ _ _ _ _ | .vfma t g _ _ _ _ | .vmax t g _ _ _ _ _
  | .vmin t g _ _ _ _ _ | .vabs t g _ _ _ _ | .vcmp t g _ _ _ _ _ | .vsel t g _ _ _ _ | .vdiv t g _ _ _ _
  | .vsqrt t g _ _ _ | .vrcp t g _ _ _ | .vrsqrt t g _ _ _ | .vexp2 t g _ _ _ | .vcvt t g _ _ _ _
  | .vq t g _ _ _ _ _ | .vf16up t g _ _ _ | .vs8up t g _ _ _ | .vtree t g _ _ _ _ | .vhmax t g _ _ _ _
  | .vperm t g _ _ _ _ | .vbcast t g _ _ _ | .vext t g _ _ _ | .vand t g _ _ _ _ | .vor t g _ _ _ _
  | .vxor t g _ _ _ _ | .vpop t g _ _ _ _ | .vamx t g _ _ _ | .vamr t g _ _ _ | .vamc t g
  | .mldw t g _ _ _ _ _ _ _ | .mmac t g _ _ _ _ | .mfin t g _ _ _ _ | .mclr t g _ | .mmov t g _ _ _
  | .tsel t g _ _ _ _ _ _ | .tmrg t g _ _ _ _ _ _ | .tthr t g _ _ _ _ _ | .csend t g _ _ => some (t, g)
  | _ => none

/-- LOOP, whose body repeats whatever its guard (R183, R195). -/
def isLoop : Instr → Bool
  | .loop _ _ _ _ _ _ _ _ => true
  | _ => false

/-- Every counter counts what a function gives it, saturating at all ones (R14). -/
def Counts (s u : State) (f : Counter → Nat) : Prop :=
  ∀ c : Counter, (counterOf u c).toNat = min ((counterOf s c).toNat + f c) 4294967295

/-- One counter counts. -/
def only (c : Counter) (n : Nat) : Counter → Nat := fun k => if k = c then n else 0

/-- The tile `t` becomes `x`, the counters count, and nothing else in the node changes. -/
def TileAndCounts (s u : State) (t : Fin 192) (x : Tile) (f : Counter → Nat) : Prop :=
  u = { s with tiles := u.tiles, cnt := u.cnt } ∧ tileOf u t.val = x ∧ (∀ k : Nat, k ≠ t.val → tileOf u k = tileOf s k)
  ∧ Counts s u f

/-- The tile of an instruction that issues becomes what it brings, and nothing else in the node changes. -/
def Brings (s u : State) (t : Fin 192) (g : Guard) (i : Instr) (y : Tile) : Prop :=
  TileBecomes (issued s t g i) u t (settled s t g i y)

/-- As `Brings`, and the counters count. -/
def BringsAndCounts (s u : State) (t : Fin 192) (g : Guard) (i : Instr) (y : Tile) (f : Counter → Nat) : Prop :=
  TileAndCounts (issued s t g i) u t (settled s t g i y) f

/-- An instruction's read of some ranges of its tile's store meets no uncorrectable word (R166): none reported, none known to last. -/
def Clean (s : State) (t : Fin 192) (g : Guard) (i : Instr) (rs : List (Nat × Nat)) : Prop :=
  badWordAt (issued s t g i) (.tile t) rs g.ecc = none

/-- The corrected words that a read of some ranges reports are counted, at most the words they touch (R166, R177). -/
def corrected (g : Guard) (rs : List (Nat × Nat)) : Counter → Nat := only .sramCorr (min g.ecc.corrected (rangeWords rs))

/-- A wake request on one Pod (R198, R463): a gated Pod is due to run at the next tick, or 64 ticks on when its PLL must lock; a Pod
that runs, or has its tick from an earlier wake, keeps on. -/
def woken (tick : Nat) (cold : Bool) (p : Pod) : Pod :=
  if p.wakeAt.isSome = true ∨ p.clk = .running then p
  else if cold then { p with clk := .relocking, wakeAt := some (tick + 64) }
  else if p.clk = .gated then { p with wakeAt := some (tick + 1) }
  else p

/-- The lanes of a vector register that an instruction writes under its mask (R213): lane `i` takes `f i` where its mask bit is
1, and keeps its value elsewhere. -/
def LanesAre (v old : VReg) (m : Word64) (f : Nat → BitVec 32) : Prop :=
  ∀ i : Nat, i < 64 → v.extractLsb' (32 * i) 32 = if m.getLsbD i then f i else old.extractLsb' (32 * i) 32

/-- Lane `i` of a register. -/
def lane (v : VReg) (i : Nat) : BitVec 32 := v.extractLsb' (32 * i) 32

/-- The vector instructions that write V[D] alone under the mask P[C] (R213, R214, R216): tile, guard, D, C, and the value of lane
`i` from the registers as they are read. -/
def vectorLane : Instr → Option (Fin 192 × Guard × Fin 64 × Fin 16 × (Regs → Nat → BitVec 32))
  | .vadd t g d a b m ty => some (t, g, d, m, fun r i =>
      match ty with
      | .f32 => fadd (lane r.v[a] i) (lane r.v[b] i)
      | .i32 => BitVec.ofNat 32 ((lane r.v[a] i).toNat + (lane r.v[b] i).toNat))
  | .vsub t g d a b m ty => some (t, g, d, m, fun r i =>
      match ty with
      | .f32 => fsub (lane r.v[a] i) (lane r.v[b] i)
      | .i32 => BitVec.ofInt 32 ((lane r.v[a] i).toInt - (lane r.v[b] i).toInt))
  | .vmul t g d a b m ty => some (t, g, d, m, fun r i =>
      match ty with
      | .f32 => fmul (lane r.v[a] i) (lane r.v[b] i)
      | .i32 => BitVec.ofNat 32 ((lane r.v[a] i).toNat * (lane r.v[b] i).toNat))
  | .vfma t g d a b m => some (t, g, d, m, fun r i => ffma (lane r.v[a] i) (lane r.v[b] i) (lane r.v[d] i))
  | .vmax t g d a b m ty => some (t, g, d, m, fun r i =>
      match ty with
      | .f32 => fmaxv (lane r.v[a] i) (lane r.v[b] i)
      | .i32 => BitVec.ofInt 32 (max (lane r.v[a] i).toInt (lane r.v[b] i).toInt))
  | .vmin t g d a b m ty => some (t, g, d, m, fun r i =>
      match ty with
      | .f32 => fminv (lane r.v[a] i) (lane r.v[b] i)
      | .i32 => BitVec.ofInt 32 (min (lane r.v[a] i).toInt (lane r.v[b] i).toInt))
  | .vabs t g d a m ty => some (t, g, d, m, fun r i =>
      match ty with
      | .f32 => if fisNaN (lane r.v[a] i) then 0x7FC00000#32 else BitVec.ofNat 32 ((lane r.v[a] i).toNat % 2 ^ 31)
      | .i32 => BitVec.ofNat 32 (lane r.v[a] i).toInt.natAbs)
  | .vdiv t g d a b m => some (t, g, d, m, fun r i => fdiv (lane r.v[a] i) (lane r.v[b] i))
  | .vsqrt t g d a m => some (t, g, d, m, fun r i => fsqrt (lane r.v[a] i))
  | .vrcp t g d a m => some (t, g, d, m, fun r i => fdiv 0x3F800000#32 (lane r.v[a] i))
  | .vrsqrt t g d a m => some (t, g, d, m, fun r i => frsqrt (lane r.v[a] i))
  | .vexp2 t g d a m => some (t, g, d, m, fun r i => fexp2 (lane r.v[a] i))
  | .vs8up t g d a m => some (t, g, d, m, fun r i =>
      if fisNaN (lane r.v[a] i) then 0 else BitVec.ofNat 32 (s8Up (lane r.v[a] i)).toNat)
  | .vtree t g d a m n => some (t, g, d, m, fun r i =>
      if i = 0 then fcanon (fsum ((List.range n.toNat).map (lane r.v[a]))) else 0)
  | .vhmax t g d a m n => some (t, g, d, m, fun r i =>
      if i = 0 then lanesMax ((List.range n.toNat).map (lane r.v[a])) else 0)
  | .vperm t g d a b m => some (t, g, d, m, fun r i => lane r.v[a] ((lane r.v[b] i).toNat % 64))
  | .vbcast t g d a m => some (t, g, d, m, fun r _ => BitVec.ofNat 32 (r.s[a]).toNat)
  | .vand t g d a b m => some (t, g, d, m, fun r i => lane r.v[a] i &&& lane r.v[b] i)
  | .vor t g d a b m => some (t, g, d, m, fun r i => lane r.v[a] i ||| lane r.v[b] i)
  | .vxor t g d a b m => some (t, g, d, m, fun r i => lane r.v[a] i ^^^ lane r.v[b] i)
  | .vpop t g d a b m => some (t, g, d, m, fun r i =>
      BitVec.ofNat 32 (((List.range 32).filter (fun j => (lane r.v[a] i).getLsbD j != (lane r.v[b] i).getLsbD j)).length))
  | _ => none

/-- A group of narrow elements written under a mask (R182, R215): element 64 h + i of width w takes `f i` where its mask bit is 1;
every other element keeps its value. -/
def NarrowAre (v old : VReg) (m : Word64) (w h : Nat) (f : Nat → BitVec w) : Prop :=
  ∀ e : Nat, e < 2048 / w → v.extractLsb' (w * e) w =
    if 64 * h ≤ e ∧ e < 64 * h + 64 ∧ m.getLsbD (64 * e / (2048 / w)) = true then f (e - 64 * h) else old.extractLsb' (w * e) w

/-- What VCVT leaves in V[D] (R215): the wide conversions write 32-bit lanes, the narrow ones a group of D. -/
def Converted (k : Conv) (v old a : VReg) (m : Word64) : Prop :=
  match k with
  | .f16ToF32 h => LanesAre v old m (fun i => f16ToF32 (a.extractLsb' (16 * (64 * h.val + i)) 16))
  | .f32ToF16 h => NarrowAre v old m 16 h.val (fun i => f32ToF16 (lane a i))
  | .e8ToF32 h => LanesAre v old m (fun i => intToF32 (a.extractLsb' (8 * (64 * h.val + i)) 8).toInt)
  | .e4ToF32 h => LanesAre v old m (fun i => intToF32 (a.extractLsb' (4 * (64 * h.val + i)) 4).toInt)
  | .i32ToE8 h => NarrowAre v old m 8 h.val (fun i => BitVec.ofInt 8 (max (-128) (min 127 (lane a i).toInt)))
  | .i32ToE4 h => NarrowAre v old m 4 h.val (fun i => BitVec.ofInt 4 (max (-8) (min 7 (lane a i).toInt)))
  | .f32ToI32 => LanesAre v old m (fun i => f32ToI32 (lane a i))
  | .i32ToF32 => LanesAre v old m (fun i => intToF32 (lane a i).toInt)
  | .s8ToF32 h => LanesAre v old m (fun i => s8ToF32 (a.extractLsb' (8 * (64 * h.val + i)) 8))
  | .b1ToF32 h => LanesAre v old m (fun i => if a.getLsbD (64 * h.val + i) then 0xBF800000#32 else 0x3F800000#32)
  | .f32ToF16Sat h => NarrowAre v old m 16 h.val (fun i => (f32ToF16Sat (lane a i)).1)

/-- The clips of VCVT code 10 (R71, R215): elements written that saturate. -/
def convertClipped (k : Conv) (a : VReg) (m : Word64) : Nat :=
  match k with
  | .f32ToF16Sat h =>
    ((List.range 64).filter (fun i => m.getLsbD (64 * (64 * h.val + i) / 128) && (f32ToF16Sat (lane a i)).2)).length
  | _ => 0

/-- The lanes that a mask writes and a test picks. -/
def countLanes (m : Word64) (p : Nat → Bool) : Nat := ((List.range 64).filter (fun i => m.getLsbD i && p i)).length

/-- Byte `i` of a number, little-endian (R8). -/
def byteOf (n i : Nat) : Byte := BitVec.ofNat 8 (n / 256 ^ i)

/-- The number that `n` bytes of a store from an address spell, little-endian (R8). -/
def storeNat (m : Tab Byte) (a n : Nat) : Nat := ((List.range n).map (fun i => (tget 0 m (a + i)).toNat * 256 ^ i)).sum

/-- A store in which `n` bytes from address `a` are those of `f`, and every other byte is as before. -/
def Stored (m' m : Tab Byte) (a n : Nat) (f : Nat → Byte) : Prop :=
  ∀ k : Nat, tget 0 m' k = if a ≤ k ∧ k < a + n then f (k - a) else tget 0 m k

/-- A tile whose wait object counts `n` elements more as issued (R188). -/
def issuedMore (x : Tile) (w : Fin 64) (n : Nat) : Tile :=
  { x with wait := x.wait.set w { x.wait[w] with issued := x.wait[w].issued + n } }

/-- A tile one of whose elements of wait object `w` was issued and ended REFUSED at once (R189). -/
def refusedOne (x : Tile) (w : Fin 64) : Tile :=
  { x with wait := x.wait.set w { x.wait[w] with issued := x.wait[w].issued + 1, refused := x.wait[w].refused + 1 } }

/-- As `refusedOne`, UNREADABLE. -/
def unreadableOne (x : Tile) (w : Fin 64) : Tile :=
  { x with wait := x.wait.set w { x.wait[w] with issued := x.wait[w].issued + 1, unreadable := x.wait[w].unreadable + 1 } }

/-- As `refusedOne`, ABSENT. -/
def absentOne (x : Tile) (w : Fin 64) : Tile :=
  { x with wait := x.wait.set w { x.wait[w] with issued := x.wait[w].issued + 1, absent := x.wait[w].absent + 1 } }

/-- One element of kind `k` is sent out by tile `t` toward wait object `w` (R188): it is in flight under the next number. -/
def ElementSent (s u : State) (t : Fin 192) (x : Tile) (w : Fin 64) (k : ElemKind) : Prop :=
  u.elems = s.elems ++ [⟨s.nextElem, t, w, k, s.clk.tick, x.srcBound⟩] ∧ u.nextElem = s.nextElem + 1

/-- The tables of tiles agree but for tile `t`, which is `x` in `u`. -/
def TileIs (s u : State) (t : Fin 192) (x : Tile) : Prop :=
  tileOf u t.val = x ∧ ∀ k : Nat, k ≠ t.val → tileOf u k = tileOf s k

/-- As `TileIs`, for what an instruction that issues brings its tile. -/
def BringsTile (s u : State) (t : Fin 192) (g : Guard) (i : Instr) (y : Tile) : Prop :=
  TileIs (issued s t g i) u t (settled s t g i y)

/-- A tile with bytes of its store written: the words written whole lose a lasting error (R166). -/
def withStore (x : Tile) (m : Tab Byte) (a n : Nat) : Tile := { x with store := m, bad := keptBad x.bad a n }

/-- The sum of the products of the codes of two rows of bytes (R89): E4 has two codes in a byte, the lower first. -/
def codeDot (e4 : Bool) (q x : List Byte) : Int :=
  ((List.range (if e4 then 256 else 128)).map (fun i => codeAt e4 q i * codeAt e4 x i)).sum

/-- A row of a bank, neutral where the bank has none (R219). -/
def rowOf (b : Bank) (r : Nat) : List Byte × List Byte := b.rows.getD r (neutralRow b.fmt)

/-! ### Resets and boot -/

/-- What a reset of the whole node leaves (R18, R484): every part of the state is as State.reset gives it, but the always-on domain,
which keeps the seed, the oscillator lock, the straps and the inputs and records the cause; the fabric, whose bypasses close; the
flash parts' block tables; and what is no state of the node, the commands that wait and what has already left it. -/
def AfterReset (s u : State) (c : Cause) : Prop :=
  u = { State.reset with pending := s.pending, free := s.free, io := s.io, aon := u.aon, fab := u.fab, fl := u.fl }
  ∧ u.aon.inReset = true ∧ u.aon.cause = c ∧ u.aon.seed = s.aon.seed ∧ u.aon.oscLocked = s.aon.oscLocked
  ∧ u.aon.flash = s.aon.flash ∧ u.aon.stage = .rom ∧ u.aon.fail = 0 ∧ u.aon.powered = s.aon.powered
  ∧ u.fab = { Fabric.reset with byp := u.fab.byp }
  ∧ (∀ p : Fin 3, u.fab.byp[p] = if s.fab.byp[p] = .closed then .closed else .closing)
  ∧ u.fl = { Flash.reset with blockTab := s.fl.blockTab, retiredCnt := s.fl.retiredCnt }

/-- The node runs: the always-on domain has power and the node is out of reset (R519). -/
def NodeRuns (s : State) : Prop := s.aon.powered = true ∧ s.aon.inReset = false

/-- A source is asserted with a payload (R477): it joins the pending sources with the present tick, unless it is pending already. -/
def Asserted (s u : State) (n : Fin 512) (payload : BitVec 192) : Prop :=
  u.evt.pending =
    if s.evt.pending.any (fun p => p.source == n) then s.evt.pending else s.evt.pending ++ [⟨n, s.clk.tick, payload⟩]

/-- Only the always-on domain changes, and it becomes `a`. -/
def AonBecomes (s u : State) (a : Aon) : Prop := u = { s with aon := a }

/-- The boot ROM's checks (R487 to R496): each of the records 1 to 5 is present exactly once and accepted, VARIANT and REPAIR are
legal, the PUF or the sealed seed gives the key that the certificate names, and a firmware record is accepted. -/
def RomAccepts (s : State) (puf1 puf2 : List Byte) (seed : BitVec 256) (dev : BitVec 128) (slot : Bool) (fw : List Byte) : Prop :=
  ∃ v rep trim helper cert : List Byte,
    onlyRec s 1 = some v ∧ onlyRec s 2 = some rep ∧ onlyRec s 3 = some trim ∧ onlyRec s 4 = some helper ∧ onlyRec s 5 = some cert
    ∧ seedFor s puf1 puf2 (recBody helper) = some seed ∧ dev = deviceIdOf (edPublic (secretOf seed))
    ∧ recAccepted dev 1 v = true ∧ recAccepted dev 2 rep = true ∧ recAccepted dev 3 trim = true ∧ recAccepted dev 4 helper = true
    ∧ recAccepted dev 5 cert = true ∧ variantOk (recBody v) = true ∧ repairOk (recBody rep) = true
    ∧ certKey (recBody cert) = some (edPublic (secretOf seed)) ∧ chooseFw s dev = some (slot, fw)

/-! ### Beans and memory -/

/-- Of the whole node only Bean `b` changes, and it becomes `x`. -/
def BeanBecomes (s u : State) (b : Fin 6144) (x : Bean) : Prop :=
  u = { s with stk := { s.stk with beans := u.stk.beans } } ∧ beanOf u b.val = x ∧ ∀ k : Nat, k ≠ b.val → beanOf u k = beanOf s k

/-- Bean `b` can be sent commands: its stack is awake and its pseudo-channel is not held (R147, R502). -/
def Awake (s : State) (b : Fin 6144) : Prop :=
  s.stk.selfRef.getLsbD (b.val % 8) = false ∧ (pcTrainOf s (pcOfBean b.val)).held = false

/-- The state with the command taken that the Bean's list has due as its next (R208), if one is. -/
def unqueued (s : State) (b : Fin 6144) (op : BeanOp) : State :=
  match queuedFor s b.val op with
  | some q => dropQueued s q
  | none => s

/-- The word and the data that a command carries: those of the Bean's list when it has the command due, else those given. -/
def dueWord (s : State) (b : Fin 6144) (op : BeanOp) (w : BeanWord) : BeanWord := ((queuedFor s b.val op).map (·.w)).getD w

def dueData (s : State) (b : Fin 6144) (op : BeanOp) (d : List Byte) : List Byte := ((queuedFor s b.val op).map (·.data)).getD d

/-- When the command is issued, in ns: as its list books it, else as the present tick starts. -/
def dueAt (s : State) (b : Fin 6144) (op : BeanOp) : Nat := ((queuedFor s b.val op).map bookedAt).getD (640 * s.clk.tick)

/-- Whether a request refused at its phase withholds the command (R271). -/
def dueRefused (s : State) (b : Fin 6144) (op : BeanOp) : Bool := ((queuedFor s b.val op).map (·.refused)).getD false

/-- A Bean is free for a booked command: in use, idle and past its access gap at `at_` ns, no retry due, no urgent refresh (R140, R142,
R144, R152). -/
def BeanFree (s : State) (b : Fin 6144) (at_ : Nat) : Prop :=
  s.stk.beanOut.getLsbD b.val = false ∧ s.stk.urgent.getLsbD b.val = false ∧ (beanOf s b.val).run = none ∧
  (beanOf s b.val).gapEnd ≤ at_

/-- A buffer of `size` bytes whose first `n` bytes are new (R128). -/
def Columns (new old data : List Byte) (size n : Nat) : Prop :=
  new.length = size ∧ ∀ i : Nat, i < size → new.getD i 0 = if i < n then data.getD i 0 else old.getD i 0

/-- The slots that a BSCAN looks at, row by row (R131): the pair row, the slot and its record. -/
def scanSlots (s : State) (b : Fin 6144) (x : Bean) (w : BeanWord) (odd : List (Nat × Burst)) : List (Nat × Nat × List Byte) :=
  let p := paramOf x.param
  (List.range w.nrows.toNat).flatMap (fun i => (List.range (slotsPerRow p.recSize)).map (fun j =>
    (w.pairRow.toNat + i, j, beanRead s odd (rowAddr b.val (w.pairRow.toNat + i) + 16 * p.recSize * j) (16 * p.recSize))))

/-- The live records of a scan that its exclusion list does not name (R131 steps 3 and 4). -/
def scanLive (s : State) (b : Fin 6144) (x : Bean) (w : BeanWord) (odd : List (Nat × Burst)) : List (List Byte) :=
  ((scanSlots s b x w odd).filter (fun r => (headerOf r.2.2).live && !(exclusionOf x.excl).contains (r.1, r.2.1))).map (·.2.2)

/-- The well-formed ones among them. -/
def scanGood (s : State) (b : Fin 6144) (x : Bean) (w : BeanWord) (odd : List (Nat × Burst)) : List (List Byte) :=
  let p := paramOf x.param
  (scanLive s b x w odd).filter (fun r => !recordBad p.fmt p.dim p.tailCap r)

/-- The score of a record under a Bean's query (R97). -/
def scoreOf (x : Bean) (r : List Byte) : F32 := (codeScore (paramOf x.param) x.qbuf (slice x.param 32 32) r).1

/-- The candidates that a scan keeps: those whose score reaches THETA (R131 steps 5 and 6). -/
def scanKept (s : State) (b : Fin 6144) (x : Bean) (w : BeanWord) (odd : List (Nat × Burst)) : List (BitVec 128) :=
  let p := paramOf x.param
  ((scanGood s b x w odd).filter (fun r => fle p.theta (scoreOf x r))).map (fun r =>
    BitVec.ofNat 128 (candNat (scanCand p (headerOf r) (scoreOf x r))))

/-- A Bean as a BSCAN finds it: with NEW its list and completion word start afresh (R130). -/
def scanStart (x : Bean) (w : BeanWord) : Bean := if w.new then { clearGroup x with tag := w.tag } else x

/-- Only the stacks' state changes beside memory and counters. -/
def StacksOnly (s u : State) : Prop := u = { s with mem := u.mem, raw := u.raw, stk := u.stk, cnt := u.cnt }

/-! ### Updates and tiers -/

/-- Only one change entry differs, and it becomes `x`; `s` may have changed elsewhere only where `u` says so. -/
def EntryIs (s u : State) (k : Nat) (x : Chg) : Prop := chgOf u k = x ∧ ∀ j : Nat, j ≠ k → chgOf u j = chgOf s j

/-- A byte of a shard copy's directory. -/
def inDirectory (c : ShardCopy) (a : Nat) : Prop := c.dirBase * 1024 ≤ a ∧ a < (c.dirBase + 2 ^ c.dirLog2) * 1024

/-- A byte of its spill table. -/
def inSpillTable (c : ShardCopy) (a : Nat) : Prop := c.spillBase * 1024 ≤ a ∧ a < (c.spillBase + 2 ^ c.spillLog2) * 1024

/-- A byte of one of its partition descriptors. -/
def inPartitions (c : ShardCopy) (a : Nat) : Prop := ∃ p : Nat, p < c.partCount ∧ c.partBase * 1024 + 32 * p ≤ a ∧ a < c.partBase * 1024 + 32 * p + 32

/-- A byte of the record slot that a location names. -/
def inSlot (c : ShardCopy) (size : Nat) (loc : BitVec 28) (a : Nat) : Prop := locAddr c size loc ≤ a ∧ a < locAddr c size loc + 16 * size

/-! ### The text unit -/

/-- The request at the front of the text unit's queue is of an operation, ends in this tick, may use its sequence context, finds it and
its image in order, and its element is in flight (R344 to R346, R359): the request, the rest of the queue, the context as it finds it, the image. -/
def TextReady (s : State) (op : Nat) (r : TextReq) (rest : List TextReq) (e : Elem) (q : Seq) (img : List Byte) : Prop :=
  let d := textDescOf r.desc.toNat
  s.txt.queue = r :: rest ∧ d.op = op ∧ textDue s r = true ∧ elemOf s r.id = some e ∧ e.kind = .txq r.id ∧
  ∃ (k : Fin 1024) (tk : Nat), r.bound = some (k, tk) ∧
    (if d.start then q = { Seq.reset with bound := some (k, tk, op) } else q = seqOf s d.sq ∧ q.bound = some (k, tk, op)) ∧
    q.failed = false ∧ (imageFor s.txt.slots[d.slot] tk = (img, .ready) ∨ imageFor s.txt.slots[d.slot] tk = (img, .held))

/-- The unit has served the front request (R345, R346, R348): its context becomes `q`, unbound where FINAL; the answer's bytes land in the
output area and the element gets its status, or is LATE after its deadline tick; nothing else of tiles and the text unit changes. -/
def TextServed (s u : State) (r : TextReq) (rest : List TextReq) (e : Elem) (q : Seq) (ans : List Byte) (st : ElemStatus) : Prop :=
  let d := textDescOf r.desc.toNat
  let x := tileOf s e.tile.val
  let y := tileOf u e.tile.val
  u.txt = { s.txt with queue := rest, seqs := u.txt.seqs, freeAt := textEndOf s r } ∧
  seqOf u d.sq = { q with bound := if d.final then none else q.bound } ∧
  (∀ k : Nat, k ≠ d.sq → seqOf u k = seqOf s k) ∧
  u.elems = s.elems.filter (fun z => z.id != e.id) ∧ (∀ k : Nat, k ≠ e.tile.val → tileOf u k = tileOf s k) ∧ u.mem = s.mem ∧
  (s.clk.tick ≤ (x.wait[e.wait]).dl →
    y = { withStore x y.store r.out ans.length with wait := x.wait.set e.wait (countStatus x.wait[e.wait] st) } ∧
    Stored y.store x.store r.out ans.length (fun i => ans.getD i 0))
  ∧ ((x.wait[e.wait]).dl < s.clk.tick → y = { x with wait := x.wait.set e.wait (countStatus x.wait[e.wait] .late) })

/-- The fields of a result header (R348): STATUS, TRUNC, BADUTF8, STOPPED, ACCEPT, DEAD, END, BADTOKEN, STOP, CARRY, COUNT, GSTATE. -/
structure TextHead where
  status : Nat
  trunc : Bool
  badUtf8 : Bool
  stopped : Bool
  accept : Bool
  dead : Bool
  ended : Bool
  badToken : Bool
  stop : Nat
  carry : Nat
  count : Nat
  gstate : Nat
deriving DecidableEq, Repr

/-- The header that the first 16 bytes of an answer spell (R348). -/
def textHeadOf (ans : List Byte) : TextHead :=
  let n := leAt ans 0 16
  ⟨bitsOf n 72 8, bitOf n 64, bitOf n 65, bitOf n 66, bitOf n 67, bitOf n 68, bitOf n 69, bitOf n 70, bitsOf n 80 4, bitsOf n 84 7,
    bitsOf n 91 17, bitsOf n 108 20⟩

/-! ### The machine -/

/-- A frame of a type for a node waits at a port (R365, R382): the first cell's header says so. -/
def FrameFor (f : OutFrame) (p : Fin 6) (type : Nat) (dest : NodeId) : Prop :=
  f.port = p ∧ f.party = partyOfType type ∧ f.resent = false ∧ (cellHeadOf (f.cells.headD [])).type = type ∧
    (cellHeadOf (f.cells.headD [])).dest = dest


/-! ### The host interface -/

/-- Of the whole node only function `fn` changes, and it becomes `f`. -/
def FuncBecomes (s u : State) (fn : Nat) (f : Func) : Prop :=
  u = { s with funcs := u.funcs } ∧ funcOf u fn = f ∧ ∀ k : Nat, k ≠ fn → funcOf u k = funcOf s k

/-- A write is rejected with a status (R13, R435): WRITE_STATUS of the function names the first such write, MORE says that others came, and
nothing else changes. -/
def Rejected (s u : State) (fn off : Nat) (st : BitVec 8) : Prop :=
  FuncBecomes s u fn (let f := funcOf s fn
    { f with ws := if f.ws.valid then { f.ws with more := true } else ⟨true, false, st, BitVec.ofNat 32 off⟩ })

/-- The offset of a queue register in its function's space (R432, R438). -/
def queueOff (fn rel : Nat) : Nat := if fn = 0 then 0x20000 + rel else rel

/-! ### The mailbox -/

/-- The mailbox runs a command (R456, R457): its opcode, context, arguments, address and length, its reserved bits zero. -/
def Asked (s : State) (op : Nat) (ctx : CtxId) (a0 a1 addr len : Nat) : Prop :=
  s.host.mbx.busy = true ∧ mbxCmd s = ⟨addr, len, a0, a1, ctx, op, false⟩

/-- `t` with the mailbox's answer (R456): BUSY is clear, STATUS and REPLY hold what the command answers. -/
def answered (t : State) (st : BitVec 8) (reply : List (BitVec 64)) : State :=
  { t with host := { t.host with mbx := { t.host.mbx with busy := false, held := false, status := st, reply := reply } } }

/-- Four zero reply words. -/
def zero4 : List (BitVec 64) := [0, 0, 0, 0]

/-- Only context `c` changes beside the mailbox's answer DONE: it becomes `x`. -/
def CtxDone (s u : State) (c : CtxId) (x : Ctx) : Prop :=
  u = answered { s with ctxs := u.ctxs } 0x00 zero4 ∧ ctxOf u c.toNat = x ∧ ∀ k : Nat, k ≠ c.toNat → ctxOf u k = ctxOf s k

/-! ### Numbers, rank and memory -/

/-- The bits of a finite F32 number (R60). -/
def IsFinite (x : F32) : Prop := x.toNat % 2 ^ 31 < 0x7F800000

/-- The value of a finite F32 number (R60): sign, and fraction over the exponent, subnormals below 2^-126. -/
def fval (x : F32) : ℚ :=
  (if x.getLsbD 31 then -1 else 1) *
    (if x.toNat / 2 ^ 23 % 256 = 0 then (x.toNat % 2 ^ 23 : ℕ) * (2 : ℚ) ^ (-149 : ℤ)
     else (2 ^ 23 + x.toNat % 2 ^ 23 : ℕ) * (2 : ℚ) ^ ((x.toNat / 2 ^ 23 % 256 : ℕ) - 150 : ℤ))

/-- A finite number nearest a real one, and of two that are as near the one whose last bit is 0 (R61). -/
def Nearest (c : F32) (v : ℝ) : Prop :=
  IsFinite c ∧ ∀ d : F32, IsFinite d → |(fval c : ℝ) - v| ≤ |(fval d : ℝ) - v| ∧
    (|(fval c : ℝ) - v| = |(fval d : ℝ) - v| → fval c = fval d ∨ c.getLsbD 0 = false)

/-- Where rounding to nearest, ties to even, leaves the finite numbers (R60, R61). -/
def overflowAt : ℚ := (2 - 1 / 2 ^ 24) * 2 ^ 127

/-- An exact result rounded once (R61): to the nearest finite number, and beyond the largest to an infinity. -/
def Rounded (c : F32) (v : ℝ) : Prop :=
  (|v| < overflowAt → Nearest c v) ∧ (overflowAt ≤ v → c = 0x7F800000#32) ∧ (v ≤ -overflowAt → c = 0xFF800000#32)

/-- A NaN by its bits (R60). -/
def IsNaN (x : F32) : Prop := 0x7F800000 < x.toNat % 2 ^ 31

/-- Version a is newer than b (R32). -/
def Newer (a b : BitVec 24) : Prop :=
  (1 ≤ (a - b).toNat ∧ (a - b).toNat < 2 ^ 23) ∨ ((a - b).toNat = 2 ^ 23 ∧ b.toNat < a.toNat)

/-- Of two different entries the first ranks ahead: the first of the six comparisons of R234 that differs favours it. -/
def Ahead (a b : Cand) : Prop :=
  selKey b < selKey a ∨ (selKey a = selKey b ∧
    (a.handle.toNat < b.handle.toNat ∨ (a.handle = b.handle ∧
      (Newer a.version b.version ∨ (a.version = b.version ∧
        (a.flags < b.flags ∨ (a.flags = b.flags ∧
          (a.shardLo < b.shardLo ∨ (a.shardLo = b.shardLo ∧ a.score.toNat < b.score.toNat)))))))))

/-- What a read of flash that ends with an image leaves (R306, R326, R327, R334): the read is gone; a codeword read for a fold or for
die parity changes nothing else; a promotion's copy lies in its hot slot with its trailer and has landed; a relocation's image begins an
assembly buffer; an element of a plan has its image in the tile's store by the end of the deadline tick, and is queued for promotion. -/
def Delivered (t u : State) (r : FRead) (img : List Byte) : Prop :=
  readOf u r.id = none ∧
  (let rs := t.fl.reads.filter (fun y => y.id != r.id)
   ((r.why = .fold ∨ ∃ k, r.why = .stripe k) → u = { t with fl := { t.fl with reads := rs, chanLow := u.fl.chanLow } })
   ∧ (∀ (k : Nat) (m : Mig), r.why = .promotion k → migOf t k = some m → t.raw = [] → (∀ kv ∈ t.stk.pcs, kv.2.dead = false) →
      u = { t with mem := u.mem, upd := u.upd, fl := { t.fl with reads := rs, chanLow := u.fl.chanLow } } ∧
      migOf u k = some { m with landed := true, landTick := t.clk.tick } ∧
      Stored u.mem t.mem (32 * m.dst) (img.length + 32) (fun i => (img ++ leBytes 5 m.src ++ List.replicate 27 0).getD i 0))
   ∧ (∀ (k : Nat) (m : Mig), r.why = .relocation k → migOf t k = some m → t.fl.packs = [] → 2 ≤ imagesPerCw img.length →
      u = { t with fl := { t.fl with reads := rs, packs := [⟨m.ctx, t.clk.tick, [m.id], img, true, false⟩], chanLow := u.fl.chanLow } })
   ∧ (∀ (k i dst n : Nat) (e : Elem), r.why = .elem k → elemOf t k = some e → e.kind = .fetchFlash i dst n →
      (let x := tileOf t e.tile.val
       let y := tileOf u e.tile.val
       let o := x.wait[e.wait]
       t.clk.tick ≤ o.dl → imageRight (ctxOf t r.ctx.toNat) r.item r.version img = true →
       u.mem = t.mem ∧ elemOf u k = none ∧ Stored y.store x.store dst img.length (fun j => img.getD j 0) ∧
       y = { withStore x y.store dst img.length with
         wait := x.wait.set e.wait { o with arrived := o.arrived + 1 }, fwin := setSlot x.fwin i .arrived } ∧
       ((ctxOf t r.ctx.toNat).tierChange = none → t.upd.promoteQ.length < 1024 →
         u.upd.promoteQ = t.upd.promoteQ ++ [(r.ctx, r.item, r.addr)]))))

/-- A node as it stands when a flash read is about to deliver its image: its buses, LUNs, segments and retirement queue, and a count. -/
def ReadCounted (s t : State) (c : Counter) : Prop :=
  t = { s with fl := { s.fl with segs := t.fl.segs, luns := t.fl.luns, busRr := t.fl.busRr, retireQ := t.fl.retireQ }, cnt := t.cnt } ∧
  Counts s t (only c 1)

end Claims

end Sys2Proof
end

