-- ==== Sys2Proof/Certificates/Slice0/Obligations.lean ====
section
/-! DEFINITION. The statements for the provers. -/

open Sys2Proof Sys2Proof.Machine Sys2Proof.Claims

/-- A step runs the command at the front of the queue on the state with the queue's rest. -/
def Obligations.StepRunsFront : Prop :=
  ∀ (c : Instr) (s : State), step (s.withFront c) = exec c s

/-- What a step answers: a next state always; with an empty queue the node idles (the model's choice, log 8), and otherwise the
queue loses its front command and no other. -/
def Obligations.StepAnswers : Prop :=
  (∀ s : State, Safety.Runs s)
  ∧ (∀ s : State, s.pending = [] → step s = .next s)
  ∧ (∀ (s u : State) (c : Instr) (rest : List Instr), s.pending = c :: rest → step s = .next u → u.pending = rest)

/-- The machine right after reset: the registers for which the spec gives a reset value hold it, both invariants hold, no
command waits and the node is held in reset. That the state after reset is that of POWER_ON is the model's reading (log 1). -/
def Obligations.ResetValues : Prop :=
  (let s := State.reset
   Safety.P0Ones s ∧ Memory.wf s.mem = true ∧ s.pending = [] ∧ s.aon.inReset = true ∧ s.aon.cause = .powerOn ∧ s.aon.stage = .rom ∧
   s.clk.tick = 0 ∧ (∀ c : Counter, counterOf s c = 0) ∧
   (∀ f : Nat, (funcOf s f).phase = true ∧ (funcOf s f).en = false ∧ (funcOf s f).sqTail = 0 ∧ (funcOf s f).cqHead = 0) ∧
   s.host.admMode = 1 ∧ s.host.admOver = 16 ∧ s.stk.memRetryMax = 64 ∧ s.fab.fence = 7 ∧
   (∀ p : Fin 6, s.fab.ports[p].retryMax = 64 ∧ s.fab.ports[p].state = .down) ∧ (∀ p : Fin 3, s.fab.byp[p] = .closed) ∧
   s.fl.slcPct = 4 ∧ s.fl.wInv = 128 ∧ s.fl.wAge = 16 ∧ s.fl.wWear = 32 ∧ s.fl.ageShift = 20 ∧ s.fl.gcLow = 16 ∧
   s.fl.packWait = 32 ∧ s.pool.rows = 4194304 ∧ s.pow.shed = 0 ∧ s.pow.calm = 0 ∧ s.evt.phase = true ∧ s.evt.seq = 0 ∧
   (∀ n : Fin 512, srcOf s n = 0x0F) ∧ s.mach.role = .none_ ∧ s.plan.active = none)

/-- Every tile instruction has a word, and words of the spec's own spell what it says (R179, R180): the two of its worked
example, one of each slot written out from its row's fields, and a reserved opcode, a NOP with a bit set and an index beyond
its file spell nothing. -/
def Obligations.SlotExamples : Prop :=
  (∀ (i : Instr) (t : Fin 192) (g : Guard), tileInstr i = some (t, g) → (encodeSlot i).isSome = true)
  ∧ ∀ (t : Fin 192) (h : Guard),
    (let g : Guard := { h with gp := 0, gn := false }
     decodeSlot 0 t h 0x10028A0000000080 = some (.addi t g 5 5 128)
     ∧ decodeSlot 3 t h 0x0800020000000003 = some (.mmac t g 0 1 1 true)
     ∧ decodeSlot 1 t h (0x01 * 2 ^ 58 + 7 * 2 ^ 47 + 3 * 2 ^ 41 + 2 * 2 ^ 25 + 16) = some (.lds t g 7 3 2 16)
     ∧ decodeSlot 2 t h (0x01 * 2 ^ 58 + 9 * 2 ^ 47 + 1 * 2 ^ 41 + 2 * 2 ^ 35 + 4 * 2 ^ 29 + 1) = some (.vadd t g 9 1 2 4 .i32)
     ∧ decodeSlot 0 t h (0x02 * 2 ^ 58 + 6 * 2 ^ 54 + 2 ^ 53 + 5 * 2 ^ 47 + 0xABCD) = some (.seth t { g with gp := 6, gn := true } 5 0xABCD)
     ∧ (∀ k : Fin 4, decodeSlot k t h 0 = some (.nop t g) ∧ decodeSlot k t h 1 = none ∧
          decodeSlot k t h (0x3F * 2 ^ 58) = none)
     ∧ decodeSlot 0 t h (0x03 * 2 ^ 58 + 32 * 2 ^ 47) = none)

/-- Decoding the word of a well-formed tile instruction gives the instruction back, every operand at every value that the
encoding admits (R178 to R180, R192, R200, R213, R215, R217); what a slot word does not hold, the reports of the memories,
is cleared. -/
def Obligations.SlotRoundTrip : Prop :=
  ∀ (i : Instr) (t : Fin 192) (g : Guard) (k : Fin 4) (w : Nat), i.wellFormed = true → tileInstr i = some (t, g) →
    encodeSlot i = some (k, w) → w < 2 ^ 64 ∧ decodeSlot k t g w = some (bareInstr i)

/-- P0 of every tile reads all ones after every step that answers a next state, if it did before (R182). -/
def Obligations.P0Kept : Prop :=
  ∀ s u : State, Safety.P0Ones s → step s = .next u → Safety.P0Ones u

/-- Node memory keeps its canonical form in every step that answers a next state: addresses strictly rising, and no entry equal
to what an unlisted address reads as (the form is the model's own, and so is what an unlisted address reads as: log 7). -/
def Obligations.MemoryKept : Prop :=
  ∀ s u : State, Memory.wf s.mem = true → step s = .next u → Memory.wf u.mem = true

/-- F32 arithmetic (R61, R63, R214): sums, differences, products, fused products, quotients, square roots and their reciprocals
of finite numbers are the exact results rounded once to nearest, ties to even, subnormals kept; an operand that is a NaN
gives the canonical NaN. -/
def Obligations.Arithmetic : Prop :=
  (∀ a b c : F32, IsFinite a → IsFinite b → IsFinite c →
    Rounded (fadd a b) (fval a + fval b : ℚ) ∧ Rounded (fsub a b) (fval a - fval b : ℚ) ∧ Rounded (fmul a b) (fval a * fval b : ℚ) ∧
    Rounded (ffma a b c) (fval a * fval b + fval c : ℚ) ∧ (fval b ≠ 0 → Rounded (fdiv a b) (fval a / fval b : ℚ)) ∧
    (0 ≤ fval a → Rounded (fsqrt a) (√(fval a : ℝ))) ∧ (0 < fval a → Rounded (frsqrt a) (1 / √(fval a : ℝ))))
  ∧ (∀ a b c : F32, IsNaN a ∨ IsNaN b →
    fadd a b = 0x7FC00000#32 ∧ fsub a b = 0x7FC00000#32 ∧ fmul a b = 0x7FC00000#32 ∧ fdiv a b = 0x7FC00000#32 ∧
    fmaxv a b = 0x7FC00000#32 ∧ fminv a b = 0x7FC00000#32 ∧ ffma a b c = 0x7FC00000#32 ∧ ffma c a b = 0x7FC00000#32)
  ∧ (∀ a : F32, IsNaN a → fsqrt a = 0x7FC00000#32 ∧ frsqrt a = 0x7FC00000#32 ∧ fexp2 a = 0x7FC00000#32)
  ∧ (∀ a : F32, IsFinite a → fval a < 0 → fsqrt a = 0x7FC00000#32 ∧ frsqrt a = 0x7FC00000#32)

/-- Every scalar instruction that writes S[D] alone completes with the value of R192 in S[D]: arithmetic wraps, a shift amount
is taken modulo 64, and nothing else in the node changes. CMP, CMPI, PLOG and PFROMS complete with P[PD] as R192 and R193
state it, bit by bit; a write to P0 is lost (R182), and nothing else in the node changes. NOP, BR, PEND, ARM, WSTAT, SLST,
VEXT, VAMC and MCLR complete with the tile that their rows state, and nothing else in the node changes. No tile instruction
traps: in every state it answers a next state (R194). -/
def Obligations.ScalarSlot : Prop :=
  (∀ (i : Instr) (t : Fin 192) (g : Guard) (d : Fin 32) (f : Regs → Word64) (s : State),
     scalarResult i = some (t, g, d, f) → Executes s t g i →
     ∃ u, exec i s = .next u ∧ Brings s u t g i (withS (tileAt s t g i) d (f (tileAt s t g i).src)))
  ∧ (∀ (i : Instr) (t : Fin 192) (g : Guard) (pd : Fin 16) (f : Regs → Nat → Prop) (s : State),
       predicateBit i = some (t, g, pd, f) → Executes s t g i →
       ∃ (u : State) (v : Word64), exec i s = .next u ∧ (∀ k : Nat, k < 64 → (v.getLsbD k = true ↔ f (tileAt s t g i).src k))
         ∧ Brings s u t g i (withP (tileAt s t g i) pd v))
  ∧ (∀ (i : Instr) (t : Fin 192) (g : Guard) (f : Tile → Tile) (s : State),
       tileChange i = some (t, g, f) → Executes s t g i →
       ∃ u, exec i s = .next u ∧ Brings s u t g i (f (tileAt s t g i)))
  ∧ (∀ (i : Instr) (t : Fin 192) (g : Guard) (s : State), tileInstr i = some (t, g) → ∃ u, exec i s = .next u)

/-- RDSP completes with the special value of R186 in S[D], and nothing else in the node changes. CYCLE is the number within its
tick of the cycle in which the bundle issued. LOOP starts its level: BODY bundles after it, MAXTRIP times, ACT the lesser of
S[A] and MAXTRIP, its register writes off where its guard is false (R183, R195). AWAIT issued up to its deadline holds the
tile to the tick after it, and one issued later answers the ARRIVED count and whether it is ISSUED + EXP (R190). BIND binds
the tile to the request of slot S[A], or to none (R197). Nothing else in the node changes. The first bundle of an iteration
of a loop whose guard was true finds j in S[D], and P[PD] all ones while j < ACT and all zeros after (R195), unless an
earlier instruction's result to the register is still to come (R184): a NOP that begins it shows the registers. Results to
registers (R184): with no earlier result still to come, what an instruction brings its tile is what the tile becomes, but
for the note of when each result becomes visible; of two results to one register the one that becomes visible later stands. -/
def Obligations.LoopsAndSpecials : Prop :=
  (∀ (t : Fin 192) (g : Guard) (d : Fin 32) (x : Special) (s : State),
     (let i : Instr := .rdsp t g d x
      let y := tileAt s t g i
      Executes s t g i →
      ∃ (u : State) (v : Word64), exec i s = .next u ∧ Brings s u t g i (withS y d v) ∧
       (match x with
        | .tickNow => v = BitVec.ofNat 64 s.clk.tick
        | .phaseTick => v = BitVec.ofNat 64 y.phaseTick
        | .cycle => v.toNat = y.cyc % (if s.aon.clockClass = 0 then 2112 else if s.aon.clockClass = 1 then 1792 else 1536)
        | .tile => v.toNat = t.val
        | .nodeId => v.toNat = s.aon.nodeId.toNat
        | .cyclesPerTick =>
          v.toNat = if s.aon.clockClass = 0 then 2112 else if s.aon.clockClass = 1 then 1792 else 1536
        | .boundReq =>
          (∀ (k : Fin 1024) (a : Adm), y.srcBound = some k → admOf s k.val = some a → v.toNat = k.val)
          ∧ (y.srcBound = none → v.getLsbD 63 = true)
        | .boundCtx =>
          (∀ (k : Fin 1024) (a : Adm), y.srcBound = some k → admOf s k.val = some a → v.toNat = a.req.ctx.toNat)
          ∧ (y.srcBound = none → v = BitVec.allOnes 64)
        | .snapshot =>
          (∀ (k : Fin 1024) (a : Adm), y.srcBound = some k → admOf s k.val = some a → v = BitVec.ofNat 64 a.t)
          ∧ (y.srcBound = none → v = 0))))
  ∧ ((∀ (t : Fin 192) (g : Guard) (d a : Fin 32) (pd : Fin 16) (l : Fin 4) (body : BitVec 11) (trip : BitVec 12) (s : State),
       (let i : Instr := .loop t g d a pd l body trip
        let x := tileAt s t g i
        let y : LoopLevel := ⟨true, x.cur + 1, x.cur + body.toNat, trip.toNat, 0, min (x.src.s[a]).toNat trip.toNat, d, pd,
          guardHolds x.src.p g⟩
        mayIssue s t g i = true → ∃ u, exec i s = .next u ∧ Brings s u t g i { x with loops := x.loops.set l y }))
     ∧ (∀ (t : Fin 192) (g : Guard) (d : Fin 32) (pd : Fin 16) (w : Fin 64) (s : State),
       (let i : Instr := .await t g d pd w
        let x := tileAt s t g i
        let o := x.wait[w]
        Executes s t g i →
        ∃ u, exec i s = .next u ∧
          (s.clk.tick ≤ o.dl → Brings s u t g i { x with stall := o.dl + 1, awaiting := some (d, pd, w) })
          ∧ (o.dl < s.clk.tick → x.awaiting = none →
              Brings s u t g i (withP (withS x d (BitVec.ofNat 64 o.arrived)) pd (status (o.arrived = o.issued + o.exp))))))
     ∧ (∀ (t : Fin 192) (g : Guard) (pd : Fin 16) (a : Fin 32) (s : State),
       (let i : Instr := .bind t g pd a
        let x := tileAt s t g i
        let v := (x.src.s[a]).toNat
        Executes s t g i →
        ∃ u, exec i s = .next u ∧
          (∀ k : Fin 1024, v = k.val → (admOf s k.val).isSome = true →
             Brings s u t g i (withP { x with bound := some k } pd (status True)))
          ∧ ((1024 ≤ v ∨ admOf s v = none) → Brings s u t g i (withP { x with bound := none } pd (status False))))))
  ∧ (∀ (t : Fin 192) (s : State) (l : Fin 4) (x : LoopLevel) (g : Guard),
       (let y := tileOf s t.val
        mayIssue s t g (.nop t g) = true → g.first = true → y.loops[l] = x → x.live = true → x.on = true → x.first = y.next →
        (∀ k : Fin 4, k ≠ l → (y.loops[k]).live = false) → x.pd ≠ 0 →
        tget 0 y.due (regKey (.s x.d.val)) ≤ nextCycle s y → tget 0 y.due (regKey (.p x.pd.val)) ≤ nextCycle s y →
        ∃ u, exec (.nop t g) s = .next u ∧
         ((tileOf u t.val).src.s[x.d]).toNat = x.j % 2 ^ 64 ∧
         (tileOf u t.val).src.p[x.pd] = status (x.j < x.act) ∧
         (tileOf u t.val).cur = y.next))
  ∧ ((∀ (s : State) (t : Fin 192) (g : Guard) (i : Instr) (y : Tile),
       (∀ k : Nat, tget 0 (tileAt s t g i).due k ≤ (tileAt s t g i).cyc) →
       settled s t g i y = { y with due := (settled s t g i y).due })
     ∧ (∀ (cyc n : Nat) (x y : Tile) (d : Fin 32),
       (landed cyc x y [(.s d.val, n)]).regs.s[d] = if cyc + n < tget 0 x.due d.val then x.regs.s[d] else y.regs.s[d])
     ∧ (∀ (cyc n : Nat) (x y : Tile) (d : Fin 64),
       (landed cyc x y [(.v d.val, n)]).regs.v[d] = if cyc + n < tget 0 x.due (48 + d.val) then x.regs.v[d] else y.regs.v[d]))

/-- WAKE and GATE complete (R198): WAKE gives each Pod that X names its tick, unless it runs or has one, and GATE asks each to
stop at the end of the tick; no other Pod changes, and nothing else in the node. Wakes (R274, R463): a phase's warm Pods are
asked for one tick before it starts and its cold Pods 64 ticks before, for every opportunity; a Pod asked for runs at the
tick its wake names, and no other part of the node changes. -/
def Obligations.PodClocks : Prop :=
  ((∀ (t : Fin 192) (g : Guard) (m : BitVec 8) (cold : Bool) (s : State),
     (let i : Instr := .wake t g m cold
      let v := issued s t g i
      Executes s t g i →
      ∃ u, exec i s = .next u ∧ u = { v with tiles := u.tiles, pods := u.pods } ∧ BringsTile s u t g i (tileAt s t g i) ∧
       ∀ p : Fin 8, podOf u p.val = if m.getLsbD p.val then woken s.clk.tick cold (podOf s p.val) else podOf s p.val))
   ∧ (∀ (t : Fin 192) (g : Guard) (m : BitVec 8) (off : Bool) (s : State),
     (let i : Instr := .gate t g m off
      let v := issued s t g i
      Executes s t g i →
      ∃ u, exec i s = .next u ∧ u = { v with tiles := u.tiles, pods := u.pods } ∧ BringsTile s u t g i (tileAt s t g i) ∧
       ∀ p : Fin 8, podOf u p.val = if m.getLsbD p.val then { podOf s p.val with gateAsked := some off } else podOf s p.val)))
  ∧ ((∀ (pipe : Fin 63) (phase : Fin 255) (cold : Bool) (s : State) (p : Plan) (q : Pipe) (h : Phase),
       s.plan.active = some p → p.pipes[pipe.val]? = some q → phase.val < q.phaseNum → p.phases[q.phaseFirst + phase.val]? = some h →
       (let now := s.clk.tick + (if cold then 64 else 1)
        let mask (k : Nat) : Bool := if cold then h.coldMask.getLsbD k else h.podMask.getLsbD k && !h.coldMask.getLsbD k
        h.start ≤ now → (now - h.start) % q.period = q.phase → s.plan.start ≤ now - h.start →
        ∃ u, exec (.sproutWakeRequest pipe phase cold) s = .next u ∧ u = { s with pods := u.pods } ∧
          ∀ k : Fin 8, podOf u k.val = if mask k.val then woken s.clk.tick cold (podOf s k.val) else podOf s k.val))
     ∧ (∀ (k : Fin 8) (s : State) (w : Nat), (podOf s k.val).wakeAt = some w → w ≤ s.clk.tick →
       (let ran (u : State) : Prop := u = { s with pods := u.pods } ∧
          podOf u k.val = { podOf s k.val with clk := .running, wakeAt := none } ∧ ∀ j : Nat, j ≠ k.val → podOf u j = podOf s j
        ((podOf s k.val).clk = .gated → ∃ u, exec (.podWarmWake k) s = .next u ∧ ran u)
        ∧ ((podOf s k.val).clk = .relocking → ∃ u, exec (.podColdWake k) s = .next u ∧ ran u))))

/-- An instruction that issues finds its bundle begun (R160, R184): the first of a bundle fetches it, takes the fast cycle after
the bundle before or the first of the tick, and finds the tile's registers, request and store as they stand; a further one
finds the same bundle. The words that the fetch corrected are counted, at most four (R166, R177), and nothing else in the
node changes. An instruction of any slot that issues with a false guard answers the state in which it would have read its
operands, and has no effect of its own (R183). LOOP is the exception of R183. An instruction that does not issue, for want
of a running phase, a clock, a bundle that holds it, a slot that has not issued, or an end to an AWAIT, changes nothing
(R160, R190). -/
def Obligations.NotExecuted : Prop :=
  (∀ (s : State) (t : Fin 192) (g : Guard) (i : Instr),
     (let v := issued s t g i
      let x := tileOf s t.val
      let y := tileOf v t.val
      TileAndCounts s v t y (only .sramCorr (if g.first then min g.fetched 4 else 0)) ∧
      (g.first = false → y = { x with slots := x.slots ||| slotMask i }) ∧
      (g.first = true → y.cur = x.next ∧ y.slots = slotMask i ∧ y.inBundle = true ∧ y.srcStore = x.store ∧ y.srcBound = x.bound ∧
        y.cyc = nextCycle s x ∧ y.store = x.store ∧ y.src = y.regs ∧
        ((∀ k : Fin 4, (x.loops[k]).live = false) → y.regs = x.regs ∧ y.next = x.next + 1 ∧ y.loops = x.loops))))
  ∧ (∀ (i : Instr) (t : Fin 192) (g : Guard) (s : State), tileInstr i = some (t, g) → isLoop i = false →
       mayIssue s t g i = true → guardHolds (tileAt s t g i).src.p g = false → exec i s = .next (issued s t g i))
  ∧ (∀ (i : Instr) (t : Fin 192) (g : Guard) (s : State), tileInstr i = some (t, g) → mayIssue s t g i = false → exec i s = .next s)

/-- Every lane-wise vector instruction that writes V[D] alone completes with the lanes of R213, R214 and R216: where the mask
bit is 1 the new value, elsewhere the old one; nothing else in the node changes. VSEL completes with A or B in every lane by
its selector; VCMP completes with the bits of P[PD] whose bit in P[C] is 1 as their lanes compare, false for a NaN but for
NE, and keeps the others (R213, R214). Nothing else in the node changes. -/
def Obligations.VectorSlot : Prop :=
  (∀ (i : Instr) (t : Fin 192) (g : Guard) (d : Fin 64) (m : Fin 16) (f : Regs → Nat → BitVec 32) (s : State),
     vectorLane i = some (t, g, d, m, f) → Executes s t g i →
     ∃ (u : State) (v : VReg), exec i s = .next u ∧ Brings s u t g i (withV (tileAt s t g i) d v) ∧
       LanesAre v (tileAt s t g i).src.v[d] (tileAt s t g i).src.p[m] (f (tileAt s t g i).src))
  ∧ ((∀ (t : Fin 192) (g : Guard) (d a b : Fin 64) (m : Fin 16) (s : State),
       (let i : Instr := .vsel t g d a b m
        let x := tileAt s t g i
        Executes s t g i →
        ∃ (u : State) (v : VReg), exec i s = .next u ∧ Brings s u t g i (withV x d v) ∧
         ∀ k : Nat, k < 64 → lane v k = if (x.src.p[m]).getLsbD k then lane x.src.v[a] k else lane x.src.v[b] k))
     ∧ (∀ (t : Fin 192) (g : Guard) (pd : Fin 16) (a b : Fin 64) (m : Fin 16) (c : VCond) (s : State),
       (let i : Instr := .vcmp t g pd a b m c
        let r := (tileAt s t g i).src
        Executes s t g i →
        ∃ (u : State) (v : Word64), exec i s = .next u ∧ Brings s u t g i (withP (tileAt s t g i) pd v) ∧
         ∀ k : Nat, k < 64 →
           v.getLsbD k = if (r.p[m]).getLsbD k then vcmpHolds c (lane r.v[a] k) (lane r.v[b] k) else (r.p[pd]).getLsbD k)))

/-- VCVT, VQ and VF16UP complete with the elements of R215 and R216 and count their clips, in the lanes that they write only, in
CNT_QUANT_CLIP (R71); nothing else in the node changes. A lane of VQ (R216): the code lies between -QMAX and QMAX; a zero
divisor gives 0, counted when the dividend is not a zero; a NaN quotient gives 0 and is not counted; another quotient is
counted where it is outside ±QMAX. -/
def Obligations.Quantiser : Prop :=
  ((∀ (t : Fin 192) (g : Guard) (d a : Fin 64) (m : Fin 16) (k : Conv) (s : State),
     (let i : Instr := .vcvt t g d a m k
      let r := (tileAt s t g i).src
      Executes s t g i →
      ∃ (u : State) (v : VReg), exec i s = .next u ∧ Converted k v r.v[d] r.v[a] r.p[m]
        ∧ BringsAndCounts s u t g i (withV (tileAt s t g i) d v) (only .quantClip (convertClipped k r.v[a] r.p[m]))))
   ∧ (∀ (t : Fin 192) (g : Guard) (d a b : Fin 64) (m : Fin 16) (e8 : Bool) (s : State),
     (let i : Instr := .vq t g d a b m e8
      let r := (tileAt s t g i).src
      Executes s t g i →
      ∃ (u : State) (v : VReg), exec i s = .next u
        ∧ LanesAre v r.v[d] r.p[m] (fun k => (quantLane e8 (lane r.v[a] k) (lane r.v[b] k)).1)
        ∧ BringsAndCounts s u t g i (withV (tileAt s t g i) d v)
            (only .quantClip (countLanes r.p[m] (fun k => (quantLane e8 (lane r.v[a] k) (lane r.v[b] k)).2)))))
   ∧ (∀ (t : Fin 192) (g : Guard) (d a : Fin 64) (m : Fin 16) (s : State),
     (let i : Instr := .vf16up t g d a m
      let r := (tileAt s t g i).src
      Executes s t g i →
      ∃ (u : State) (v : VReg), exec i s = .next u
        ∧ LanesAre v r.v[d] r.p[m] (fun k => BitVec.ofNat 32 (f16Up (lane r.v[a] k)).1.toNat)
        ∧ BringsAndCounts s u t g i (withV (tileAt s t g i) d v)
            (only .quantClip (countLanes r.p[m] (fun k => (f16Up (lane r.v[a] k)).2))))))
  ∧ (∀ (e8 : Bool) (a b : F32),
       (-(if e8 then 127 else 7) ≤ (quantLane e8 a b).1.toInt ∧ (quantLane e8 a b).1.toInt ≤ (if e8 then 127 else 7))
       ∧ (b.toNat % 2 ^ 31 = 0 → (quantLane e8 a b).1 = 0 ∧ ((quantLane e8 a b).2 = true ↔ a.toNat % 2 ^ 31 ≠ 0))
       ∧ (b.toNat % 2 ^ 31 ≠ 0 → fisNaN (fdiv a b) = true → quantLane e8 a b = (0, false))
       ∧ (b.toNat % 2 ^ 31 ≠ 0 → fisNaN (fdiv a b) = false →
         ((quantLane e8 a b).2 = true ↔ flt (if e8 then 0x42FE0000 else 0x40E00000) (fabs (fdiv a b)) = true)))

/-- VAMX and VAMR complete: a legal range of channels updates the maxima (R74) or reads them; another one is counted in
CNT_ADDR_FAULT, and VAMR then writes +0 (R213). Nothing else in the node changes. -/
def Obligations.Absmax : Prop :=
  (∀ (t : Fin 192) (g : Guard) (a : Fin 64) (b : Fin 32) (f16 : Bool) (s : State),
    (let i : Instr := .vamx t g a b f16
     let v := issued s t g i
     let x := tileAt s t g i
     let n := if f16 then 128 else 64
     let first := (x.src.s[b]).toNat
     let val (i : Nat) : F32 := if f16 then f16ToF32 ((x.src.v[a]).extractLsb' (16 * i) 16) else lane x.src.v[a] i
     Executes s t g i →
     ∃ u, exec i s = .next u ∧
       (first % n = 0 → first + n ≤ 4096 →
          ∃ y : Tile, BringsTile s u t g i y ∧ y = { x with absmax := y.absmax } ∧ u = { v with tiles := u.tiles, cnt := u.cnt }
          ∧ (∀ k : Nat, k < n → absmaxOf y (first + k) =
              if fisNaN (val k) then absmaxOf x (first + k)
              else if fisInf (val k) then 0x7F800000#32
              else if flt (absmaxOf x (first + k)) (fabs (val k)) then fabs (val k) else absmaxOf x (first + k))
          ∧ (∀ c : Nat, c < first ∨ first + n ≤ c → absmaxOf y c = absmaxOf x c)
          ∧ Counts v u (only .absmaxNan ((List.range n).filter (fun k => fisNaN (val k))).length))
       ∧ (first % n ≠ 0 ∨ 4096 < first + n → BringsAndCounts s u t g i x (only .addrFault 1))))
  ∧ (∀ (t : Fin 192) (g : Guard) (d : Fin 64) (a : Fin 32) (m : Fin 16) (s : State),
    (let i : Instr := .vamr t g d a m
     let x := tileAt s t g i
     let first := (x.src.s[a]).toNat
     Executes s t g i →
     ∃ (u : State) (v : VReg), exec i s = .next u ∧
       (first % 64 = 0 → first < 4096 → LanesAre v x.src.v[d] x.src.p[m] (fun k => absmaxOf x (first + k))
          ∧ Brings s u t g i (withV x d v))
       ∧ (first % 64 ≠ 0 ∨ 4096 ≤ first → LanesAre v x.src.v[d] x.src.p[m] (fun _ => 0)
          ∧ BringsAndCounts s u t g i (withV x d v) (only .addrFault 1))))

/-- Where a plan address leads (R164, R167 to R169): SPACE 0 to the tile's own store above PROG_LIMIT, SPACE 1 to the Pod's
store, SPACE 2 through a segment of the bound request, which a write needs W for; spaces 5 to 7 lead nowhere. LDS and LDV
complete (R166, R201): a clean read of the tile's store as it stood when the bundle began, or of its Pod's store through the
port, puts the bytes, little-endian, in the destination and sets PD; an uncorrectable word clears PD, keeps the destination
and is counted; any other address is suppressed, clears PD and counts in CNT_ADDR_FAULT. No byte of any store or of memory
changes. STS and STV complete (R165, R201): at an address of the tile's store the bytes stored are those of the source,
little-endian, every other byte is as before, and PD is set; at an address of the Pod's store the bytes are on their way to
take effect 12 cycles after the issue, those beyond the first 128 a cycle later; any other address stores nothing, clears PD
and counts. The port to a Pod's store (R165): a read finds a write that takes effect in an earlier cycle and not one of its
own cycle or later; of two writes to one place the later cycle's stands, and of one cycle's the higher tile's. -/
def Obligations.LoadsAndStores : Prop :=
  (∀ (s : State) (t : Fin 192) (addr : Word64) (len : Nat) (write : Bool),
     (∀ off : Nat, placeOf s t.val addr len write = .tile off ↔
       addr.toNat = off ∧ off < 2 ^ 20 ∧ progLimit s t.val ≤ off ∧ off + len ≤ 2 ^ 20)
     ∧ (∀ off : Nat, placeOf s t.val addr len write = .pod off ↔
       addr.toNat = 2 ^ 61 + off ∧ off < 2 ^ 24 ∧ off + len ≤ 12 * 2 ^ 20)
     ∧ (∀ a : Nat, placeOf s t.val addr len write = .node a ↔
       ∃ (r : Adm) (seg off : Nat), boundAdm s (tileOf s t.val) = some r ∧ seg < 16 ∧ off < 2 ^ 39 ∧
         addr.toNat = 2 * 2 ^ 61 + seg * 2 ^ 39 + off ∧ (segAt r.segs seg).valid = true ∧
         off + len ≤ (segAt r.segs seg).rows * 1024 ∧ (write = true → (segAt r.segs seg).write = true) ∧
         a = (segAt r.segs seg).base * 1024 + off)
     ∧ (5 * 2 ^ 61 ≤ addr.toNat → placeOf s t.val addr len write = .illegal))
  ∧ (∀ (t : Fin 192) (g : Guard) (a : Fin 32) (pd : Fin 16) (off : BitVec 25) (s : State) (wide : Bool) (ds : Fin 32) (dv : Fin 64),
       (let i : Instr := if wide then .ldv t g dv a pd off else .lds t g ds a pd off
        let v := issued s t g i
        let x := tileAt s t g i
        let n := if wide then 256 else 8
        let place := placeOf v t.val (moveAddr x a off) n false
        let pod : SramUnit := .pod (Fin.ofNat 8 (podOfTile t.val))
        let loaded (k : Nat) : Tile := if wide then withV x dv (BitVec.ofNat 2048 k) else withS x ds (BitVec.ofNat 64 k)
        let failed (u : State) : Prop :=
          (tileOf u t.val).regs = (settled s t g i (withP x pd 0)).regs ∧ (tileOf u t.val).store = x.store ∧
          (counterOf u .uncorrSram).toNat = min ((counterOf v .uncorrSram).toNat + 1) 4294967295
        Executes s t g i →
        ∃ u, exec i s = .next u ∧ u.mem = s.mem ∧ (∀ p : Nat, (podOf u p).store = (podOf s p).store) ∧
          (∀ k : Nat, place = .tile k → Clean s t g i [(k, n)] →
             BringsAndCounts s u t g i (withP (loaded (storeNat x.srcStore k n)) pd (status True)) (corrected g [(k, n)]))
          ∧ (∀ k : Nat, place = .pod k → badWordAt v pod [(k, n)] g.ecc = none →
             BringsAndCounts s u t g i (withP (loaded (leNat (podHalves v t.val k n))) pd (status True)) (corrected g [(k, n)]))
          ∧ (∀ k j : Nat, place = .tile k → badWordAt v (.tile t) [(k, n)] g.ecc = some j → failed u)
          ∧ (∀ k j : Nat, place = .pod k → badWordAt v pod [(k, n)] g.ecc = some j → failed u)
          ∧ ((∀ k : Nat, place ≠ .tile k ∧ place ≠ .pod k) → BringsAndCounts s u t g i (withP x pd 0) (only .addrFault 1))))
  ∧ (∀ (t : Fin 192) (g : Guard) (a : Fin 32) (pd : Fin 16) (off : BitVec 25) (s : State) (wide : Bool) (bs : Fin 32) (bv : Fin 64),
       (let i : Instr := if wide then .stv t g a bv pd off else .sts t g a bs pd off
        let v := issued s t g i
        let x := tileAt s t g i
        let n := if wide then 256 else 8
        let d := if wide then (x.src.v[bv]).toNat else (x.src.s[bs]).toNat
        let place := placeOf v t.val (moveAddr x a off) n true
        let p := t.val / 24
        let half : PodWrite := ⟨x.cyc + 12, t.val, 0, (leBytes n d).take 128⟩
        let rest : PodWrite := ⟨x.cyc + 13, t.val, 0, (leBytes n d).drop 128⟩
        Executes s t g i →
        ∃ u, exec i s = .next u ∧
          (∀ k : Nat, place = .tile k → ∃ m, Stored m x.store k n (byteOf d) ∧
             Brings s u t g i (withP (withStore x m k n) pd (status True)))
          ∧ (∀ k : Nat, place = .pod k →
             u = { v with tiles := u.tiles, pods := u.pods } ∧ BringsTile s u t g i (withP x pd (status True)) ∧
             podOf u p = { podOf s p with
               writes := (podOf s p).writes ++ { half with off := k } :: (if wide then [{ rest with off := k + 128 }] else []) } ∧
             ∀ q : Nat, q ≠ p → podOf u q = podOf s q)
          ∧ ((∀ k : Nat, place ≠ .tile k ∧ place ≠ .pod k) → BringsAndCounts s u t g i (withP x pd 0) (only .addrFault 1))))
  ∧ (∀ (x : Pod) (d e : Nat) (w z : PodWrite),
       (w.off = d ∧ z.off = d ∧ w.data.length = e ∧ z.data.length = e →
        (x.writes = [] → readBytes (podBefore x w.eff).store d e = readBytes x.store d e) ∧
        (x.writes = [w] → ∀ c : Nat,
           readBytes (podBefore x c).store d e = if w.eff < c then w.data else readBytes x.store d e) ∧
        (x.writes = [w, z] → (w.eff < z.eff ∨ (w.eff = z.eff ∧ w.tile < z.tile)) → ∀ c : Nat, z.eff < c →
           readBytes (podBefore x c).store d e = z.data) ∧
        (x.writes = [z, w] → (w.eff < z.eff ∨ (w.eff = z.eff ∧ w.tile < z.tile)) → ∀ c : Nat, z.eff < c →
           readBytes (podBefore x c).store d e = z.data)))

/-- XLOAD and XSTORE complete (R170, R188, R202): one element is sent out; the bytes of an XLOAD from pod store are those that
its port reads, from node memory those of the issue tick; those of an XSTORE to node memory wait for the boundary, to pod
store are on their way, and to the result buffer take their place at once; an XSTORE that reads an uncorrectable word writes
nothing and its element ends UNREADABLE (log 16); an illegal range or address ends the element REFUSED and counts. -/
def Obligations.BulkMoves : Prop :=
  (∀ (t : Fin 192) (g : Guard) (a b : Fin 32) (lenM1 : BitVec 17) (w : Fin 64) (s : State),
    (let i : Instr := .xload t g a b lenM1 w
     let v := issued s t g i
     let x := tileAt s t g i
     let n := lenM1.toNat + 1
     let dst := (x.src.s[b]).toNat
     let place := placeOf v t.val x.src.s[a] n false
     let ok := tileRangeOk s t.val dst n
     Executes s t g i →
     ∃ u, exec i s = .next u ∧
       (∀ k : Nat, place = .pod k → ok = true →
          u = { v with tiles := u.tiles, elems := u.elems, nextElem := u.nextElem } ∧ BringsTile s u t g i (issuedMore x w 1) ∧
          ElementSent v u t x w (.load dst (podRead v (t.val / 24) (x.cyc + 12) k n) (.pod k)))
       ∧ (∀ k : Nat, place = .node k → ok = true →
          ElementSent v u t x w (.load dst (readBytes s.mem k n) (.node k)) ∧ BringsTile s u t g i (issuedMore x w 1))
       ∧ (∀ (r : Bool) (k : Nat), place = .host r k → ok = true →
          u = { v with tiles := u.tiles, elems := u.elems, nextElem := u.nextElem } ∧ BringsTile s u t g i (issuedMore x w 1) ∧
          ElementSent v u t x w (.loadHost dst n k))
       ∧ (ok = false ∨ place = .illegal ∨ (∃ k, place = .tile k) → BringsAndCounts s u t g i (refusedOne x w) (only .addrFault 1))))
  ∧ (∀ (t : Fin 192) (g : Guard) (a b : Fin 32) (lenM1 : BitVec 17) (w : Fin 64) (s : State),
    (let i : Instr := .xstore t g a b lenM1 w
     let v := issued s t g i
     let x := tileAt s t g i
     let n := lenM1.toNat + 1
     let src := (x.src.s[b]).toNat
     let place := placeOf v t.val x.src.s[a] n true
     let ok := tileRangeOk s t.val src n
     let d := readBytes x.srcStore src n
     Executes s t g i →
     ∃ u, exec i s = .next u ∧
       (ok = true → Clean s t g i [(src, n)] →
         (∀ k : Nat, place = .node k →
            u = { v with tiles := u.tiles, elems := u.elems, nextElem := u.nextElem, memWrites := u.memWrites, cnt := u.cnt } ∧
            BringsTile s u t g i (issuedMore x w 1) ∧ ElementSent v u t x w .storeNode ∧
            u.memWrites = s.memWrites ++ [⟨t.val, s.nextElem, k, d⟩] ∧ Counts v u (corrected g [(src, n)]))
         ∧ (∀ k : Nat, place = .pod k →
            u = { v with tiles := u.tiles, elems := u.elems, nextElem := u.nextElem, pods := u.pods, cnt := u.cnt } ∧
            BringsTile s u t g i (issuedMore x w 1) ∧ ElementSent v u t x w .storePod ∧ Counts v u (corrected g [(src, n)]) ∧
            podOf u (t.val / 24) =
              { podOf s (t.val / 24) with writes := (podOf s (t.val / 24)).writes ++ [⟨x.cyc + 12, t.val, k, d⟩] })
         ∧ (∀ (r : Bool) (k : Nat) (q : Adm), place = .host r k → boundAdm s x = some q →
            u = { v with tiles := u.tiles, elems := u.elems, nextElem := u.nextElem, io := u.io, cnt := u.cnt } ∧
            BringsTile s u t g i (issuedMore x w 1) ∧ ElementSent v u t x w .storeHost ∧ Counts v u (corrected g [(src, n)]) ∧
            u.io = { s.io with hostWrites := s.io.hostWrites ++ [(q.req.resAddr + k, d)] }))
       ∧ (ok = true → isStoreTarget place = true → ¬ Clean s t g i [(src, n)] →
            (tileOf u t.val).wait = (unreadableOne x w).wait ∧ u.mem = s.mem ∧ u.memWrites = s.memWrites ∧ u.io = s.io ∧
            u.pods = s.pods ∧ u.elems = s.elems)
       ∧ (ok = false ∨ place = .illegal ∨ (∃ k, place = .tile k) → BringsAndCounts s u t g i (refusedOne x w) (only .addrFault 1))))

/-- GATHER completes (R172, R203). Of a gather of one index to tile store from pod store: an index of all ones, or at COUNT or
above, is dropped: its output word is all ones, CNT_GATHER_DROP counts it and no element is sent; an index whose element
lies in pod store and finds a staging slot sends one element to the first slot, whose offset is its output word. VFETCH
completes (R205). Of a fetch of one list position: one that names no item gives an output word of all ones and sends
nothing; an item whose image is found in memory sends one element, with the image's bytes, to the first staging slot. DIRW
completes (R207, R292): with its operand readable, a request bound and a local copy of the item's shard, LOOK answers the
entry of the item, or zeros, with DONE; INSERT, MAP and FREE in a phase with the right to write wait for the boundary, and
without it answer NO_RIGHTS; no byte of memory changes before the boundary. -/
def Obligations.GatherAndFetch : Prop :=
  (∀ (t : Fin 192) (g : Guard) (a b c : Fin 32) (j : Fin 1024) (w : Fin 64) (s : State),
     (let i : Instr := .gather t g a b c j w
      let v := issued s t g i
      let x := tileAt s t g i
      let d := gatherDescOf (constOf s t.val j.val) (constOf s t.val (j.val + 1))
      let list := (x.src.s[a]).toNat
      let out := (x.src.s[c]).toNat
      let idx := storeNat x.srcStore list 4
      Executes s t g i →
      ∃ u, exec i s = .next u ∧
        ((x.src.s[b]).toNat = 1 → 1 ≤ d.nMax → d.outPod = false → d.space = 1 → tileRangeOk s t.val out (4 * d.nMax) = true →
         tileRangeOk s t.val list 4 = true → Clean s t g i [(list, 4)] →
         ∃ (m : Tab Byte),
          (idx = 4294967295 ∨ d.count ≤ idx →
             Stored m x.store out 4 (fun _ => 255) ∧
             BringsAndCounts s u t g i { withStore x m out 4 with gwin := some ⟨[], w, x.wait[w].dl⟩ }
               (fun k => only .gatherDrop 1 k + corrected g [(list, 4)] k))
          ∧ (idx ≠ 4294967295 → idx < d.count → d.base + idx * d.size + d.size ≤ 12 * 2 ^ 20 → 1 ≤ d.stageSlots →
             Stored m x.store out 4 (byteOf d.stageBase) ∧
             u = { v with tiles := u.tiles, elems := u.elems, nextElem := u.nextElem, cnt := u.cnt } ∧
             Counts v u (corrected g [(list, 4)]) ∧
             BringsTile s u t g i
               (issuedMore { withStore x m out 4 with gwin := some ⟨[⟨d.stageBase, none⟩], w, x.wait[w].dl⟩ } w 1) ∧
             ElementSent v u t x w
               (.gather 0 d.stageBase (podRead v (t.val / 24) (x.cyc + 12) (d.base + idx * d.size) d.size)
                 (.pod (d.base + idx * d.size)))))))
  ∧ (∀ (t : Fin 192) (g : Guard) (a b c : Fin 32) (j : Fin 1024) (w : Fin 64) (odd : List (BitVec 36 × Bool)) (s : State),
       (let i : Instr := .vfetch t g a b c j w odd
        let v := issued s t g i
        let x := tileAt s t g i
        let d := fetchDescOf (constOf s t.val j.val)
        let n := if d.kind = 0 then 16 else 8
        let list := (x.src.s[a]).toNat
        let out := (x.src.s[c]).toNat
        Executes s t g i →
        ∃ u, exec i s = .next u ∧
          ((x.src.s[b]).toNat = 1 → d.nMax = 1 → 1 ≤ d.stageSlots → tileRangeOk s t.val out 4 = true →
           tileRangeOk s t.val list n = true → Clean s t g i [(list, n)] →
           ∃ (m : Tab Byte),
            (fetchName d.kind (readBytes x.srcStore list n) 0 = none →
               Stored m x.store out 4 (fun _ => 255) ∧
               BringsAndCounts s u t g i { withStore x m out 4 with fwin := some ⟨[], w, x.wait[w].dl⟩ } (corrected g [(list, n)]))
            ∧ (∀ (item : BitVec 36) (want : Option (BitVec 24)) (q : Adm) (bytes : List Byte) (addr : Nat),
               fetchName d.kind (readBytes x.srcStore list n) 0 = some (item, want) → boundAdm s x = some q →
               locate s q.req.ctx q.t d.slotSize item want odd = .bytes bytes addr →
               Stored m x.store out 4 (byteOf d.stageBase) ∧
               u = { v with tiles := u.tiles, elems := u.elems, nextElem := u.nextElem, cnt := u.cnt } ∧
               Counts v u (corrected g [(list, n)]) ∧
               BringsTile s u t g i
                 (issuedMore { withStore x m out 4 with fwin := some ⟨[⟨d.stageBase, none⟩], w, x.wait[w].dl⟩ } w 1) ∧
               ElementSent v u t x w (.fetch 0 d.stageBase bytes addr none)))))
  ∧ (∀ (t : Fin 192) (g : Guard) (a : Fin 32) (w : Fin 64) (s : State) (op : Option DirOp),
       (let i : Instr := match op with
          | none => .dirwLook t g a w
          | some .insert => .dirwInsert t g a w
          | some .map => .dirwMap t g a w
          | some .free => .dirwFree t g a w
        let v := issued s t g i
        let x := tileAt s t g i
        let off := (x.src.s[a]).toNat
        let n := storeNat x.srcStore off 16
        let item : BitVec 36 := BitVec.ofNat 36 (n / 2 ^ 64)
        Executes s t g i →
        ∃ u, exec i s = .next u ∧ u.mem = s.mem ∧
          (∀ (q : Adm) (cp : ShardCopy),
           tileRangeOk s t.val off 24 = true → Clean s t g i [(off, 16)] → boundAdm s x = some q →
           itemCopy s q.req.ctx.toNat item = some cp →
           u = { v with tiles := u.tiles, elems := u.elems, nextElem := u.nextElem, dirWrites := u.dirWrites, cnt := u.cnt } ∧
           BringsTile s u t g i (issuedMore x w 1) ∧ Counts v u (corrected g [(off, 16)]) ∧
           (op = none → u.dirWrites = s.dirWrites ∧ ElementSent v u t x w
              (.dirw off (dirBytes (match dirLook s cp item with | some e => dirEntNat e | none => 0) 0x00)))
           ∧ (∀ o : DirOp, op = some o →
              (dirRights v t = true → ElementSent v u t x w (.dirwWait off) ∧
                 u.dirWrites = s.dirWrites ++ [⟨t, s.nextElem, o, q.req.ctx, cp.shard, item, BitVec.ofNat 128 n⟩])
              ∧ (dirRights v t = false → u.dirWrites = s.dirWrites ∧ ElementSent v u t x w (.dirw off (dirBytes n 0x04)))))))

/-- BISSUE completes (R208, R209). Of a list of one command that its phase does not refuse: the command joins its controller's
queue with its start tick, its data and the next list number; a BRDL sends one element to the results area, and another
command none. TXQ completes (R212, R346): its input is read at issue, and one request joins the text unit's queue, to be
served from 4 cycles after its issue; an input with an uncorrectable word ends the element UNREADABLE (log 16); areas that
are not the tile's own end it REFUSED and count. -/
def Obligations.ListsAndText : Prop :=
  (∀ (t : Fin 192) (g : Guard) (a b c : Fin 32) (j : Fin 1024) (w : Fin 64) (s : State),
     (let i : Instr := .bissue t g a b c j w
      let v := issued s t g i
      let x := tileAt s t g i
      let d := issueDescOf (constOf s t.val j.val)
      Executes s t g i →
      ∃ u, exec i s = .next u ∧ u.mem = s.mem ∧
       (∀ (p : Plan) (n : BitVec 128) (e : ListEnt),
        s.plan.active = some p → p.lists[d.list]? = some [n] → listEntOf n.toNat = some e → d.patchMax = 0 → e.bean < 6144 →
        x.phaseRefused = false → spanOk s t.val (x.src.s[a]).toNat (dataBytes e) = true →
        (e.op = .brdl → spanOk s t.val (x.src.s[b]).toNat 160 = true) →
        Clean s t g i [((x.src.s[a]).toNat, dataBytes e), ((x.src.s[c]).toNat, 0)] →
        ∃ (q : QueuedBean),
          u = { v with tiles := u.tiles, elems := u.elems, nextElem := u.nextElem, stk := u.stk, cnt := u.cnt } ∧
          u.stk = { s.stk with queue := u.stk.queue, nextList := s.stk.nextList + 1 } ∧
          u.stk.queue.Perm (s.stk.queue ++ [q]) ∧
          q.list = s.stk.nextList ∧ q.start = x.phaseTick + d.start ∧ q.issue = e.issue ∧ q.bean.val = e.bean ∧ q.op = e.op ∧
          q.w = e.w ∧ q.tile = t ∧ q.refused = false ∧
          (e.op = .brdl → BringsTile s u t g i (issuedMore x w 1) ∧ q.elem = s.nextElem ∧ q.dst = (x.src.s[b]).toNat ∧
             ElementSent v u t x w (.brdlWait (x.src.s[b]).toNat s.stk.nextList))
          ∧ (e.op ≠ .brdl → BringsTile s u t g i x ∧ u.elems = s.elems ∧ u.nextElem = s.nextElem ∧
             q.data = readBytes x.srcStore (x.src.s[a]).toNat (dataBytes e)))))
  ∧ (∀ (t : Fin 192) (g : Guard) (a b c : Fin 32) (j : Fin 1024) (w : Fin 64) (s : State),
       (let i : Instr := .txq t g a b c j w
        let v := issued s t g i
        let x := tileAt s t g i
        let n := constOf s t.val j.val
        let d := textDescOf n
        let src := (x.src.s[a]).toNat
        let nin := textInBytes d (x.src.s[c]).toNat
        let key := boundKey v t
        let out := textOutBytes s d ((key.map (·.2)).getD 0)
        let ok := spanOk s t.val src nin && tileRangeOk s t.val (x.src.s[b]).toNat out
        let r : TextReq := ⟨s.nextElem, t, BitVec.ofNat 128 n, readBytes x.srcStore src nin, (x.src.s[c]).toNat, (x.src.s[b]).toNat, key,
          x.cyc + 4⟩
        Executes s t g i →
        ∃ u, exec i s = .next u ∧
          (ok = true → Clean s t g i [(src, nin)] →
             u = { v with tiles := u.tiles, elems := u.elems, nextElem := u.nextElem, txt := u.txt, cnt := u.cnt } ∧
             BringsTile s u t g i (issuedMore x w 1) ∧ ElementSent v u t x w (.txq s.nextElem) ∧ Counts v u (corrected g [(src, nin)]) ∧
             u.txt = { s.txt with queue := u.txt.queue } ∧ u.txt.queue.Perm (s.txt.queue ++ [r]))
          ∧ (ok = true → ¬ Clean s t g i [(src, nin)] →
             (tileOf u t.val).wait = (unreadableOne x w).wait ∧ u.txt = s.txt ∧ u.elems = s.elems)
          ∧ (ok = false → BringsAndCounts s u t g i (refusedOne x w) (only .addrFault 1))))

/-- MLDW completes (R218 to R220): with legal ranges, a row below ROWS takes its 128 code bytes and its S8 bytes from tile store
as it stood when the bundle began; a row that meets an uncorrectable word is neutral with its fault bit set, is counted and
raises the UNCORR event; rows from ROWS on are neutral. No byte of any store or of memory changes. MMAC completes (R220,
R221, R226): with TREE = 0 each lane gains the exact sum of code products of its row, as a 32-bit integer; with TREE = 1
each lane's tree gains its row's block terms; in both the bank's faults join the lane faults. MFIN completes: each lane
becomes the scaled sum of its terms, +0 where there is none, over an empty tree (R227). MMOV completes: it moves the lanes
and the clean masks and keeps A. Nothing else in the node changes. -/
def Obligations.MatrixUnit : Prop :=
  (∀ (t : Fin 192) (g : Guard) (a b : Fin 32) (bank : Fin 2) (f : MatFmt) (rows : BitVec 8) (stride : BitVec 14) (bad : List Nat)
     (s : State),
     (let i : Instr := .mldw t g a b bank f rows stride bad
      let v := issued s t g i
      let x := tileAt s t g i
      let codes (r : Nat) : Nat := (x.src.s[a]).toNat + 32 * stride.toNat * r
      let scales (r : Nat) : Nat := (x.src.s[b]).toNat + 32 * stride.toNat * r
      let ns := match f with | .e4 => 8 | .e8 => 4 | .f16 => 0
      let hit := badRows v t f (x.src.s[a]).toNat (x.src.s[b]).toNat rows.toNat stride.toNat bad
      Executes s t g i → rows.toNat ≤ 128 →
      ∃ (u : State) (y : Bank), exec i s = .next u ∧
        u = { v with tiles := u.tiles, cnt := u.cnt, evt := { v.evt with pending := u.evt.pending } } ∧
        (tileOf u t.val).banks = x.banks.set bank y ∧ (tileOf u t.val).store = x.store ∧ (tileOf u t.val).acc = x.acc ∧
        (tileOf u t.val).regs = x.regs ∧ (∀ k : Nat, k ≠ t.val → tileOf u k = tileOf s k) ∧ y.fmt = f ∧
        (∀ r : Nat, rows.toNat ≤ r → rowOf y r = neutralRow f ∧ y.fault.getLsbD r = false) ∧
        ((∀ r : Nat, r < rows.toNat → tileRangeOk s t.val (codes r) 128 = true ∧
           (ns = 0 ∨ tileRangeOk s t.val (scales r) ns = true)) →
         (counterOf u .addrFault = counterOf v .addrFault) ∧
         (counterOf u .uncorrSram).toNat = min ((counterOf v .uncorrSram).toNat + hit.length) 4294967295 ∧
         (hit ≠ [] → ∃ p ∈ u.evt.pending, p.source.val = evUncorr) ∧
         (∀ r : Nat, r < rows.toNat → r ∉ hit →
           rowOf y r = (readBytes x.srcStore (codes r) 128, readBytes x.srcStore (scales r) ns) ∧ y.fault.getLsbD r = false) ∧
         (∀ r : Nat, r ∈ hit → rowOf y r = neutralRow f ∧ y.fault.getLsbD r = true))))
  ∧ ((∀ (t : Fin 192) (g : Guard) (d : Fin 8) (a : Fin 64) (bank : Fin 2) (tree : Bool) (s : State),
       (let i : Instr := .mmac t g d a bank tree
        let x := tileAt s t g i
        let k := x.banks[bank]
        let q := vregBytes x.src.v[a]
        Executes s t g i →
        ∃ (u : State) (y : Acc), exec i s = .next u ∧
          Brings s u t g i { x with acc := x.acc.set d y } ∧ y.fault = x.acc[d].fault ||| k.fault ∧
          (tree = false → k.fmt ≠ .f16 → y.pushes = x.acc[d].pushes ∧
             ∀ r : Fin 128, y.lanes[r] = x.acc[d].lanes[r] + BitVec.ofInt 32 (codeDot (k.fmt == .e4) q (rowOf k r.val).1))
          ∧ (tree = true → y.lanes = x.acc[d].lanes ∧
             ∀ r : Nat, r < fmtLanes k.fmt → laneTerms y r = laneTerms x.acc[d] r ++ rowTerms k.fmt q (rowOf k r))))
     ∧ (∀ (t : Fin 192) (g : Guard) (d : Fin 8) (a : Fin 64) (b : Fin 32) (ns : Bool) (s : State),
       (let i : Instr := .mfin t g d a b ns
        let x := tileAt s t g i
        Executes s t g i →
        ∃ (u : State) (y : Acc), exec i s = .next u ∧
          Brings s u t g i { x with acc := x.acc.set d y } ∧ y.pushes = [] ∧ y.fault = x.acc[d].fault ∧
          ∀ r : Fin 128, (laneTerms x.acc[d] r.val = [] → y.lanes[r] = 0) ∧
            (laneTerms x.acc[d] r.val ≠ [] → y.lanes[r] =
              (let m := fsum (laneTerms x.acc[d] r.val)
               let scale := fmul (f16ToF32 (BitVec.ofNat 16 (x.src.s[b]).toNat)) (f16ToF32 ((x.src.v[a]).extractLsb' (16 * r.val) 16))
               fposZero (fcanon (if ns then m else fmul m scale))))))
     ∧ (∀ (t : Fin 192) (g : Guard) (d : Fin 64) (a : Fin 8) (pd : Fin 16) (s : State),
       (let i : Instr := .mmov t g d a pd
        let x := tileAt s t g i
        Executes s t g i → i.wellFormed = true →
        ∃ (u : State) (lo hi : VReg) (p q : Word64), exec i s = .next u ∧
            Brings s u t g i (withP (withP (withV (withV x d lo) (d + 1) hi) pd p) (pd + 1) q) ∧
            (∀ k : Nat, (h : k < 64) → lane lo k = x.acc[a].lanes[k] ∧ lane hi k = x.acc[a].lanes[64 + k]) ∧
            (∀ k : Nat, k < 64 → p.getLsbD k = !x.acc[a].fault.getLsbD k ∧ q.getLsbD k = !x.acc[a].fault.getLsbD (64 + k)))))

/-- TSEL, TMRG and TTHR complete (R105, R228, R236 to R242). Where their ranges and cursor are legal and no word they read is
uncorrectable: of the valid entries read, in rank order, behind the cursor and (TMRG) without duplicates, the first K go to
the output, empty slots fill it, S[D] holds their number and PD whether a tie was cut; TTHR keeps the entries at or above
its threshold, within its budget. Only the tile and counters change. -/
def Obligations.Turnip : Prop :=
  (∀ (merge : Bool) (t : Fin 192) (g : Guard) (d a b c : Fin 32) (pd : Fin 16) (j : Fin 1024) (s : State),
    (let i : Instr := if merge then .tmrg t g d a b c pd j else .tsel t g d a b c pd j
     let v := issued s t g i
     let x := tileAt s t g i
     let k := turnipIn v t.val d a b c j.val
     let cur := cursorOf v t.val k.word
     let all := (readCands v t.val k.src k.len).filter candValid
     let l := rankSort (afterCursor cur (if merge then dedup all else all))
     Executes s t g i →
     ∃ u, exec i s = .next u ∧ u.mem = s.mem ∧
      (spanOk s t.val k.out (16 * k.desc.k) = true → spanOk s t.val k.src (16 * k.len) = true → cur ≠ .illegal →
       Clean s t g i (selectReads k cur) →
       u = { v with tiles := u.tiles, cnt := u.cnt } ∧
       ∃ m : Tab Byte,
         BringsTile s u t g i (withP (withS (withStore x m k.out (16 * k.desc.k)) d (BitVec.ofNat 64 (min l.length k.desc.k))) pd
           (status (k.desc.k < l.length ∧ tieCut l k.desc.k = true))) ∧
         Stored m x.store k.out (16 * k.desc.k) (fun z => byteOf (candNat ((l.take k.desc.k).getD (z / 16) emptyCand)) (z % 16)))))
  ∧ (∀ (t : Fin 192) (g : Guard) (d a b c : Fin 32) (j : Fin 1024) (s : State),
    (let i : Instr := .tthr t g d a b c j
     let v := issued s t g i
     let x := tileAt s t g i
     let k := turnipIn v t.val d a b c j.val
     let all := (readCands v t.val k.src k.len).filter candValid
     let kept := (rankSort all).filter (fun e => fle (BitVec.ofNat 32 k.word.toNat) e.score)
     let n := min kept.length k.desc.budget
     Executes s t g i →
     ∃ u, exec i s = .next u ∧ u.mem = s.mem ∧
      (spanOk s t.val k.out (16 * k.desc.budget) = true → spanOk s t.val k.src (16 * k.len) = true →
       Clean s t g i [(k.src, 16 * k.len)] →
       u = { v with tiles := u.tiles, cnt := u.cnt } ∧
       ∃ m : Tab Byte,
         BringsTile s u t g i (withS (withStore x m k.out (16 * n)) d (BitVec.ofNat 64 n)) ∧
         Stored m x.store k.out (16 * n) (fun z => byteOf (candNat (kept.getD (z / 16) emptyCand)) (z % 16)) ∧
         (counterOf u .pruneBudget).toNat = min ((counterOf v .pruneBudget).toNat + (kept.length - n)) 4294967295)))

/-- The rank order (R232 to R234): the score transform by its bits, which preserves numerical order; the selection key; the six
comparisons; and a list in rank order, which loses and invents no entry and whose keys fall. -/
def Obligations.RankOrder : Prop :=
  (∀ b : F32, (IsNaN b → scoreKey b = 0) ∧ (b = 0x80000000#32 → scoreKey b = 0x80000000#32) ∧
    (¬ IsNaN b → b ≠ 0x80000000#32 →
      (scoreKey b).toNat = if b.getLsbD 31 then 2 ^ 32 - 1 - b.toNat else 2 ^ 31 + b.toNat))
  ∧ (∀ a b : F32, IsFinite a → IsFinite b → ((scoreKey a).toNat < (scoreKey b).toNat ↔ fval a < fval b) ∧
    0x007FFFFF < (scoreKey a).toNat ∧ (scoreKey a).toNat < 0xFF800000)
  ∧ (∀ c : Cand, selKey c = (scoreKey c.score).toNat * 2 ^ 32 + (2 ^ 32 - 1 - c.handle.toNat % 2 ^ 32))
  ∧ (∀ a b : Cand, ranksAhead a b = true ↔ Ahead a b)
  ∧ (∀ l : List Cand, (rankSort l).Perm l ∧ (rankSort l).Pairwise (fun a b => selKey b ≤ selKey a))

/-- CSEND completes (R229, R365, R370). Through an open port, in a place that a request took, the cell of the send entry leaves
in its slot of the next tick, and the port keeps a copy for retry; a payload range that is not the tile's, or that holds an
uncorrectable word (log 16), makes the cell void. -/
def Obligations.CellSends : Prop :=
  ∀ (t : Fin 192) (g : Guard) (a : Fin 32) (e : BitVec 12) (s : State),
    (let i : Instr := .csend t g a e
     let v := issued s t g i
     let x := tileAt s t g i
     let off := (x.src.s[a]).toNat
     Executes s t g i →
     ∃ u, exec i s = .next u ∧ u.mem = s.mem ∧
      (∀ (sec : TileSec) (n : BitVec 64),
       tileSec s t.val = some sec → sec.sends[e.toNat]? = some n → (sendEntOf n.toNat).port < 6 →
       (let q := sendEntOf n.toNat
        let port : Fin 6 := Fin.ofNat 6 q.port
        let ok := tileRangeOk s t.val off 240 && (badWordAt v (.tile t) [(off, 240)] g.ecc).isNone
        portOpen s port = true → x.phaseUsed = true →
        ∃ cell : List Byte,
          u.io = { s.io with cells := s.io.cells ++ [(port, s.clk.tick + 1, q.slot, cell)] } ∧
          u.fab.ports[port].sent = s.fab.ports[port].sent ++ [(s.clk.tick + 1, q.slot, cell)] ∧
          cell.length = 256 ∧ cellOk cell = true ∧
          (ok = true → boundAdm s x = none → cellPayload cell = readBytes x.srcStore off 240) ∧
          (ok = false → cellPayload cell = List.replicate 240 0) ∧
          (tileRangeOk s t.val off 240 = false →
            BringsTile s u t g i x ∧ Counts v u (only .addrFault 1)) ∧
          (cellHeadOf cell).void = !ok ∧ (cellHeadOf cell).dest = q.dest ∧ (cellHeadOf cell).tag = q.tag ∧
          (cellHeadOf cell).src = s.aon.nodeId ∧ (cellHeadOf cell).tickLo = BitVec.ofNat 16 (s.clk.tick + 1))))

/-- CPLT completes the bound request (R199, R444): its admission slot is free, its record is due with the status that the rules
leave, and PD is set; with no request bound it only clears PD. The status of a completion record (R199, R446): a code above
0x11 becomes BAD_FIELD, and a search that is DONE below its context's MIN_COV becomes PARTIAL; any other code stands. -/
def Obligations.Completions : Prop :=
  (∀ (t : Fin 192) (g : Guard) (pd : Fin 16) (a b c : Fin 32) (s : State),
     (let i : Instr := .cplt t g pd a b c
      let x := tileAt s t g i
      let r := cpltResult (x.src.s[a]).toNat (x.src.s[b]).toNat (x.src.s[c]).toNat
      Executes s t g i →
      ∃ u, exec i s = .next u ∧
        (∀ (k : Fin 1024) (q : Adm), x.srcBound = some k → admOf s k.val = some q → q.silent = false →
           BringsTile s u t g i (withP x pd (status True)) ∧ admOf u k.val = none ∧
           (∀ j : Nat, j ≠ k.val → admOf u j = admOf s j) ∧ u.mem = s.mem ∧
           u.host.due = s.host.due ++ [⟨q.req.fn, q.t, some k.val, q.req.sq,
             recordNat q.req q.t (inRehearsal s q.t s.clk.tick) { r with status := finalStatus s q.req r }⟩])
        ∧ (boundAdm s x = none → Brings s u t g i (withP x pd (status False)))))
  ∧ (∀ (s : State) (q : Req) (r : Result),
       (0x11 < r.status.toNat → finalStatus s q r = 0x02)
       ∧ (r.status = 0x00 → q.op = 1 → r.coverage < (ctxOf s q.ctx.toNat).adm.minCov → finalStatus s q r = 0x0B)
       ∧ (r.status.toNat ≤ 0x11 → (r.status ≠ 0x00 ∨ q.op ≠ 1 ∨ (ctxOf s q.ctx.toNat).adm.minCov ≤ r.coverage) →
           finalStatus s q r = r.status))

/-- POWER_ON and AON_PWRGOOD_FALL leave only the boot flash and the parts' block tables (R484, R515, R516); a fall of
NODE_RESET_N or PERST_N on a running node resets all of it, with cause SMBUS or PF_FLR (R519); the node leaves reset when
both are high and neither BF_OWN nor a thermal hold keeps it, and samples NODE_ID (R520, R521). The watchdog (R480) resets
the whole node when its 16,777,216 cycles have passed, with cause WATCHDOG, or THERMAL when it expires with a trip; a
thermal trip (R468, R523) resets it with cause THERMAL, holds it and drives THERMTRIP_N low until every sensor reads 20 °C
below its trip. -/
def Obligations.Resets : Prop :=
  ((∀ (addr : BitVec 2) (s : State), ∃ u, exec (.powerOn addr) s = .next u ∧
     u = { State.reset with pending := s.pending, free := s.free, io := s.io, aon := u.aon, fl := u.fl } ∧
     u.aon = { Aon.reset with flash := s.aon.flash, smbAddr := addr } ∧ u.aon.inReset = true ∧ u.aon.cause = .powerOn ∧
     u.fl = { Flash.reset with blockTab := s.fl.blockTab, retiredCnt := s.fl.retiredCnt })
   ∧ (∀ s : State, ∃ u, exec .aonPwrgoodFall s = .next u ∧ u.aon.powered = false ∧ u.aon.inReset = true ∧ u.aon.seed = none ∧
     u.aon.tripN = true ∧ u.aon.flash = s.aon.flash ∧ u.fl.blockTab = s.fl.blockTab ∧ u.mem = [] ∧ u.cnt = [])
   ∧ (∀ s : State, NodeRuns s → ∃ u, exec .nodeResetNFall s = .next u ∧ AfterReset s u .smbus ∧ u.aon.resetN = false)
   ∧ (∀ s : State, NodeRuns s → ∃ u, exec .perstNFall s = .next u ∧ AfterReset s u .pfFlr ∧ u.aon.perstN = false)
   ∧ (∀ (straps : NodeId) (s : State), s.aon.powered = true → s.aon.inReset = true →
     ∃ u, exec (.resetRelease straps) s = .next u ∧
       (s.aon.bfOwn = false → s.aon.hold = false → AonBecomes s u { s.aon with
         resetN := true, perstN := true, inReset := false, nodeId := straps, stage := .rom, wdog := 0 })
       ∧ ((s.aon.bfOwn = true ∨ s.aon.hold = true) → AonBecomes s u { s.aon with resetN := true, perstN := true }))
   ∧ (∀ (flash : List BootRec) (s : State), s.aon.powered = true → s.aon.inReset = true → s.aon.resetN = false →
     ∃ u, exec (.bfOwnHandover flash) s = .next u ∧ AonBecomes s u { s.aon with bfOwn := true, bfBoard := true, flash := flash })
   ∧ (∀ (straps : NodeId) (s : State), s.aon.powered = true → s.aon.inReset = true →
     ∃ u, exec (.bfOwnRelease straps) s = .next u ∧
       (s.aon.resetN = true → s.aon.perstN = true → s.aon.hold = false → AonBecomes s u { s.aon with
         bfOwn := false, bfBoard := false, inReset := false, nodeId := straps, stage := .rom, wdog := 0 })
       ∧ ((s.aon.resetN = false ∨ s.aon.perstN = false ∨ s.aon.hold = true) →
           AonBecomes s u { s.aon with bfOwn := false, bfBoard := false })))
  ∧ ((∀ (trip : Bool) (s : State), NodeRuns s → 16777216 ≤ s.aon.wdog →
       ∃ u, exec (.watchdogExpiry trip) s = .next u ∧
         ((trip = false ∨ (s.aon.tripCompute < 2 ∧ s.aon.tripMem < 2)) → AfterReset s u .watchdog)
         ∧ (trip = true → (2 ≤ s.aon.tripCompute ∨ 2 ≤ s.aon.tripMem) → AfterReset s u .thermal ∧ u.aon.hold = true))
     ∧ (∀ s : State, NodeRuns s → s.aon.halted = false → s.aon.stage ≠ .rom →
       ∃ u, exec .watchdogRestart s = .next u ∧ AonBecomes s u { s.aon with wdog := 0 })
     ∧ (∀ s : State, NodeRuns s → (2 ≤ s.aon.tripCompute ∨ 2 ≤ s.aon.tripMem) →
       ∃ u, exec .thermalTrip s = .next u ∧ AfterReset s u .thermal ∧ u.aon.hold = true ∧ u.aon.tripN = false)
     ∧ (∀ s : State, s.aon.hold = true → s.aon.sensC.toNat ≤ 95 → s.aon.sensIo.toNat ≤ 95 → s.aon.sensMem.toNat ≤ 85 →
       ∃ u, exec .thermalHoldEnd s = .next u ∧ AonBecomes s u { s.aon with hold := false, tripN := true }))

/-- The boot's stages follow one another (R489, R495, R517): a missing or doubled record of types 1 to 5 halts the ROM; FIRMWARE
needs every main rail within its tolerance; ZEROING leaves every row of memory 0 and every segment FREE; at READY the node
is its own steward (R485). -/
def Obligations.BootStages : Prop :=
  (∀ (p q : List Byte) (s : State) (k : Nat), NodeRuns s → s.aon.stage = .rom → s.aon.halted = false → 1 ≤ k → k ≤ 5 →
    ((s.aon.flash.take 64).filter (fun r => r.type.toNat == k)).length ≠ 1 →
    ∃ u, exec (.romStage p q) s = .next u ∧ u.aon.halted = true ∧ u.aon.stage = .rom ∧ u.aon.fail = 0 ∧ u = { s with aon := u.aon })
  ∧ (∀ (p q : List Byte) (s : State), NodeRuns s → s.aon.stage = .rom → s.aon.halted = false →
    ∃ u, exec (.romStage p q) s = .next u ∧ u.mem = s.mem ∧
      ((u.aon.stage = .firmware ∧ u.aon.halted = false ∧ ∃ (dev : BitVec 128) (slot : Bool) (fw : List Byte) (seed : BitVec 256),
          RomAccepts s p q seed dev slot fw ∧ u.aon.seed = some seed ∧ u.aon.deviceId = dev ∧ u.aon.fwSlot = slot ∧
          u.aon.fwVersion = (bootHeadOf fw).version)
       ∨ (u.aon.stage = .rom ∧ u.aon.halted = true ∧ ∀ dev slot fw seed, ¬ RomAccepts s p q seed dev slot fw)))
  ∧ (∀ (r : Rails) (s : State), NodeRuns s → s.aon.stage = .firmware → s.aon.fail = 0 →
    ∃ u, exec (.firmwareStage r) s = .next u ∧
      (railsOk s.aon.variant.toNat r = true →
        u.aon = { s.aon with stage := .training } ∧ (∀ p : Fin 8, podOf u p.val = { podOf s p.val with clk := .gated }) ∧
        u = { s with aon := u.aon, pods := u.pods, evt := u.evt })
      ∧ (railsOk s.aon.variant.toNat r = false → AonBecomes s u { s.aon with fail := 0x0D }))
  ∧ (∀ (r : TrainReport) (s : State), NodeRuns s → s.aon.stage = .training → s.aon.fail = 0 →
    ∃ u, exec (.trainingStage r) s = .next u ∧
      ((∃ i : Nat, i < 256 ∧ r.pcs[i]? = none) → u.aon.stage = .training ∧ u.aon.fail = 0x0C ∧ u.mem = s.mem)
      ∧ (r.pcs.length = 256 → (∀ x ∈ r.pcs, x.full = true) → u.aon.stage = .zeroing ∧ u.aon.fail = 0 ∧ u.mem = s.mem ∧
          ∀ i : Fin 256, (pcTrainOf u i.val).dead = false ∧ (pcTrainOf u i.val).held = false))
  ∧ (∀ s : State, NodeRuns s → s.aon.trainWriting = true →
    ∃ u, exec .trainRecordWrite s = .next u ∧ u = { s with aon := u.aon } ∧ u.aon.trainWriting = false ∧
      (∀ x ∈ s.aon.flash, x.type ≠ 7 → x ∈ u.aon.flash))
  ∧ (∀ s : State, NodeRuns s → s.aon.stage = .zeroing → s.aon.zeroed = false →
    ∃ u, exec .zeroingStage s = .next u ∧ u.aon = { s.aon with zeroed := true } ∧ (∀ a : Nat, memNat u a 1 = 0) ∧
      (∀ k : Nat, tget Seg.reset u.fl.segs k = Seg.reset) ∧
      u = { s with mem := [], raw := [], aon := u.aon, fl := { s.fl with segs := [], store := [] } })
  ∧ (∀ s : State, NodeRuns s → s.aon.stage = .zeroing → s.aon.zeroed = true →
    ∃ u, exec .readyStage s = .next u ∧ u.aon.stage = .ready ∧ u.mach.role = .steward ∧ u.mach.steward = s.aon.nodeId ∧
      u.mach.members = [s.aon.nodeId] ∧ u.mem = s.mem ∧ s.clk.tick < u.mach.nextEpoch ∧ u.mach.nextEpoch % 16384 = 0)

/-- TICK_BOUNDARY completes. On a running node TICK_NOW advances by one (R255) and the watchdog by 64 AON cycles (R480), and the
notes of what the tick has done are cleared; no tile or directory write waits any longer; every function's SQ_TAIL is seen
(R441), ADM_CTL and DBG_ROW have the values written in the tick (R437, R454), a Bean whose readmission was asked for is in
use (R153), and the registers of every tile are as before. On a node held in reset nothing changes. TICK_BOUNDARY of a
running node that owes one record, holds no queued request and no context: the record is written as the tick ends (R444),
bytes 0 to 30, then byte 31 with the ring's PHASE, at CQ_TAIL, which moves on and at the ring's end wraps with PHASE turned
over; a faulted function's record is not written (R431). TICK_MARKER_RECEIVE completes. On a node that is not joining, a
marker on a port that is not its time port has no effect, and one of its partition on the time port sets the offset (R257):
within 4 ns the clock is locked and nothing else changes; the first one beyond 4 ns is noted; a second in a row, where none
was re-synchronised before, re-synchronises, counts in CNT_TICK_RESYNC and raises TICK_RESYNC (R256). TICK_NOW stays. -/
def Obligations.Ticks : Prop :=
  ((∀ s : State, NodeRuns s → ∃ u, exec .tickBoundary s = .next u ∧
     u.clk.tick = (s.clk.tick + 1) % 2 ^ 64 ∧ u.aon = { s.aon with wdog := s.aon.wdog + 64 } ∧ u.clk.did = TickDone.reset ∧
     u.memWrites = [] ∧ u.dirWrites = [] ∧ u.stk.readmit = 0 ∧ u.stk.beanOut = s.stk.beanOut &&& ~~~s.stk.readmit ∧
     u.host.dbgRow = s.host.dbgNext.getD s.host.dbgRow ∧
     (u.host.admMode, u.host.admOver) = s.host.admNext.getD (s.host.admMode, s.host.admOver) ∧
     (∀ fn : Nat, (funcOf s fn).flrAsked = false → (funcOf u fn).sqSeen = (funcOf s fn).sqTail) ∧
     (∀ t : Nat, (tileOf u t).regs = (tileOf s t).regs))
   ∧ (∀ s : State, s.aon.inReset = true → exec .tickBoundary s = .next s))
  ∧ (∀ s : State, NodeRuns s → ∃ u, exec .tickBoundary s = .next u ∧
       ∀ d : Due, s.host.due = [d] → s.host.queued = [] → s.ctxs = [] → (funcOf s d.fn.val).flrAsked = false →
         (let f := funcOf s d.fn.val
          let a := f.cqBase.toNat + 32 * f.cqTail.toNat
          let b := leBytes 32 (d.body % 2 ^ 255 + (if f.phase then 2 ^ 255 else 0))
          (funcOf u d.fn.val).open_ = f.open_ - 1 ∧
          (f.fault = false → u.io.hostWrites = s.io.hostWrites ++ [(a, b.take 31), (a + 31, b.drop 31)] ∧
             (f.cqTail.toNat + 1 = 2 ^ f.log2.toNat → (funcOf u d.fn.val).cqTail = 0 ∧ (funcOf u d.fn.val).phase = !f.phase) ∧
             (f.cqTail.toNat + 1 ≠ 2 ^ f.log2.toNat →
               (funcOf u d.fn.val).cqTail = f.cqTail + 1 ∧ (funcOf u d.fn.val).phase = f.phase))
          ∧ (f.fault = true → u.io.hostWrites = s.io.hostWrites ∧ (funcOf u d.fn.val).cqTail = f.cqTail)))
  ∧ (∀ (port : Fin 6) (m : Marker) (o : Int) (s : State),
       ∃ u, exec (.tickMarkerReceive port m o) s = .next u ∧
         (s.mach.join = none → s.fab.ports[port].timeSrc = false → u = s)
         ∧ (s.mach.join = none → s.fab.ports[port].timeSrc = true → m.partition = s.mach.partition →
             u.clk.tick = s.clk.tick ∧ (u.clk.locked = true ↔ -16 ≤ o ∧ o ≤ 16) ∧ (-127 ≤ o → o ≤ 127 → u.clk.offset.toInt = o) ∧
             (-16 ≤ o → o ≤ 16 → u = { s with clk := u.clk } ∧ u.clk.misses = 0) ∧
             ((16 < o ∨ o < -16) → s.clk.resync = none →
               (s.clk.misses = 0 → u = { s with clk := u.clk } ∧ u.clk.misses = 1) ∧
               (1 ≤ s.clk.misses → u.clk.misses = 0 ∧ u.clk.resync = some s.clk.tick ∧ Counts s u (fun c =>
                   if c = .tickResync ∨ (c = .evtCoalesce ∧ s.evt.pending.any (fun p => p.source == 0) = true) then 1 else 0)
                 ∧ ∃ x, Asserted s u 0 x))))

/-- DESCRIPTOR_CONSUME (R441, R443): with one function and one slot to consume, SQ_HEAD advances and one completion more is
owed; a descriptor that fails a check is rejected with that check's status in this tick and counted, and one that passes and
is not policed joins the queue of its context. -/
def Obligations.Descriptors : Prop :=
  (∀ s : State, s.aon.inReset = false → s.clk.did.consumed = false → (∀ kv ∈ s.funcs, mayConsume (funcOf s (kv.1 % 513)) = false) →
    ∃ u, exec .descriptorConsume s = .next u ∧ u = { s with clk := { s.clk with did := { s.clk.did with consumed := true } } })
  ∧ (∀ (s : State) (fn : Fin 513) (f : Func), s.aon.inReset = false → s.clk.did.consumed = false → s.funcs = [(fn.val, f)] →
    mayConsume f = true → f.sqSeen = f.sqHead + 1 →
    (let sq : Fin 512 := Fin.ofNat 512 f.sqHead.toNat
     let d := descOf (tget 0 f.ring sq.val)
     ∃ u, exec .descriptorConsume s = .next u ∧ (funcOf u fn.val).sqHead = f.sqHead + 1 ∧ (funcOf u fn.val).open_ = f.open_ + 1 ∧
       u.mem = s.mem ∧ u.tiles = s.tiles ∧
       (∀ st : BitVec 8, descCheck s fn.val d = some st →
          u.host.queued = s.host.queued ∧ Counts s u (only .descReject 1) ∧
          u.host.due = s.host.due ++ [⟨fn, 0, none, sq, recordNat (reqOf s fn sq d false) 0 false (Result.of st)⟩])
       ∧ (descCheck s fn.val d = none → (colour f.meter (preColour f.meter d) (64 + d.inLen)).1 = .green →
          (ctxOf s d.ctx.toNat).graph = 0 →
          (s.host.queued.filter (fun x => x.ctx == d.ctx)).length < (ctxOf s d.ctx.toNat).adm.qMax →
          u.host.due = s.host.due ∧ u.host.queued.length = s.host.queued.length + 1 ∧
          ∃ r ∈ u.host.queued, r.fn = fn ∧ r.sq = sq ∧ r.ctx = d.ctx ∧ r.op = d.op ∧ r.tag = d.tag ∧ r.pipe = d.pipe ∧ r.k = d.k ∧
            r.item.toNat = d.item % 2 ^ 36 ∧ r.resAddr = d.resAddr ∧ r.seen = s.clk.tick)))

/-- ADMISSION_OPPORTUNITY (R262, R264, R453, R472): on a tick of the pipeline's period; a shedding level closes it and is
counted; a draining plan or a node outside the epoch admits nothing; else the first ready request in the order of R453 takes
the slot of its place, with the tick, the margin (R107) and the segments (R169) of its context. A refused one (timing class,
R271) completes. FRAME_BOUNDARY completes (R276, R277). At a tick that is a multiple of 64, with one pipeline of one
residency set and one request queued for it: an empty set goes to the request's context, for its first frame; a set that has
the context, with frames left, keeps it for one more; a set of another context goes to it. Each loads the buffer of the
frame's parity for the context. -/
def Obligations.Admission : Prop :=
  (∀ (pipe : Fin 63) (bad : List CtxId) (s : State) (p : Plan) (q : Pipe),
     s.plan.active = some p → p.pipes[pipe.val]? = some q → s.clk.tick % q.period = q.phase → s.plan.start ≤ s.clk.tick →
     pipe.val ∉ s.clk.did.pipes →
     (let did : TickDone := { s.clk.did with pipes := s.clk.did.pipes ++ [pipe.val] }
      ∃ u, exec (.admissionOpportunity pipe bad) s = .next u ∧ u.clk = { s.clk with did := did } ∧
        ((q.kind = 4 ∨ s.plan.draining = true ∨ s.mach.dropped ≠ none) → u = { s with clk := u.clk })
        ∧ (q.kind ≠ 4 → s.plan.draining = false → s.mach.dropped = none →
           (8 - s.pow.shed.toNat ≤ s.clk.tick / q.period % 8 → u = { s with clk := u.clk, cnt := u.cnt } ∧ Counts s u (only .shedOpp 1))
           ∧ (s.clk.tick / q.period % 8 < 8 - s.pow.shed.toNat → frameHolds s pipe.val = false →
               ((∀ r ∈ s.host.queued, ready s pipe.val q r = false) → u = { s with clk := u.clk })
               ∧ (∀ r : Req, q.perIssue = 1 → bestBy (admitBefore s pipe.val) (s.host.queued.filter (ready s pipe.val q)) = some r →
                   r.ctx ∉ bad → multiPhase p q = false →
                   (nodeClass s ≤ p.timingClass →
                     (∀ k : Nat, k ≠ slotFor q s.clk.tick 0 → admOf u k = admOf s k) ∧ u.host.queued.length + 1 = s.host.queued.length ∧
                     u.cnt = s.cnt ∧ u.host.due = s.host.due ∧
                     ∃ a : Adm, admOf u (slotFor q s.clk.tick 0) = some a ∧ a.req = r ∧ a.t = s.clk.tick ∧ a.place = 0 ∧ a.fault = none ∧
                       a.segs = (ctxOf s r.ctx.toNat).segs ∧
                       a.entry = none ∧ a.cal = calNow s r.ctx.toNat ∧
                       a.margin = (if a.cal.auditEn then a.cal.marginNow else a.cal.marginCal))
                   ∧ (p.timingClass < nodeClass s → u.host.admitted = s.host.admitted ∧ Counts s u (only .refusedAdmit 1) ∧
                     u.host.due = s.host.due ++ [⟨r.fn, 0, none, r.sq, recordNat r 0 false (Result.of 0x07)⟩]))))))
  ∧ (∀ s : State, ∃ u, exec .frameBoundary s = .next u ∧ u.mem = s.mem ∧ u.tiles = s.tiles ∧
       ∀ (p : Plan) (q : Pipe) (r : Req), s.plan.active = some p → p.pipes = [q] → q.resSets = 1 → s.clk.tick % 64 = 0 →
       s.clk.did.framed = false → s.host.queued = [r] → r.pipe = 0 →
         (let now : Option ResSet := tget none s.host.resSets 0
          let holds (n : Nat) : Prop := ∃ x : ResSet, tget none u.host.resSets 0 = some x ∧ x.ctx = r.ctx ∧ x.frames = n ∧
            bufferOf x (frameOdd s.clk.tick) = some r.ctx
          u.clk.did.framed = true ∧ u.host.queued = s.host.queued ∧
          (now = none → holds 1 ∧ u.host.resChanged = [0])
          ∧ (∀ x : ResSet, now = some x → x.ctx = r.ctx → x.frames < q.frameMax → holds (x.frames + 1) ∧ u.host.resChanged = [])
          ∧ (∀ x : ResSet, now = some x → x.ctx ≠ r.ctx → holds 1 ∧ u.host.resChanged = [0])))

/-- PHASE_START (R273, R185): START ticks after an opportunity every tile that serves the phase begins at its entry bundle,
unbound and outside every loop, and keeps its registers and its store; a tile that does not serve it is as before. A search
of another entry node that an INTERNAL pipeline works on has the T and the margin of its query cells, and counts in the
audit sequence (R81, R107, R279; log 111). PHASE_BOUNDARY_END (R275): at the end of a request's last phase an earlier fault
ends it, its slot is free and its record is due; at no boundary of its phases nothing happens. -/
def Obligations.Phases : Prop :=
  ((∀ (pipe : Fin 63) (phase : Fin 255) (s : State) (p : Plan) (q : Pipe) (h : Phase),
     s.plan.active = some p → p.pipes[pipe.val]? = some q → phase.val < q.phaseNum → p.phases[q.phaseFirst + phase.val]? = some h →
     h.start ≤ s.clk.tick → (s.clk.tick - h.start) % q.period = q.phase → s.plan.start ≤ s.clk.tick - h.start →
     (pipe.val, phase.val) ∉ s.clk.did.phases →
     ∃ u, exec (.phaseStart pipe phase [] [] []) s = .next u ∧ u = { s with clk := u.clk, tiles := u.tiles } ∧
       u.clk = { s.clk with did := { s.clk.did with phases := s.clk.did.phases ++ [(pipe.val, phase.val)] } } ∧
       (∀ (i e : Nat) (sec : TileSec), p.tiles[i]? = some sec → entryOf sec (q.phaseFirst + phase.val) = some e →
         (let x := tileOf s i
          let y := tileOf u i
          y.run = true ∧ y.next = e ∧ y.phaseTick = s.clk.tick ∧ y.phaseT = s.clk.tick - h.start ∧ y.bound = none ∧
          y.fetchFail = false ∧ (∀ k : Fin 4, (y.loops[k]).live = false) ∧ y.regs = x.regs ∧ y.store = x.store ∧ y.wait = x.wait ∧
          y.acc = x.acc ∧ y.banks = x.banks ∧ y.absmax = x.absmax))
       ∧ (∀ i : Nat, ((p.tiles[i]?).bind (fun x => entryOf x (q.phaseFirst + phase.val))) = none → tileOf u i = tileOf s i))
   ∧ (∀ (pipe : Fin 63) (s : State) (p : Plan) (q : Pipe) (h : Phase) (x : QueryIn) (k : Nat),
     s.plan.active = some p → p.pipes[pipe.val]? = some q → q.kind = 4 → 0 < q.phaseNum → p.phases[q.phaseFirst]? = some h →
     h.start ≤ s.clk.tick → (s.clk.tick - h.start) % q.period = q.phase → s.plan.start ≤ s.clk.tick - h.start →
     (pipe.val, 0) ∉ s.clk.did.phases → k = slotFor q (s.clk.tick - h.start) x.place.val → x.place.val < q.perIssue →
     (ctxOf s x.ctx.toNat).live = true → admOf s k = none →
     ∃ (u : State) (a : Adm), exec (.phaseStart pipe 0 [x] [] []) s = .next u ∧ admOf u k = some a ∧ a.entry = some x.entry ∧
       a.req.ctx = x.ctx ∧ a.t = x.t.toNat ∧ a.margin = x.margin ∧ a.segs = (ctxOf s x.ctx.toNat).segs ∧ a.silent = true ∧
       (ctxOf u x.ctx.toNat).audit.seq = ((ctxOf s x.ctx.toNat).audit.seq + 1) % 2 ^ 32))
  ∧ (∀ (slot : Fin 1024) (s : State) (p : Plan) (a : Adm), s.plan.active = some p → admOf s slot.val = some a →
       ∃ u, exec (.phaseBoundaryEnd slot) s = .next u ∧
         (∀ st : BitVec 8, (phaseBoundary p a s.clk.tick).2 = true → a.fault = some st → st ≠ 0x07 → a.silent = false →
           admOf u slot.val = none ∧ (∀ k : Nat, k ≠ slot.val → admOf u k = admOf s k) ∧ u.cnt = s.cnt ∧ u.mem = s.mem ∧
           u.host.due = s.host.due ++ [⟨a.req.fn, a.t, some slot.val, a.req.sq,
             recordNat a.req a.t (inRehearsal s a.t s.clk.tick) { Result.of st with status := finalStatus s a.req (Result.of st) }⟩])
         ∧ (phaseBoundary p a s.clk.tick = (false, false) → u = s))

/-- ASYNC_ELEMENT_LAND of host data that an XLOAD asked for completes (R188, R189, R202, R258): by the end of the deadline tick
the data are written to the tile's store and the element is ARRIVED, later they are discarded and it is LATE; an upsert's
F32 input with a NaN or an infinite element will end with BAD_FIELD (R72). WAIT_DEADLINE_END completes when the deadline
tick of an armed wait object has come: where every outstanding element of it is a write to the host and no flash read is
queued, each is LATE, and so is every cell that has not come, and an AWAIT that holds the tile completes (R189, R190).
BUNDLE_FETCH_UNCORRECTABLE completes (R166): at a word of the program of a tile that fetches a bundle, the tile issues
nothing more in the phase, its fault bit is set, the word is counted, and every request of the phase will end with
MEDIA_ERROR. SRAM_SCRUB_REREAD completes (R166): a scrubbed word that decodes again leaves the store as it is; one that does
not has a lasting error, and uses a spare, counted, or sets the store's fault bit when none of its tile's is left. -/
def Obligations.ElementsAndStores : Prop :=
  ((∀ (id : Nat) (bytes : List Byte) (s : State) (e : Elem) (dst off : Nat),
     elemOf s id = some e → e.kind = .loadHost dst bytes.length off → elemHeld s id = false →
     ∃ u, exec (.asyncElementLand id (.data bytes)) s = .next u ∧
       u = { s with tiles := u.tiles, elems := s.elems.filter (fun x => x.id != e.id), host := u.host, cnt := u.cnt } ∧
       Counts s u (fun _ => 0) ∧
       ((∀ (k : Fin 1024) (q : Adm), e.slot = some k → admOf s k.val = some q → q.req.op ≠ 0x02) → u.host = s.host) ∧
       (∀ (k : Fin 1024) (q : Adm) (i : Nat), e.slot = some k → admOf s k.val = some q → q.req.op = 0x02 → q.req.inKind = 1 →
         q.fault = none → off % 4 = 0 → 4 * i + 4 ≤ bytes.length →
         (let v : F32 := BitVec.ofNat 32 (leAt bytes (4 * i) 4)
          fisNaN v = true ∨ fisInf v = true) → admOf u k.val = some { q with fault := some 0x02 }) ∧
       (∀ k : Nat, k ≠ e.tile.val → tileOf u k = tileOf s k) ∧
       (let x := tileOf s e.tile.val
        let y := tileOf u e.tile.val
        let o := x.wait[e.wait]
        (s.clk.tick ≤ o.dl →
           y = { withStore x y.store dst bytes.length with wait := x.wait.set e.wait { o with arrived := o.arrived + 1 } } ∧
           Stored y.store x.store dst bytes.length (fun i => bytes.getD i 0))
        ∧ (o.dl < s.clk.tick → y = { x with wait := x.wait.set e.wait { o with late := o.late + 1 } })))
   ∧ (∀ (t : Fin 192) (w : Fin 64) (s : State),
     (let x := tileOf s t.val
      let o := x.wait[w]
      o.armed = true → o.final = false → o.dl ≤ s.clk.tick →
      ∃ u, exec (.waitDeadlineEnd t w) s = .next u ∧
       ((∀ e ∈ s.elems, e.tile = t → e.wait = w → e.kind = .storeHost) → s.elems.Pairwise (fun a b => a.id ≠ b.id) → s.fl.reads = [] →
        u.mem = s.mem ∧ u.cnt = s.cnt ∧
        u.elems = s.elems.filter (fun e => !(e.tile == t && e.wait == w)) ∧ (∀ k : Nat, k ≠ t.val → tileOf u k = tileOf s k) ∧
        (let n := (s.elems.filter (fun e => e.tile == t && e.wait == w)).length
         let y := tileOf u t.val
         y.wait[w] = { o with late := o.late + n + (o.exp - o.cells), final := true } ∧ y.store = x.store ∧
         (x.awaiting = none → y.regs = x.regs) ∧
         (∀ (d : Fin 32) (pd : Fin 16), x.awaiting = some (d, pd, w) → y.awaiting = none ∧
           (tget 0 x.due (regKey (.s d.val)) ≤ (o.dl + 1) * tickCycles s → y.regs.s[d] = BitVec.ofNat 64 o.arrived) ∧
           (pd ≠ 0 → tget 0 x.due (regKey (.p pd.val)) ≤ (o.dl + 1) * tickCycles s →
             y.regs.p[pd] = status (o.arrived = o.issued + o.exp))))))))
  ∧ ((∀ (t : Fin 192) (off : Nat) (s : State), mayFetch s t = true → off < progLimit s t.val →
       ∃ u, exec (.bundleFetchUncorrectable t off) s = .next u ∧ u.mem = s.mem ∧ u.tileFault.getLsbD t.val = true ∧
         (∀ k : Nat, k ≠ t.val → tileOf u k = tileOf s k) ∧
         (let x := tileOf s t.val
          tileOf u t.val = { x with
            fetchFail := true, inBundle := false, scrub := if off / 8 * 8 ∈ x.bad then x.scrub else x.scrub ++ [off / 8 * 8] } ∧
          (∀ (k : Fin 1024) (a : Adm), admOf s k.val = some a → a.req.pipe = x.phasePipe → a.t = x.phaseT → a.fault = none →
             admOf u k.val = some { a with fault := some 0x0C }) ∧
          (∀ (k : Fin 1024) (a : Adm), admOf s k.val = some a → (a.req.pipe ≠ x.phasePipe ∨ a.t ≠ x.phaseT) →
             admOf u k.val = some a)) ∧
         (counterOf u .uncorrSram).toNat = min ((counterOf s .uncorrSram).toNat + 1) 4294967295)
     ∧ (∀ (t : Fin 192) (off : Nat) (s : State), off ∈ (tileOf s t.val).scrub →
       (let x := tileOf s t.val
        let lasting := if off ∈ x.bad then x.bad else x.bad ++ [off]
        (∃ u, exec (.sramScrubReread (.tile t) off true) s = .next u ∧ TileBecomes s u t { x with scrub := x.scrub.erase off })
        ∧ (∃ u, exec (.sramScrubReread (.tile t) off false) s = .next u ∧ u.mem = s.mem ∧
             (x.spares < 16 →
               TileAndCounts s u t { x with scrub := x.scrub.erase off, bad := lasting, spares := x.spares + 1 } (only .sramRemap 1))
             ∧ (16 ≤ x.spares →
               TileIs s u t { x with scrub := x.scrub.erase off, bad := lasting } ∧ u.tileFault.getLsbD t.val = true))))
     ∧ (∀ (p : Fin 8) (off : Nat) (s : State), off ∈ (podOf s p.val).scrub →
       ∃ u, exec (.sramScrubReread (.pod p) off true) s = .next u ∧ u = { s with pods := u.pods } ∧
         podOf u p.val = { podOf s p.val with scrub := (podOf s p.val).scrub.erase off } ∧ ∀ k : Nat, k ≠ p.val → podOf u k = podOf s k))

/-- On a Bean that can be sent commands, BLDQ and BLDW load LEN columns and keep the others, BLDP and BLDX load 64 bytes, BCLR
clears the list and the completion word (R124, R126 to R129), with the word and the data of the list entry that is due, else
with their own; no other register of the Bean and nothing else of the node changes. BSCAN on a free Bean completes (R130,
R131). With a legal parameter block and no uncorrectable operand: of the records of its rows that are live and not excluded,
the malformed ones and the passing ones are counted, the list gains the passing ones and keeps at most 8, the Bean is busy,
and memory is as before. With an illegal block it reads no row, adds its rows to ROWS_LOST and sets BAD_PARAM. BPUT, BZERO
and BCOPY that meet no uncorrectable operand complete (R136 to R138): the bytes they name take the columns of the work
buffer, zero, or the rows as the Bean read them, every other byte of memory is as before, and the Bean is busy. A BCOPY runs
once its mover's conditions hold (R141) and its die's place is free (R140). -/
def Obligations.BeanCommands : Prop :=
  (∀ (b : Fin 6144) (w : BeanWord) (data : List Byte) (s : State), Awake s b →
     (let x := beanOf s b.val
      (∃ u y, exec (.bldq b w data) s = .next u ∧ BeanBecomes (unqueued s b .bldq) u b { x with qbuf := y } ∧
         ((dueWord s b .bldq w).len.toNat ≤ 10 →
           Columns y x.qbuf (dueData s b .bldq data) 320 (32 * (dueWord s b .bldq w).len.toNat)))
      ∧ (∃ u y, exec (.bldw b w data) s = .next u ∧ BeanBecomes (unqueued s b .bldw) u b { x with wbuf := y } ∧
         ((dueWord s b .bldw w).len.toNat ≤ 10 →
           Columns y x.wbuf (dueData s b .bldw data) 320 (32 * (dueWord s b .bldw w).len.toNat)))
      ∧ (∃ u y, exec (.bldp b w data) s = .next u ∧ BeanBecomes (unqueued s b .bldp) u b { x with param := y } ∧
         Columns y [] (dueData s b .bldp data) 64 64)
      ∧ (∃ u y, exec (.bldx b w data) s = .next u ∧ (beanOf u b.val).excl = y ∧
         (((queuedFor s b.val .bldx).bind (·.snap)) = none → Columns y [] (dueData s b .bldx data) 64 64 ∧
           BeanBecomes (unqueued s b .bldx) u b { x with excl := y, exclFor := none, withheld := false }) ∧
         (∀ (q : QueuedBean) (t : Nat), queuedFor s b.val .bldx = some q → q.snap = some t →
           BeanBecomes (unqueued s b .bldx) u b { x with
             excl := exclusionBytes (exclusionsFor s b.val t), exclFor := some (q.list, t), withheld := decisionPending s b.val t }))
      ∧ (∃ u, exec (.bclr b w) s = .next u ∧ BeanBecomes (unqueued s b .bclr) u b { x with
         list := [], tag := 0, status := 0, pass := 0, malformed := 0, rowsLost := 0, failRow := 0, failed := false, nan := 0,
         inf := 0, groupRows := 0 })))
  ∧ (∀ (b : Fin 6144) (w : BeanWord) (odd : List (Nat × Burst)) (s : State), Awake s b →
       (let v := dueWord s b .bscan w
        BeanFree s b (dueAt s b .bscan) → scansUnsure s b.val v = false → scanWithheld s b.val (queuedFor s b.val .bscan) = false →
        dueRefused s b .bscan = false →
        (let x := scanStart (beanOf s b.val) v
         ∃ u, exec (.bscan b w odd) s = .next u ∧ (beanOf u b.val).tag = v.tag ∧
          (paramBad (paramOf x.param) = true → u.mem = s.mem ∧ (beanOf u b.val).status = max x.status 4 ∧
            (beanOf u b.val).rowsLost = x.rowsLost + v.nrows.toNat ∧ (beanOf u b.val).list = x.list) ∧
          (paramBad (paramOf x.param) = false → operandBad s b.val .bscan v odd = none → s.mach.rehActive = false →
            StacksOnly s u ∧ u.mem = s.mem ∧
            (let y := beanOf u b.val
             (∃ r, y.run = some r ∧ r.op = .bscan ∧ r.w = v ∧ r.extra = false ∧ r.retryDue = false ∧ r.isRetry = false ∧
               r.stop = dueAt s b .bscan + 8 + 64 * v.nrows.toNat) ∧
             y.status = x.status ∧ y.qbuf = x.qbuf ∧ y.param = x.param ∧ y.excl = x.excl ∧ y.rowsLost = x.rowsLost ∧
             y.malformed + (scanGood s b x v odd).length = x.malformed + (scanLive s b x v odd).length ∧
             y.pass = x.pass + (scanKept s b x v odd).length ∧
             y.nan = x.nan + ((scanGood s b x v odd).filter (fun r => fisNaN (scoreOf x r))).length ∧
             (x.list.length ≤ 8 → y.list.length = min 8 (x.list.length + (scanKept s b x v odd).length)) ∧
             (∀ e ∈ y.list, e ∈ x.list ∨ e ∈ scanKept s b x v odd)) ∧
            (∀ k : Nat, k ≠ b.val → beanOf u k = beanOf s k)))))
  ∧ (∀ (b : Fin 6144) (w : BeanWord) (odd : List (Nat × Burst)) (s : State), Awake s b →
       (let row (r : Nat) : Nat := rowAddr b.val r
        (let v := dueWord s b .bput w
         BeanFree s b (dueAt s b .bput) → dueRefused s b .bput = false → beanWordOk .bput v = true → operandBad s b.val .bput v odd = none →
         ∃ u, exec (.bput b w odd) s = .next u ∧ StacksOnly s u ∧
           (∀ i : Nat, i < 16 * v.len.toNat →
             tget 0 u.mem (row v.pairRow.toNat + 16 * v.off.toNat + i) = (beanOf s b.val).wbuf.getD i 0) ∧
           (beanBursts s odd (row v.pairRow.toNat + 16 * v.off.toNat) (16 * v.len.toNat) = [] →
             Stored u.mem s.mem (row v.pairRow.toNat + 16 * v.off.toNat) (16 * v.len.toNat) (fun i => (beanOf s b.val).wbuf.getD i 0)) ∧
           (beanOf u b.val).run = some ⟨.bput, v, false, false, false, false, 0, dueAt s b .bput + beanNs .bput v,
             dueAt s b .bput + 2 * beanNs .bput v + 68⟩ ∧
           (beanOf u b.val).list = (beanOf s b.val).list)
        ∧ (let v := dueWord s b .bzero w
         BeanFree s b (dueAt s b .bzero) → dueRefused s b .bzero = false → beanWordOk .bzero v = true →
         ∃ u, exec (.bzero b w) s = .next u ∧ StacksOnly s u ∧ u.cnt = s.cnt ∧
           (∃ r, (beanOf u b.val).run = some r ∧ r.op = .bzero ∧ r.w = v ∧ r.retryDue = false) ∧
           (∀ i j : Nat, i < v.nrows.toNat → j < 1024 → tget 0 u.mem (row (v.pairRow.toNat + i) + j) = 0) ∧
           (∀ a : Nat, (∀ i : Nat, i < v.nrows.toNat → ¬ (row (v.pairRow.toNat + i) ≤ a ∧ a < row (v.pairRow.toNat + i) + 1024)) →
             tget 0 u.mem a = tget 0 s.mem a))
        ∧ (beanWordOk .bcopy w = true → moverMay s b.val .bcopy w = true → placeFree s (dieOfBean b.val) = true →
           operandBad s b.val .bcopy w odd = none →
           ∃ u, exec (.bcopy b w odd) s = .next u ∧ StacksOnly s u ∧
           (∃ r, (beanOf u b.val).run = some r ∧ r.op = .bcopy ∧ r.w = w ∧ r.extra = true ∧ r.retryDue = false) ∧
           tget none u.stk.extraOn (dieOfBean b.val) = some b ∧
           (∀ i j : Nat, i < w.nrows.toNat → j < 1024 →
             tget 0 u.mem (row (w.dest.toNat + i) + j) = (beanRead s odd (row (w.pairRow.toNat + i)) 1024).getD j 0) ∧
           (∀ a : Nat, (∀ i : Nat, i < w.nrows.toNat → ¬ (row (w.dest.toNat + i) ≤ a ∧ a < row (w.dest.toNat + i) + 1024)) →
             tget 0 u.mem a = tget 0 s.mem a))))

/-- The completion word of a Bean (R134): its fields stand in their places, saturating, and bit 0 makes the parity of the word
even. -/
def Obligations.CompletionWord : Prop :=
  ∀ x : Bean, x.status < 8 → x.list.length ≤ 8 →
    (let n := completionWord x
     n < 2 ^ 64 ∧ n / 2 ^ 56 = x.tag.toNat ∧ n / 2 ^ 53 % 8 = x.status ∧ n / 2 ^ 49 % 16 = x.list.length ∧
     n / 2 ^ 38 % 2 ^ 11 = min 2047 x.pass ∧ n / 2 ^ 31 % 2 ^ 7 = min 127 x.malformed ∧ n / 2 ^ 21 % 2 ^ 10 = min 1023 x.rowsLost ∧
     n / 2 ^ 1 % 2 ^ 16 = x.failRow.toNat ∧
     ((List.range 64).map (fun i => n / 2 ^ i % 2)).sum % 2 = 0)

/-- A Bean abandons a BPUT whose operand is uncorrectable, without changing memory, and its one retry is due. BEAN_RETRY, once
the access gap has ended, runs the command again, in its booking where it can end there and else on its die's extra place;
it keeps the Bean busy, or fails for good: STATUS is at least 2, the failure is counted, and the row that FAIL_ROW names is
to be remapped (R140, R148). BEAN_COMMAND_END, in the tick in which the command's duration ends, frees the Bean and its
die's extra place; a retry that ends so raises STATUS to at least 1, names the row that had failed first, and is counted
(R125, R134, R148). The extra place of a die (R140, R141): MOVER_START lets a mover ask for it once its conditions hold;
EXTRA_START gives the free place to the first of the waiting extras whose Bean can take it, by kind, request time and Bean,
and its command then runs. BRDL returns its columns into the readback buffer and clears the list and the completion word
(R133, R134); of an idle Bean with nothing unfinished the columns are those of its list and counts, which join the node's
counters (R101); an unsound read waits for BRRD, which takes the readback buffer's columns when they are sound and counts a
retry, and else marks the Bean out (R152). -/
def Obligations.BeanRetriesAndReads : Prop :=
  (∀ (b : Fin 6144) (odd : List (Nat × Burst)) (s : State),
     (∀ (w : BeanWord) (a : Nat), Awake s b → BeanFree s b (dueAt s b .bput) → dueRefused s b .bput = false →
       (let v := dueWord s b .bput w
        operandBad s b.val .bput v odd = some a →
        ∃ u, exec (.bput b w odd) s = .next u ∧
         (∃ r, (beanOf u b.val).run = some r ∧ r.op = .bput ∧ r.w = v ∧ r.retryDue = true ∧ r.isRetry = false) ∧
         (beanOf u b.val).status = (beanOf s b.val).status ∧
         (s.stk.held = [] → StacksOnly s u ∧ u.mem = s.mem)))
     ∧ (∀ r : Running, (beanOf s b.val).run = some r → r.retryDue = true → r.waiting = false → r.stop + 64 < 640 * s.clk.tick + 640 →
       Awake s b → s.stk.urgent.getLsbD b.val = false → s.stk.beanOut.getLsbD b.val = false →
       (let fits := r.extra = false ∧ max (640 * s.clk.tick) (r.stop + 64) + beanNs r.op r.w ≤ r.bookEnd
        fits ∨ placeFree s (dieOfBean b.val) = true →
        ∃ u, exec (.beanRetry b odd) s = .next u ∧
         (operandErr s b.val r.op r.w true odd = none →
           (∃ y, (beanOf u b.val).run = some y ∧ y.op = r.op ∧ y.w = r.w ∧ y.isRetry = true ∧ y.retryDue = false ∧ y.failRow = r.failRow ∧
             (y.extra = true ↔ ¬ fits)) ∧
           (r.op = .bput → ∀ i : Nat, i < 16 * r.w.len.toNat → r.w.len.toNat ≤ 20 →
             tget 0 u.mem (rowAddr b.val r.w.pairRow.toNat + 16 * r.w.off.toNat + i) = (beanOf s b.val).wbuf.getD i 0)) ∧
         (∀ a : Nat, operandErr s b.val r.op r.w true odd = some a → r.op = .bput →
           (beanOf u b.val).status = max (beanOf s b.val).status 2 ∧ (beanOf u b.val).run = none ∧
           ((beanOf s b.val).failed = false → (beanOf u b.val).failRow = r.failRow ∧ (b.val, r.failRow) ∈ u.stk.remapQ) ∧
           (counterOf u .beanAbandon).toNat = min ((counterOf s .beanAbandon).toNat + 1) 4294967295 ∧
           (s.stk.held = [] → u.mem = s.mem ∧ (counterOf u .uncorrMem).toNat = min ((counterOf s .uncorrMem).toNat + 1) 4294967295))))
     ∧ (∀ r : Running, (beanOf s b.val).run = some r → r.retryDue = false → r.stop < 640 * s.clk.tick + 640 →
       ∃ u, exec (.beanCommandEnd b) s = .next u ∧ (beanOf u b.val).run = none ∧ (beanOf u b.val).gapEnd = r.stop + 64 ∧
         (beanOf u b.val).list = (beanOf s b.val).list ∧
         (tget none s.stk.extraOn (dieOfBean b.val) = some b → tget none u.stk.extraOn (dieOfBean b.val) = none) ∧
         (r.isRetry = true → (beanOf u b.val).status = max (beanOf s b.val).status 1 ∧
           ((beanOf s b.val).failed = false → (beanOf u b.val).failRow = r.failRow) ∧
           (counterOf u .beanRetry).toNat = min ((counterOf s .beanRetry).toNat + 1) 4294967295) ∧
         (s.stk.held = [] → StacksOnly s u ∧ u.mem = s.mem)))
  ∧ ((∀ (b : Fin 6144) (s : State) (e : Extra), s.stk.movers.find? (fun e => e.bean == b) = some e → moverMay s b.val e.op e.w = true →
       ∃ u, exec (.moverStart b) s = .next u ∧
         u = { s with stk := { s.stk with movers := s.stk.movers.erase e, extraWait := s.stk.extraWait ++
           [{ e with kind := 2, time := max (640 * s.clk.tick) (beanOf s b.val).gapEnd }] } })
     ∧ (∀ (d : Fin 96) (odd : List (Nat × Burst)) (s : State) (e : Extra) (l : List Extra), tget none s.stk.extraOn d.val = none →
       sortBy extraBefore (s.stk.extraWait.filter (fun e => dieOfBean e.bean.val == d.val && extraReady s e)) = e :: l →
       s.stk.beanOut.getLsbD e.bean.val = false →
       ∃ u, exec (.extraStart d odd) s = .next u ∧
         (operandErr s e.bean.val e.op e.w (e.kind == 0) odd = none → StacksOnly s u ∧ u.stk.extraWait = s.stk.extraWait.erase e ∧
           tget none u.stk.extraOn d.val = some e.bean ∧
           (∃ r, (beanOf u e.bean.val).run = some r ∧ r.op = e.op ∧ r.w = e.w ∧ r.extra = true ∧ r.retryDue = false ∧
             (r.isRetry = true ↔ e.kind = 0)) ∧
           (e.op = .bcopy → beanWordOk .bcopy e.w = true → ∀ i j : Nat, i < e.w.nrows.toNat → j < 1024 →
             tget 0 u.mem (rowAddr e.bean.val (e.w.dest.toNat + i) + j) =
               (beanRead s odd (rowAddr e.bean.val (e.w.pairRow.toNat + i)) 1024).getD j 0))))
  ∧ ((∀ (b : Fin 6144) (w : BeanWord) (unsound : Bool) (s : State), Awake s b →
       ∃ u, exec (.brdl b w unsound) s = .next u ∧
        (let y := beanOf u b.val
         y.list = [] ∧ y.tag = 0 ∧ y.status = 0 ∧ y.pass = 0 ∧ y.malformed = 0 ∧ y.rowsLost = 0 ∧ y.failRow = 0 ∧ y.nan = 0 ∧ y.inf = 0 ∧
         (let x := beanOf s b.val
          let cols := brdlColumns (completionWord x) x.nan x.inf x.list
          x.run = none → (∀ e ∈ s.stk.extraWait, e.bean ≠ b) → (∀ q ∈ s.stk.queue, q.bean ≠ b) →
            y.readback = cols ∧ u = { s with stk := { s.stk with beans := u.stk.beans }, cnt := u.cnt } ∧
            (unsound = false → y.groupRows = 0 ∧ y.rereading = none ∧
              Counts s u (fun c => if c = .recordMalformed then min 127 x.malformed else if c = .scoreNan then min 65535 x.nan
                else if c = .scoreInf then min 65535 x.inf else 0)) ∧
            (unsound = true → y.rereading = some none ∧ u.cnt = s.cnt))))
     ∧ (∀ (b : Fin 6144) (unsound : Bool) (s : State) (at_ : Option (Nat × Nat)), (beanOf s b.val).rereading = some at_ →
       (let x := beanOf s b.val
        ∃ u, exec (.brrd b unsound) s = .next u ∧ beanOf u b.val = { x with groupRows := 0, rereading := none } ∧ u.mem = s.mem ∧
           (unsound = false → u.stk.beanOut = s.stk.beanOut ∧
             (counterOf u .beanRetry).toNat = min ((counterOf s .beanRetry).toNat + 1) 4294967295) ∧
           (unsound = true → u.stk.beanOut.getLsbD b.val = true ∧
             (counterOf u .beanOut).toNat = min ((counterOf s .beanOut).toNat + 1) 4294967295))))

/-- An ordinary access completes (R117 to R120, R142, R144): while a pair that it touches computes it is held, and counted once;
on idle pairs that owe no pressing refresh a write stores its bytes and no other, and a debug-window read answers with the
bytes that memory holds. The codes of node memory (R117, R119): a word read with its own check bits is clean, and one with a
single bit in error is corrected; a burst whose code word is right reads as its data after inner correction, one that the
outer code cannot correct gives nothing, and a correction happens only at bytes of words that the die reported. -/
def Obligations.MemoryAccesses : Prop :=
  (∀ (a : Access) (s : State), a.addr + a.len ≤ 412316860416 →
     ∃ u, exec (.ordinaryAccess a) s = .next u ∧
       ((∃ k ∈ beansOfRange a.addr a.len, beanBusy s k = true) →
         u = { s with stk := { s.stk with held := s.stk.held ++ [a] }, cnt := u.cnt } ∧ Counts s u (only .readHeld 1)) ∧
       ((∀ k ∈ beansOfRange a.addr a.len, beanBusy s k = false) → accessDue s a = true → s.stk.held = [] →
         oddIn s a.odd a.addr a.len = [] → (∀ pc : Nat, (pcTrainOf s pc).dead = false) →
         (a.write = true → a.who = .node ∨ a.who = .remote → a.data.length = a.len →
           StacksOnly s u ∧ u.cnt = s.cnt ∧ u.stk.held = [] ∧ Stored u.mem s.mem a.addr a.len (fun i => a.data.getD i 0)) ∧
         (a.write = false → a.who = .debug → a.len ≤ 64 →
           u.mem = s.mem ∧ u.cnt = s.cnt ∧ u.io.readAbort = false ∧ u.io.readData.toNat = storeNat s.mem a.addr a.len)))
  ∧ ((∀ w : List Byte, w.length = 16 → innerRead w (innerCheck w) = (.clean, w) ∧
       ∀ i : Nat, i < 128 → innerRead (leBytes 16 (leNat w ^^^ 2 ^ i)) (innerCheck w) = (.corrected, w))
     ∧ (∀ b : Burst, b.bytes.length = 64 → b.check.length = 8 → b.inner.length = 4 →
       (let w := burstInner b ++ b.check.take 4
        (rsSolve w = some [] → decodeBurst b = (some (burstInner b), false))
        ∧ (rsSolve w = none → decodeBurst b = (none, false))
        ∧ (∀ d : List Byte, (decodeBurst b).1 = some d → d.length = 64 ∧
           ∀ i : Nat, i < 64 → d.getD i 0 ≠ (burstInner b).getD i 0 → ((burstWords b).map (·.1)).getD (i / 16) .clean ≠ .clean))))

/-- Refresh (R116, R144): REFRESH_DEBT_ACCRUE adds one to a bank's debt, and a debt of 8 makes the pair urgent, counted;
REFPB_ISSUE of an idle pair takes one from both banks, and ends the urgency at debts of 4 or less; RFMPB_ISSUE, due above
the stack's threshold, starts a bank's activation count afresh. Self refresh (R147): SELF_REFRESH_ENTRY puts a stack to
sleep on which nothing computes or waits and no command is booked soon; SELF_REFRESH_EXIT wakes it; with nothing held that
is all that changes. -/
def Obligations.Refreshing : Prop :=
  ((∀ (b : Fin 6144) (k : Fin 2) (s : State),
     ∃ u, exec (.refreshDebtAccrue b k) s = .next u ∧ StacksOnly s u ∧ u.mem = s.mem ∧
       debtOf u (2 * b.val + k.val) = debtOf s (2 * b.val + k.val) + 1 ∧
       (∀ j : Nat, j ≠ 2 * b.val + k.val → debtOf u j = debtOf s j) ∧
       (debtOf s (2 * b.val + k.val) + 1 ≠ 8 → u.stk.urgent = s.stk.urgent ∧ u.cnt = s.cnt) ∧
       (debtOf s (2 * b.val + k.val) + 1 = 8 → Counts s u (only .refreshUrgent 1) ∧ u.stk.urgent.getLsbD b.val = true))
   ∧ (∀ (b : Fin 6144) (s : State), beanBusy s b.val = false → s.stk.selfRef.getLsbD (b.val % 8) = false →
     ∃ u, exec (.refpbIssue b) s = .next u ∧
       (∀ k : Fin 2, debtOf u (2 * b.val + k.val) = debtOf s (2 * b.val + k.val) - 1) ∧
       (∀ j : Nat, j / 2 ≠ b.val → debtOf u j = debtOf s j) ∧
       ((∀ k : Fin 2, debtOf s (2 * b.val + k.val) ≤ 5) → u.stk.urgent.getLsbD b.val = false) ∧
       ((∃ k : Fin 2, 5 < debtOf s (2 * b.val + k.val)) → u.stk.urgent = s.stk.urgent) ∧
       (s.stk.held = [] → StacksOnly s u ∧ u.mem = s.mem ∧ u.cnt = s.cnt))
   ∧ (∀ (b : Fin 6144) (k : Fin 2) (s : State), beanBusy s b.val = false →
     Config.rfmThreshold < tget 0 s.stk.acts (2 * b.val + k.val) →
     ∃ u, exec (.rfmpbIssue b k) s = .next u ∧ u = { s with stk := { s.stk with acts := u.stk.acts } } ∧
       tget 0 u.stk.acts (2 * b.val + k.val) = 0 ∧ ∀ j : Nat, j ≠ 2 * b.val + k.val → tget 0 u.stk.acts j = tget 0 s.stk.acts j))
  ∧ (∀ (k : Fin 8) (s : State),
       ((∀ q ∈ s.stk.queue, q.bean.val % 8 = k.val → 640 * s.clk.tick + 1920 ≤ bookedAt q) →
        (∀ e ∈ s.stk.extraWait, e.bean.val % 8 ≠ k.val) → (∀ a ∈ s.stk.held, ∀ b ∈ beansOfRange a.addr a.len, b % 8 ≠ k.val) →
        (∀ kv ∈ s.stk.beans, kv.1 % 8 = k.val → kv.2.run = none) →
        ∃ u, exec (.selfRefreshEntry k) s = .next u ∧ u = { s with stk := { s.stk with selfRef := u.stk.selfRef } } ∧
         ∀ j : Fin 8, u.stk.selfRef.getLsbD j.val = (j == k || s.stk.selfRef.getLsbD j.val))
       ∧ (s.stk.selfRef.getLsbD k.val = true →
         ∃ u, exec (.selfRefreshExit k) s = .next u ∧ (∀ j : Fin 8, u.stk.selfRef.getLsbD j.val = (j != k && s.stk.selfRef.getLsbD j.val)) ∧
           (s.stk.held = [] → u = { s with stk := { s.stk with selfRef := u.stk.selfRef } })))

/-- ROW_REMAP (R150, R151): the first queued row of a stack whose idle pair's turn it is moves to the lowest unused spare of its
bank through its entry of the stack's table, or the lowest free one, and is counted; its bytes are as before when every
burst reads as stored with fresh codes. With no entry or no spare the fault is counted as a full table. Retraining of a
pseudo-channel (R501, R502): STACK_PC_RETRAIN, for a cause that R501 or R502 lets it have, is counted and starts on the
rolling spare, or holds the pseudo-channel when it has none; STACK_LANE_TRAINING_DONE with training that passes gives the
lane its new temperature tag and ends a hold; training that fails fences the lane for good, and with no redundant lane left
every Bean of the pseudo-channel is marked out and its data are lost. -/
def Obligations.MemoryRepairs : Prop :=
  (∀ (k : Fin 8) (odd : List (Nat × Burst × Burst)) (s : State) (b : Nat) (r : BitVec 16),
     s.stk.remapQ.find? (fun q => beanStack q.1 == k.val && remapMay s q.1) = some (b, r) →
     (let p := rowPlace b r.toNat
      let bank := bankNumber k.val p.1 p.2.1 p.2.2.1
      let ent := (remapFind s k.val p).or (remapFree s k.val)
      ∃ u, exec (.rowRemap k odd) s = .next u ∧ u.stk.remapQ = s.stk.remapQ.erase (b, r) ∧
        (∀ i x : Nat, ent = some i → freeSpare s bank = some x →
          u.stk.spareUsed = s.stk.spareUsed ++ [(bank, x)] ∧
          (remapAt u (4096 * k.val + i)).valid = true ∧ (remapAt u (4096 * k.val + i)).factory = false ∧
          (remapAt u (4096 * k.val + i)).spare.toNat = x ∧ (remapAt u (4096 * k.val + i)).row.toNat = r.toNat / 2 ∧
          (∀ j : Nat, j ≠ 4096 * k.val + i → remapAt u j = remapAt s j) ∧
          (oddIn s odd (rowAddr b r.toNat) 1024 = [] → u.mem = s.mem) ∧
          (counterOf u .rowRemap).toNat = min ((counterOf s .rowRemap).toNat + 1) 4294967295) ∧
        (ent = none ∨ freeSpare s bank = none →
          u.stk.remap = s.stk.remap ∧ u.mem = s.mem ∧
          (counterOf u .remapFull).toNat = min ((counterOf s .remapFull).toNat + 1) 4294967295)))
  ∧ ((∀ (pc : Fin 256) (c : RetrainCause) (last : Bool) (s : State), NodeRuns s →
       (let x := pcTrainOf s pc.val
        x.training = false → x.dead = false → pcMayTrain s pc c = true →
        ∃ u, exec (.stackPcRetrain pc c last) s = .next u ∧ StacksOnly s u ∧ u.mem = s.mem ∧ Counts s u (only .memRetrain 1) ∧
          pcTrainOf u pc.val = { x with training := true, lastLane := last, held := !x.spare } ∧
          ∀ j : Nat, j ≠ pc.val → pcTrainOf u j = pcTrainOf s j))
     ∧ (∀ (pc : Fin 256) (ok : Bool) (tag : BitVec 8) (s : State),
       (let x := pcTrainOf s pc.val
        x.training = true →
        ∃ u, exec (.stackLaneTrainingDone pc ok tag) s = .next u ∧ (s.stk.held = [] → u.mem = s.mem) ∧
          (∀ j : Nat, j ≠ pc.val → pcTrainOf u j = pcTrainOf s j) ∧
          (ok = true → pcTrainOf u pc.val = { x with training := false, held := false, tag := tag } ∧ u.stk.beanOut = s.stk.beanOut)
          ∧ (ok = false → x.spare = true →
              pcTrainOf u pc.val = { x with training := false, held := false, spare := false } ∧ u.stk.beanOut = s.stk.beanOut)
          ∧ (ok = false → x.spare = false → x.lastLane = true → pcTrainOf u pc.val = { x with training := false, held := false, dead := true } ∧
              ∀ b : Fin 6144, u.stk.beanOut.getLsbD b.val = (s.stk.beanOut.getLsbD b.val || decide (pcOfBean b.val = pc.val))))))

/-- A memory sensor reading of 96 dies (R465, R466, R468): every stack's next class rises by each threshold that its hottest die
has reached and falls by at most one, and waits for the boundary; two readings in a row at 105 °C trip. MEM_CLASS_CHANGE
makes it the class, and a class of the node that rose ramps every context calibrated below it whose audits are on (R80). The
always-on domain's sensors (R465, R467, R468): TEMP_STATUS takes the readings; WARN is 1 from 100 °C, and a change of it
raises its event; two readings in a row at 115 °C trip. -/
def Obligations.Sensors : Prop :=
  ((∀ (temps : List (BitVec 8)) (s : State), temps.length = 96 →
     ∃ (u : State) (l : List Nat), exec (.memTempReading temps) s = .next u ∧ u.mem = s.mem ∧ u.tiles = s.tiles ∧
       u.stk.clsNext = some (l, s.clk.tick) ∧ l.length = 8 ∧ clsNow u = clsNow s ∧
       (s.stk.clsNext = none → u = { s with stk := u.stk, aon := u.aon } ∧ u.stk.cls = s.stk.cls) ∧
       (∀ t ∈ temps, t.toNat ≤ u.stk.hotTemp.toNat) ∧
       ((∀ t ∈ temps, t.toNat < 105) → u.aon.tripMem = 0) ∧ ((∃ t ∈ temps, 105 ≤ t.toNat) → u.aon.tripMem = s.aon.tripMem + 1) ∧
       ∀ (k : Fin 8) (cur hot : Nat), (∀ x, s.stk.clsNext = some x → x.2 < s.clk.tick) → (clsNow s)[k.val]? = some cur → cur ≤ 3 →
         (∀ d : Nat, d < 12 → (temps.getD (12 * k.val + d) 0).toNat ≤ hot) →
         (∃ d : Nat, d < 12 ∧ (temps.getD (12 * k.val + d) 0).toNat = hot) →
         (let n := l.getD k.val 0
          (96 ≤ hot → n = 3) ∧ (85 ≤ hot → hot < 96 → cur ≤ 2 → n = 2) ∧ (70 ≤ hot → hot < 85 → cur = 0 → n = 1) ∧
          (hot < 70 → cur = 0 → n = 0) ∧ (hot ≤ 67 → cur = 1 → n = 0) ∧ (67 < hot → hot < 85 → cur = 1 → n = 1) ∧
          (hot ≤ 82 → cur = 2 → n = 1) ∧ (82 < hot → hot < 96 → cur = 2 → n = 2) ∧ (hot ≤ 92 → cur = 3 → n = 2) ∧
          (92 < hot → cur = 3 → n = 3)))
   ∧ (∀ (s : State) (l : List Nat) (t : Nat), s.stk.clsNext = some (l, t) →
     ∃ u, exec .memClassChange s = .next u ∧ u.mem = s.mem ∧ (s.clk.tick ≤ t → u = s) ∧
       (t < s.clk.tick → u.stk.cls = l ∧ u.stk.clsNext = none ∧ (s.stk.rose = false →
         u.stk.rose = decide (s.stk.cls.foldl max 0 < l.foldl max 0)) ∧
         (l.foldl max 0 = s.stk.cls.foldl max 0 → u.evt = s.evt) ∧
         (l.foldl max 0 ≠ s.stk.cls.foldl max 0 → ∃ x, Asserted s u 3 x)))
   ∧ (∀ (ctx : CtxId) (s : State), ∃ u, exec (.calRampOnThermal ctx) s = .next u ∧ u = { s with ctxs := u.ctxs } ∧
       (∀ k : Nat, k ≠ ctx.toNat → ctxOf u k = ctxOf s k) ∧
       ((ctxOf s ctx.toNat).live = true → (ctxOf s ctx.toNat).calNext = none → classRose s = true →
        (ctxOf s ctx.toNat).cal.calClass < (clsNow s).foldl max 0 →
       (let c := ctxOf s ctx.toNat
        (ctxOf u ctx.toNat).cal = if c.cal.state = .off then c.cal else { c.cal with state := .ramp, calm := 0 }))))
  ∧ (∀ (c i : BitVec 8) (optics : List (BitVec 8)) (s : State), optics.length = 6 →
       ∃ u, exec (.aonSensorReading c i optics) s = .next u ∧ u.pow.computeMax = c ∧ u.pow.ioMax = i ∧ u.mem = s.mem ∧
         (∀ t ∈ optics, t.toNat ≤ u.pow.opticMax.toNat) ∧ (u.pow.warn = true ↔ 100 ≤ c.toNat ∨ 100 ≤ i.toNat) ∧
         u.pow = { s.pow with computeMax := c, ioMax := i, opticMax := u.pow.opticMax, warn := u.pow.warn } ∧
         (u.aon.tripCompute = if 115 ≤ c.toNat ∨ 115 ≤ i.toNat then s.aon.tripCompute + 1 else 0) ∧
         (u.pow.warn = s.pow.warn → u.evt = s.evt) ∧ (u.pow.warn ≠ s.pow.warn → ∃ x, Asserted s u 5 x))

/-- A power window's boundary (R469, R471): CAP_EFF is the least of the caps that stand, SHED rises by one when the window was
over it or WARN is 1, falls by one after four calm windows, and CALM counts those; nothing else but the SHED event changes. -/
def Obligations.PowerWindows : Prop :=
  ∀ (power : BitVec 16) (s : State), s.clk.tick % 1024 = 0 → s.clk.lastPower ≠ some s.clk.tick →
    ∃ u, exec (.powerWindowBoundary power) s = .next u ∧ u = { s with pow := u.pow, clk := u.clk, evt := u.evt, cnt := u.cnt } ∧
      u.clk = { s.clk with lastPower := some s.clk.tick } ∧ u.pow.powerW = power ∧
      (∀ n : Nat, n = u.pow.capEff.toNat ↔
        (n = s.aon.powerLimit.toNat ∨ (n = s.pow.capW.toNat ∧ n ≠ 0) ∨ ∃ b, s.pow.boardCap = some b ∧ n = b.toNat) ∧
        n ≤ s.aon.powerLimit.toNat ∧ (s.pow.capW ≠ 0 → n ≤ s.pow.capW.toNat) ∧ ∀ b, s.pow.boardCap = some b → n ≤ b.toNat) ∧
      (let cap := u.pow.capEff.toNat
       let hot := cap < power.toNat ∨ s.pow.warn = true
       let calm := min 15 (s.pow.calm.toNat + 1)
       (hot → u.pow.shed.toNat = min 7 (s.pow.shed.toNat + 1) ∧ u.pow.calm = 0)
       ∧ (¬ hot → power.toNat * 100 < cap * 95 → 4 ≤ calm → 0 < s.pow.shed.toNat →
           u.pow.shed.toNat + 1 = s.pow.shed.toNat ∧ u.pow.calm = 0)
       ∧ (¬ hot → power.toNat * 100 < cap * 95 → (calm < 4 ∨ s.pow.shed = 0) → u.pow.shed = s.pow.shed ∧ u.pow.calm.toNat = calm)
       ∧ (¬ hot → cap * 95 ≤ power.toNat * 100 → u.pow.shed = s.pow.shed ∧ u.pow.calm = 0)) ∧
      (u.pow.shed ≠ s.pow.shed → ∃ x, Asserted s u 4 x)

/-- A rate window's boundary for a node with one context (R78, R79, R110): the count of applications becomes RATE_OBS and starts
afresh; a departure ramps a NORMAL record, counted, and resets the calm of a ramping one, which eight calm windows make
NORMAL again; the audit counts are frozen and start afresh. The audit root's decision and its broadcast (R110 to R112): over
target the margin widens by a step to at most MARGIN_MAX, below target for NARROW_AFTER windows it narrows to at least
MARGIN_MIN; counts stamped after W + 32 are left out and counted; a member takes what it received at W + 64, and one that
received nothing keeps its margin and counts. -/
def Obligations.RatesAndAudits : Prop :=
  (∀ (s : State) (bad : List CtxId), s.clk.tick % 16384 = 0 → s.clk.lastRate ≠ some s.clk.tick →
     ∃ u, exec (.rateWindowBoundary bad) s = .next u ∧ u.mem = s.mem ∧ u.clk = { s.clk with lastRate := some s.clk.tick } ∧
       ∀ (k : CtxId) (c : Ctx), bad = [] → s.ctxs = [(k.toNat, c)] → c.live = true → c.rate < 2 ^ 32 → c.calNext = none → classRose s = false →
        (let depart := 2 * c.cal.rateRef < c.rate ∨ c.cal.calClass < (clsNow s).foldl max 0
         let d := ctxOf u k.toNat
         d.rate = 0 ∧ d.cal.rateObs = c.rate ∧ d.cal.marginNow = c.cal.marginNow ∧
         (auditMember s k.toNat = true → d.audit.total = 0 ∧ d.audit.miss = 0 ∧
           (c.cal.auditEn = true → d.audit.frozen = some (c.audit.total, c.audit.miss)) ∧
           (c.cal.auditEn = false → d.audit.frozen = some (0, 0))) ∧
         (auditMember s k.toNat = false → d.audit.frozen = c.audit.frozen ∧ u.io = s.io) ∧
         (c.cal.state = .normal → depart → d.cal.state = .ramp ∧ d.cal.calm = 0 ∧ Counts s u (only .calRamp 1)) ∧
         (c.cal.state = .normal → ¬ depart → d.cal.state = .normal ∧ u.cnt = s.cnt) ∧
         (c.cal.state = .ramp → depart → d.cal.state = .ramp ∧ d.cal.calm = 0 ∧ u.cnt = s.cnt) ∧
         (c.cal.state = .ramp → ¬ depart → c.cal.calm < 7 → d.cal.state = .ramp ∧ d.cal.calm = c.cal.calm + 1) ∧
         (c.cal.state = .ramp → ¬ depart → c.cal.calm = 7 → d.cal.state = .normal ∧ d.cal.calm = 0) ∧
         (c.cal.state = .off → d.cal.state = .off ∧ u.cnt = s.cnt)))
  ∧ ((∀ (k : CtxId) (counts : List AuditCount) (s : State) (t m : Nat),
       (let c := settleCal s (ctxOf s k.toNat)
        c.live = true → s.clk.tick % 16384 = 33 → auditRoot s k.toNat = some s.aon.nodeId → c.cal.auditEn = true →
        c.audit.frozen = some (t, m) →
        ∃ u, exec (.auditRootDecision k counts false) s = .next u ∧ u.mem = s.mem ∧
          (let used := counts.filter (fun a => decide (a.stamp ≤ s.clk.tick - 1))
           let tot := min 4294967295 (t + (used.map (fun a => a.total.toNat)).sum)
           let miss := min 4294967295 (m + (used.map (fun a => a.miss.toNat)).sum)
           let d := ctxOf u k.toNat
           let wide := f16Add c.cal.marginNow c.cal.marginStep
           let narrow := f16Sub c.cal.marginNow c.cal.marginStep
           Counts s u (only .auditLate (counts.length - used.length)) ∧ d.audit.frozen = none ∧
           (tot = 0 → d.cal = c.cal ∧ d.audit.below = c.audit.below ∧ d.audit.lastMove = 0) ∧
           (tot ≠ 0 → c.cal.missTarget * tot < miss * 65535 →
             d.cal = { c.cal with marginNow := if f16Le wide c.cal.marginMax then wide else c.cal.marginMax } ∧ d.audit.below = 0 ∧
             d.audit.lastMove = 1) ∧
           (tot ≠ 0 → miss * 65535 < c.cal.missTarget * tot → c.audit.below + 1 < c.cal.narrowAfter →
             d.cal = c.cal ∧ d.audit.below = c.audit.below + 1 ∧ d.audit.lastMove = 0) ∧
           (tot ≠ 0 → miss * 65535 < c.cal.missTarget * tot → c.cal.narrowAfter ≤ c.audit.below + 1 →
             d.cal = { c.cal with marginNow := if f16Le c.cal.marginMin narrow then narrow else c.cal.marginMin } ∧ d.audit.below = 0 ∧
             d.audit.lastMove = 2) ∧
           (tot ≠ 0 → miss * 65535 = c.cal.missTarget * tot → d.cal = c.cal ∧ d.audit.below = 0 ∧ d.audit.lastMove = 0))))
     ∧ (∀ (k : CtxId) (rx : Option (F16 × BitVec 2)) (s : State),
       (let c := settleCal s (ctxOf s k.toNat)
        c.live = true → s.clk.tick % 16384 = 64 → c.cal.auditEn = true → auditMember s k.toNat = true → c.audit.applied ≠ some s.clk.tick →
        ∃ u, exec (.marginBroadcastApply k rx) s = .next u ∧ u = { s with ctxs := u.ctxs, cnt := u.cnt } ∧
          (∀ j : Nat, j ≠ k.toNat → ctxOf u j = ctxOf s j) ∧ (ctxOf u k.toNat).audit.applied = some s.clk.tick ∧
          (auditRoot s k.toNat ≠ some s.aon.nodeId → rx = none → (ctxOf u k.toNat).cal = c.cal ∧ Counts s u (only .marginMiss 1))
          ∧ (∀ (v : F16) (mv : BitVec 2), auditRoot s k.toNat ≠ some s.aon.nodeId → rx = some (v, mv) → u.cnt = s.cnt ∧
              (c.audit.loadTick = some s.clk.tick → (ctxOf u k.toNat).cal = c.cal) ∧
              (c.audit.loadTick ≠ some s.clk.tick → (ctxOf u k.toNat).cal = { c.cal with marginNow := v } ∧
                (let d := (ctxOf u k.toNat).audit
                 d.marginRx = v ∧ d.lastMove = mv.toNat ∧ d.moveTick = s.clk.tick % 2 ^ 32))))))

/-- UPDATE_APPLY completes once in a tick (R286, R287). An upsert of an item with no open change entry, at a holder that has
room and at the apply boundary of a FINAL phase of its pipeline: the lowest free change entry opens with the new version,
the pipeline's commit tick, the slots and the item's old entry; one application counts (R78); the holder acknowledges DONE
(R288); no byte of memory outside the copy's directory, spill table and partition descriptors, the new slots and the staged
image changes. APPLY_ACK_RECEIVE completes (R258, R288): an acknowledgement that comes by its commit tick or later changes
nothing, and the first one of an admission slot that comes before is kept. UPDATE_DECISION completes at the commit tick of
an admitted update (R26, R290): its slot is free, and, for one that owes its host a record, the record's status is an
earlier fault, else the first refusal, else TIMEOUT for a missing acknowledgement, else ABORTED for versions that differ,
else DONE. -/
def Obligations.Updates : Prop :=
  (∀ (m : Change) (s : State), s.clk.did.applied = false →
     ∃ u, exec (.updateApply [m]) s = .next u ∧ u.clk.did.applied = true ∧ u.clk.tick = s.clk.tick ∧ u.tiles = s.tiles ∧
     ∀ (c : ShardCopy) (k a j : Nat) (loc : BitVec 28 × BitVec 28) (p : Plan) (q : Pipe),
     heldCopy s m.ctx m.item = some c → changePhase s m s.clk.tick = some (p, q, j) → writesWithheld s m p j = false →
     alreadyApplied s m = false → copyTakes s c = true → fillsInto s c = false → itemChgs s c.ctx c.shard m.item = [] →
     (ctxOf s c.ctx.toNat).graph = 0 → c.ctx = m.ctx → m.delete = false → groupsBad s c m.item m.groupBad = false →
     m.putAbandoned = false → m.stageBad = false → freeChg s = some k → newSlots s c m = some loc →
     stagePlace s (fvSize (ctxOf s c.ctx.toNat)) = some a →
     refsOk s (chgFor s c m (m.u + q.length) (newVersion s c m.item []) loc (some a)) = true → groupsHaveRoom s c m = true →
     preparedOf s m = none → 1 ≤ (ctxOf s c.ctx.toNat).fvUnits →
       (let v := newVersion s c m.item []
        let size := ctxRecSize s c.ctx.toNat
        let e := chgOf u k
        e.state = .applied ∧ e.kind = .upsert ∧ e.ctx = m.ctx ∧ e.item = m.item ∧ e.version = v ∧ e.commitTick = m.u + q.length ∧
        e.closeTick = m.u + q.length + hold s + 1 ∧ e.newHome = loc.1 ∧ e.newSpill = loc.2 ∧ e.newImage = some a ∧
        e.oldEntry = BitVec.ofNat 128 (((dirLook s c m.item).map dirEntNat).getD 0) ∧
        (∀ i : Nat, i ≠ k → chgOf u i = chgOf s i) ∧ (ctxOf u m.ctx.toNat).rate = (ctxOf s m.ctx.toNat).rate + 1 ∧
        u.io.msgs = s.io.msgs ++ [(m.entryNode, 3, leBytes 2 m.slot.toNat ++ leBytes 8 m.u ++ leBytes 1 0 ++ leBytes 3 v.toNat)] ∧
        u.cnt = s.cnt ∧ u.host = s.host ∧
        (∀ b : Nat, ¬ inDirectory c b → ¬ inSpillTable c b → ¬ inPartitions c b → ¬ inSlot c size loc.1 b → ¬ inSlot c size loc.2 b →
           ¬ (a ≤ b ∧ b < a + fvSize (ctxOf s m.ctx.toNat)) → tget 0 u.mem b = tget 0 s.mem b)))
  ∧ ((∀ (slot : Fin 1024) (p : Bool) (st : BitVec 8) (v : BitVec 24) (s : State) (a : Adm) (c : Nat), admOf s slot.val = some a →
       commitTickOf s a = some c →
       ∃ u, exec (.applyAckReceive slot p st v) s = .next u ∧ (c ≤ s.clk.tick → u = s) ∧
         (s.clk.tick < c → (∀ x ∈ s.upd.commits, x.slot ≠ slot) → u = { s with upd := { s.upd with commits :=
           s.upd.commits ++ [⟨slot, a.t, if p then some (st, v) else none, if p then none else some (st, v)⟩] } }))
     ∧ (∀ (slot : Fin 1024) (s : State) (a : Adm), admOf s slot.val = some a → commitTickOf s a = some s.clk.tick →
       (let e := shardEnt s a.req.ctx.toNat (shardOf (ctxOf s a.req.ctx.toNat).ns a.req.item.toNat)
        let k := commitOf s slot a.t
        ∃ u, exec (.updateDecision slot) s = .next u ∧ admOf u slot.val = none ∧
          (∀ j : Nat, j ≠ slot.val → admOf u j = admOf s j) ∧ u.mem = s.mem ∧ (∀ x ∈ u.upd.commits, x.slot ≠ slot) ∧
          (a.silent = false → ∃ (d : Due) (st : BitVec 8), u.host.due = s.host.due ++ [d] ∧ d.fn = a.req.fn ∧ d.slot = some slot.val ∧
            d.body % 256 = st.toNat ∧
            (∀ f : BitVec 8, f.toNat ≤ 0x11 → a.fault = some f → st = f) ∧
            (a.fault = none → ∀ (f : BitVec 8) (v : BitVec 24), f ≠ 0 → f.toNat ≤ 0x11 → k.primary = some (f, v) → st = f) ∧
            (a.fault = none → k.primary = none → (k.partner = none ∨ e.state ≠ .serving) → st = 0x0E) ∧
            (a.fault = none → e.state = .serving → ∀ (v w : BitVec 24), k.primary = some (0, v) → k.partner = some (0, w) →
               st = if v = w then 0 else 0x0F) ∧
            (a.fault = none → e.state = .serving → ∀ v : BitVec 24, k.primary = some (0, v) → k.partner = none → st = 0x0E) ∧
            (a.fault = none → e.state ≠ .serving → ∀ v : BitVec 24, k.primary = some (0, v) → st = 0)))))

/-- DECISION_APPLY completes from C + 3 at a holder that is not the entry node (R291): the decision received makes an APPLIED
entry COMMITTED or ABORTED, and with none received it is UNSURE, counted and raised. UNSURE_RESOLVE completes with the word
of an entry node that is a member (R421): it makes an UNSURE entry COMMITTED or ABORTED. CHANGE_ENTRY_FREE completes for a
closed entry from the tick after its CLOSE_TICK (R297): the entry is free. ABORT_ROLLBACK of an ABORTED entry completes
(R291): the entry is marked rolled back, its staged image is gone, and no byte of memory changes outside the copy's
directory, spill table, partition descriptors and the entry's new slots. CHANGE_ENTRY_CLOSE of a COMMITTED entry completes
from its CLOSE_TICK (R297): the entry is closed, a delete's tombstone waits for its purge (R300), and no byte of memory
changes outside the copy's partition descriptors and the entry's old slots. -/
def Obligations.ChangeStates : Prop :=
  ((∀ (k : Fin 4096) (d : Option Bool) (s : State), (chgOf s k.val).state = .applied → (chgOf s k.val).commitTick + 3 ≤ s.clk.tick →
     (chgOf s k.val).entryNode ≠ s.aon.nodeId →
     ∃ u, exec (.decisionApply k d) s = .next u ∧ u.mem = s.mem ∧
       (∀ b : Bool, d = some b → EntryIs s u k.val { chgOf s k.val with state := if b then .committed else .aborted } ∧
         u = { s with upd := { s.upd with chg := u.upd.chg } })
       ∧ (d = none → EntryIs s u k.val { chgOf s k.val with state := .unsure } ∧
         (counterOf u .decisionMiss).toNat = min ((counterOf s .decisionMiss).toNat + 1) 4294967295 ∧ ∃ x, Asserted s u 129 x))
   ∧ (∀ (k : Fin 4096) (b : Bool) (s : State), (chgOf s k.val).state = .unsure → isMember s (chgOf s k.val).entryNode = true →
     ∃ u, exec (.unsureResolve k (.decision b)) s = .next u ∧ u = { s with upd := { s.upd with chg := u.upd.chg } } ∧
       EntryIs s u k.val { chgOf s k.val with state := if b then .committed else .aborted })
   ∧ (∀ (k : Fin 4096) (s : State), (chgOf s k.val).closed = true → (chgOf s k.val).closeTick + 1 ≤ s.clk.tick →
     ∃ u, exec (.changeEntryFree k) s = .next u ∧ u = { s with upd := { s.upd with chg := u.upd.chg } } ∧
       EntryIs s u k.val Chg.reset))
  ∧ ((∀ (k : Fin 4096) (s : State),
       (let x := chgOf s k.val
        x.state = .aborted → x.rolled = false →
        ∃ u, exec (.abortRollback k) s = .next u ∧ EntryIs s u k.val { x with rolled := true } ∧ u.cnt = s.cnt ∧ u.host = s.host ∧
         (∀ c : ShardCopy, copyOf s x.ctx.toNat x.shard.toNat = some c →
          (let size := ctxRecSize s x.ctx.toNat
           (∀ a : Nat, x.newImage = some a → u.upd.staged = s.upd.staged.filter (fun i => i.addr != a)) ∧
           (∀ b : Nat, ¬ inDirectory c b → ¬ inSpillTable c b → ¬ inPartitions c b → ¬ inSlot c size x.newHome b →
              ¬ inSlot c size x.newSpill b → tget 0 u.mem b = tget 0 s.mem b)))))
     ∧ (∀ (k : Fin 4096) (s : State),
       (let x := chgOf s k.val
        x.state = .committed → x.closed = false → x.closeTick ≤ s.clk.tick →
        ∃ u, exec (.changeEntryClose k) s = .next u ∧ EntryIs s u k.val { x with closed := true } ∧ u.cnt = s.cnt ∧ u.host = s.host ∧
         (x.kind = .delete → (x.ctx, x.item, x.closeTick) ∈ u.upd.tombs) ∧
         (∀ c : ShardCopy, copyOf s x.ctx.toNat x.shard.toNat = some c → 0 < ctxRecSize s x.ctx.toNat →
          (let size := ctxRecSize s x.ctx.toNat
           ∀ b : Nat, ¬ inPartitions c b → ¬ inSlot c size x.oldHome b → ¬ inSlot c size x.oldSpill b → tget 0 u.mem b = tget 0 s.mem b)))))

/-- EXCLUSION_RELOAD completes (R294, R295): the list of a Bean that a search list loaded is built again for that list's
snapshot. The prepare stage (R299): GRAPH_PREPARE completes at a holder, which for an item with no directory entry, or whose
entry lies in memory and reads as the item's image, keeps the prepared entry, up to 256 of them, and reports; it completes
at the entry node, which notes each report on the waiting request, or ends the request with QUEUE_FULL on a full one;
GRAPH_PREPARE_TIMEOUT completes from 512 ticks on and ends a request that still lacks a report with TIMEOUT. -/
def Obligations.PrepareAndExclude : Prop :=
  (∀ (b : Fin 6144) (s : State), ∃ u, exec (.exclusionReload b) s = .next u ∧
    (∀ l t : Nat, (beanOf s b.val).exclFor = some (l, t) →
      BeanBecomes s u b { beanOf s b.val with excl := exclusionBytes (exclusionsFor s b.val t) })
    ∧ ((beanOf s b.val).exclFor = none → u = s))
  ∧ (∀ (n : NodeId) (fn : Fin 513) (sq : Fin 512) (c : CtxId) (item : BitVec 36) (s : State) (cp : ShardCopy),
    heldCopy s c item = some cp →
    ∃ u, exec (.graphPrepare (.read n fn sq c item [])) s = .next u ∧ u.mem = s.mem ∧
      (∀ d : List Byte, deadAt s (dirGroups cp item.toNat) = none →
        (dirLook s cp item = none ∧ d = []) ∨
        (∃ e : DirEnt, dirLook s cp item = some e ∧ e.deleted = false ∧ e.flash = false ∧
          (nodeRead s (32 * e.fvLoc) (fvSize (ctxOf s c.toNat)) [] (some c)).2 = some d ∧
          imageRight (ctxOf s c.toNat) item none d = true) →
        (let rest := s.upd.prepared.filter (fun p => !(p.entryNode == n && p.fn == fn && p.sq == sq))
         u.upd.prepared = (if rest.length < 256 then rest ++ [⟨n, fn, sq, c, item, d⟩] else s.upd.prepared) ∧
         ∃ b : List Byte, u.io.msgs = s.io.msgs ++ [(n, msgReport, b)])))
  ∧ (∀ (fn : Fin 513) (sq : Fin 512) (s : State) (r : Req), preparing s fn sq = some r →
    (let noted (f : Prep → Prep) : State := { s with host := { s.host with
       queued := s.host.queued.map (fun x => if x = r then { x with prep := x.prep.map f } else x) } }
     exec (.graphPrepare (.report fn sq true false)) s = .next (noted (fun p => { p with primary := true }))
     ∧ exec (.graphPrepare (.report fn sq false false)) s = .next (noted (fun p => { p with partner := true }))
     ∧ (∀ p : Bool, ∃ u, exec (.graphPrepare (.report fn sq p true)) s = .next u ∧ u.mem = s.mem ∧
          u.host.queued.length + 1 = s.host.queued.length ∧
          u.host.due = s.host.due ++ [⟨fn, 0, none, sq, recordNat r 0 false (Result.of 0x05)⟩])
     ∧ (prepDone r = false → r.seen + 512 ≤ s.clk.tick →
        ∃ u, exec (.graphPrepareTimeout fn sq) s = .next u ∧ u.mem = s.mem ∧ u.host.queued.length + 1 = s.host.queued.length ∧
          u.host.due = s.host.due ++ [⟨fn, 0, none, sq, recordNat r 0 false (Result.of 0x0E)⟩])))

/-- PURGE, COMPACTION_MOVE and ROW_COUNT_DECREMENT complete (R300, R301): the purge of a deleted item whose purge time has come
is counted and its tombstone is forgotten; the move of a record of a partition's last row to the first empty slot below is
counted and opens an entry that names both slots; ROW_COUNT falls by one for a last row of empty slots that no open entry
refers to. No byte of memory changes outside the structures of the copy and the slots concerned. MIGRATION_FLIP completes
(R307 to R309): a durable migration whose copy landed in an earlier tick, with its item's entry as it was and no open change
entry, flips the mapping word alone, to flash, and releases its staged image for 64 ticks; one that DIRTY keeps from it
waits, with DIRTY cleared. MIGRATION_RECOPY_OR_DROP completes: a waiting durable migration is dropped and counted.
PROMOTION_COPY_START completes in deep-queue mode (R307): the first queued promotion of a still cold image takes the hot
slot at the ring's head, where it is free. RELEASED_LOCATION_RECLAIM completes: locations released 64 ticks ago are free.
TIER_CHANGE_DEMOTE completes (R303): a pass with no hot image left marks its tick alone, and a second pass in a tick does
nothing. TIER_CHANGE_COMPLETE completes: with no hot image left and 64 ticks after the last flip the new word's mode and hot
area are in force and the ring starts afresh. -/
def Obligations.CompactionAndTiers : Prop :=
  ((∀ (ctx : CtxId) (item : BitVec 36) (s : State) (c : ShardCopy) (t a : Nat), heldCopy s ctx item = some c → tombTick s ctx item = some t →
     dirFind s c item = some a → (dirEntOf (memNat s a 16)).deleted = true → itemChgs s ctx c.shard item = [] →
     t + 2 ^ (ctxOf s ctx.toNat).tier.purgeLog2 ≤ s.clk.tick → c.ctx = ctx →
     ∃ u, exec (.purge ctx item) s = .next u ∧ Counts s u (only .purge 1) ∧ (∀ x ∈ u.upd.tombs, ¬ (x.1 = ctx ∧ x.2.1 = item)) ∧
       (∀ b : Nat, ¬ inDirectory c b → ¬ inSpillTable c b → ¬ inPartitions c b →
         ¬ inSlot c (ctxRecSize s ctx.toNat) (dirEntOf (memNat s a 16)).recLoc b → tget 0 u.mem b = tget 0 s.mem b))
   ∧ (∀ (ctx : CtxId) (shard part : BitVec 20) (gb : Bool) (s : State) (c : ShardCopy) (src : BitVec 28) (h : Header) (x : Nat × Nat)
       (k : Nat),
     (let d := readPart s c part.toNat
      copyOf s ctx.toNat shard.toNat = some c → c.role ≠ 2 → part.toNat ∈ c.loaded → s.pow.shed = 0 →
      groupsBad s c h.item gb = false →
      slotsPerRow d.recSize ≤ (emptyLower s c d).length → movable s c d = some (src, h) → (emptyLower s c d).head? = some x →
      freeChg s = some k → refsOk s (moveChg s c h src (locOf x.1 x.2)) = true →
      ∃ u, exec (.compactionMove ctx shard part gb) s = .next u ∧ EntryIs s u k (moveChg s c h src (locOf x.1 x.2)) ∧
        Counts s u (only .compactMove 1) ∧ u.host = s.host ∧
        (∀ b : Nat, ¬ inDirectory c b → ¬ inSpillTable c b → ¬ inPartitions c b → ¬ inSlot c d.recSize (locOf x.1 x.2) b →
           tget 0 u.mem b = tget 0 s.mem b)))
   ∧ (∀ (ctx : CtxId) (shard part : BitVec 20) (s : State) (c : ShardCopy),
     (let d := readPart s c part.toNat
      let row := d.rowBase + d.rowCount - 1
      copyOf s ctx.toNat shard.toNat = some c → c.role ≠ 2 → part.toNat ∈ c.loaded → d.rowCount ≠ 0 → rowReferenced s c row = false →
      (∀ j : Nat, j < slotsPerRow d.recSize → slotEmpty s (recAddr c d.recSize row j) = true) →
      ∃ u, exec (.rowCountDecrement ctx shard part) s = .next u ∧ u = { s with mem := u.mem } ∧
        readPart u c part.toNat = { d with rowCount := d.rowCount - 1 } ∧
        (∀ b : Nat, ¬ (c.partBase * 1024 + 32 * part.toNat ≤ b ∧ b < c.partBase * 1024 + 32 * part.toNat + 32) →
           tget 0 u.mem b = tget 0 s.mem b))))
  ∧ ((∀ (id : Nat) (s : State) (m : Mig), migOf s id = some m →
       (m.landed = true → m.landTick < s.clk.tick → m.waiting = false →
         ∃ u, exec (.migrationFlip id) s = .next u ∧ u.tiles = s.tiles ∧
          (∀ (a : Nat) (e : DirEnt), m.kind = .durable → migEntry s m = some (a, e) → itemChgs s m.ctx m.shard m.item = [] →
           e.deleted = false → e.flash = false → e.staged = true → e.fvLoc = m.src →
           (e.dirty = false → u.upd.migs = s.upd.migs.filter (fun x => x.id != id) ∧ u.cnt = s.cnt ∧
             Stored u.mem s.mem a 8 (fun i => byteOf (dirEntNat { e with flash := true, staged := false, fvLoc := m.dst }) i) ∧
             u.upd.released = s.upd.released ++ [⟨32 * m.src, fvSize (ctxOf s m.ctx.toNat), s.clk.tick, true⟩])
           ∧ (e.dirty = true → u.upd.migs = s.upd.migs.map (fun x => if x.id == id then { m with waiting := true } else x) ∧ u.cnt = s.cnt ∧
             Stored u.mem s.mem a 8 (fun i => byteOf (dirEntNat { e with dirty := false }) i))))
       ∧ (m.kind = .durable → m.waiting = true → itemChgs s m.ctx m.shard m.item = [] →
         ∃ u, exec (.migrationRecopyOrDrop id) s = .next u ∧ u.upd.migs = s.upd.migs.filter (fun x => x.id != id) ∧ u.mem = s.mem ∧
           Counts s u (only .migrateDrop 1)))
     ∧ (∀ (s : State) (p : CtxId × BitVec 36 × Nat) (rest : List (CtxId × BitVec 36 × Nat)), s.upd.promoteQ = p :: rest → s.pow.shed = 0 →
       s.upd.migs.length < 256 →
       (let c := ctxOf s p.1.toNat
        let hot := hotAddr c (c.hotHead % hotSlots c)
        c.tierChange = none → stillCold s p = true → hotSlots c ≠ 0 → c.tier.localHot = false → hotOccupant s hot = none →
        ∃ (u : State) (m : Mig), exec .promotionCopyStart s = .next u ∧ u.upd.promoteQ = rest ∧ u.upd.migs = s.upd.migs ++ [m] ∧
          m.kind = .promotion ∧ m.ctx = p.1 ∧ m.item = p.2.1 ∧ m.src = p.2.2 ∧ m.dst = hot / 32 ∧ m.landed = false ∧
          hotOccupant u hot = some (p.1, p.2.1) ∧ (ctxOf u p.1.toNat).hotHead = (c.hotHead % hotSlots c + 1) % hotSlots c ∧
          u.mem = s.mem ∧ u.fl.reads.length = s.fl.reads.length + 1))
     ∧ (∀ (s : State), ∃ u, exec .releasedLocationReclaim s = .next u ∧ u = { s with upd := u.upd } ∧
         u.upd.released = s.upd.released.filter (fun r => decide (s.clk.tick < r.flip + 64)) ∧
         (∀ r ∈ s.upd.released, r.flip + 64 ≤ s.clk.tick → r.staged = false → ∀ h ∈ u.upd.hotUsed, h.1 ≠ r.addr) ∧
         (∀ r ∈ s.upd.released, r.flip + 64 ≤ s.clk.tick → r.staged = true → ∀ x ∈ u.upd.staged, x.addr ≠ r.addr)))
  ∧ ((∀ (ctx : CtxId) (s : State) (t : TierChange), (ctxOf s ctx.toNat).tierChange = some t →
       ∃ u, exec (.tierChangeDemote ctx) s = .next u ∧ (t.ran = some s.clk.tick → u = s) ∧
         (t.ran ≠ some s.clk.tick → hotImages s ctx = [] → u = { s with ctxs := u.ctxs } ∧
           (∀ k : Nat, k ≠ ctx.toNat → ctxOf u k = ctxOf s k) ∧
           ctxOf u ctx.toNat = { ctxOf s ctx.toNat with tierChange := some { t with ran := some s.clk.tick } }))
     ∧ (∀ (ctx : CtxId) (s : State) (t : TierChange), (ctxOf s ctx.toNat).tierChange = some t → hotImages s ctx = [] → t.ran ≠ none →
       t.lastFlip + 64 ≤ s.clk.tick →
       ∃ u, exec (.tierChangeComplete ctx) s = .next u ∧ u.mem = s.mem ∧ u.cnt = s.cnt ∧
         (∀ k : Nat, k ≠ ctx.toNat → ctxOf u k = ctxOf s k) ∧ (∀ h ∈ u.upd.hotUsed, h.2.1 ≠ ctx) ∧
         (let c := ctxOf u ctx.toNat
          c.tierChange = none ∧ c.hotHead = 0 ∧ c.tier.localHot = t.word.localHot ∧ c.tier.hotBase = t.word.hotBase ∧
          c.tier.hotRows = t.word.hotRows ∧ c.tier.updRate = (ctxOf s ctx.toNat).tier.updRate)))

/-- Packing (R307, R320): CODEWORD_PACK of a staged image that waits for Cress begins its durable migration and puts it into its
context's assembly buffer, a new one where it has none and fewer than 512 exist, which waits to be written once it is full;
PACK_WAIT_EXPIRY sends every buffer of a context whose first image came PACK_WAIT ticks ago to be written partly filled.
Programs (R316, R320, R322, R323, R327, R330): FLASH_PROGRAM starts the next page of the open segment, or of the relocation
segment, on its LUN when that is free: its codewords, or the row's parity page once its data pages are done; without one,
the next page of a fold. FLASH_PROGRAM_DONE that passes leaves each codeword at its place, and lands the migrations of its
images; a parity page becomes the XOR of its row; a fold's page becomes its codewords unchanged, and after the last the
segment's map is to flip. One that fails is counted and repeated once, and then the block is to be retired and the segment
closes, or the fold is given up. Erases (R323, R327) and suspension (R328): FLASH_ERASE starts a queued erase on an idle LUN
that is awake and for which nothing of a lower class waits; FLASH_ERASE_DONE counts it in the block table and empties the
block, or counts a failure, repeats the erase once and then has the block retired. FLASH_SUSPEND makes a program or an
erase, not resumed in the last 16 ticks, give way to plan reads, and FLASH_RESUME goes on with it after them. -/
def Obligations.FlashPrograms : Prop :=
  ((∀ (a : Nat) (s : State) (x : Staged), unpacked s a = some x → s.upd.migs.length < 256 →
     ∃ u, exec (.codewordPack a) s = .next u ∧ u = { s with upd := u.upd, fl := { s.fl with packs := u.fl.packs, writeQ := u.fl.writeQ } } ∧
       (let m : Mig := ⟨s.upd.nextMig, .durable, x.ctx, x.shard, x.item, a / 32, 0, false, 0, false, s.clk.tick⟩
        let img := memRead s a x.len
        let n := imagesPerCw x.len
        u.upd = { s.upd with
          migs := s.upd.migs ++ [m], nextMig := s.upd.nextMig + 1, staged := s.upd.staged.map (fun y => if y = x then { y with packed := true } else y) } ∧
        (∀ p : PackBuf, s.fl.packs.find? (fun p => p.ctx == x.ctx && p.reloc == false) = some p →
          (let q := { p with migs := p.migs ++ [m.id], bytes := p.bytes ++ img }
           (p.migs.length + 1 < n → u.fl.packs = s.fl.packs.erase p ++ [q] ∧ u.fl.writeQ = s.fl.writeQ) ∧
           (n ≤ p.migs.length + 1 → u.fl.writeQ = s.fl.writeQ ++ [q])))
        ∧ ((∀ p ∈ s.fl.packs, p.ctx ≠ x.ctx ∨ p.reloc = true) → s.fl.packs.length < 512 →
          (let q : PackBuf := ⟨x.ctx, s.clk.tick, [m.id], img, false, false⟩
           (1 < n → u.fl.packs = s.fl.packs ++ [q] ∧ u.fl.writeQ = s.fl.writeQ) ∧
           (n ≤ 1 → u.fl.packs = s.fl.packs ∧ u.fl.writeQ = s.fl.writeQ ++ [q])))))
   ∧ (∀ (c : CtxId) (s : State), ∃ u, exec (.packWaitExpiry c) s = .next u ∧
       (let due (p : PackBuf) : Bool := p.ctx == c && decide (p.first + s.fl.packWait.toNat ≤ s.clk.tick)
        u = { s with fl := { s.fl with packs := s.fl.packs.filter (fun p => !due p), writeQ := s.fl.writeQ ++ s.fl.packs.filter due } })))
  ∧ ((∀ (l : Fin 512) (r : Bool) (s : State) (i : Nat) (cws : List PackBuf),
       (let n := (segOf s i).nextCw
        let ph := pagePhys s i (n / 16) (n % 16)
        openOf s r = some i → n / 16 < s.fl.pages.toNat →
        ((n % 16 ≠ 15 ∧ cws = nextPage s r ∧ cws ≠ []) ∨
         (n % 16 = 15 ∧ cws = [] ∧ lunsRun s (programs (fun j k => j == i && k == n / 16)) = false)) →
        ph.1 = l.val → lunFree s l.val ph.2.1 = true → (r = true → tryProgram s l.val false = none) →
        ∃ u, exec (.flashProgram l) s = .next u ∧
          u = { s with fl := { s.fl with writeQ := s.fl.writeQ.filter (fun p => !cws.contains p), segs := u.fl.segs, luns := u.fl.luns } } ∧
          lunOf u l.val = { lunOf s l.val with op := .program i (n / 16) (n % 16) cws } ∧ (∀ k : Nat, k ≠ l.val → lunOf u k = lunOf s k) ∧
          segOf u i = { segOf s i with nextCw := n + 1 } ∧ ∀ j : Nat, j ≠ i → segOf u j = segOf s j))
     ∧ (∀ (l : Fin 512) (s : State) (f : Fold) (n b : Nat), foldNext s = some (f, n, l.val, b) → lunFree s l.val b = true →
       tryProgram s l.val false = none → tryProgram s l.val true = none →
       ∃ u, exec (.flashProgram l) s = .next u ∧ u = { s with fl := { s.fl with fold := u.fl.fold, luns := u.fl.luns } } ∧
         lunOf u l.val = { lunOf s l.val with op := .fold (n / 16) (n % 16) } ∧ (f.again = none → u.fl.fold = some { f with next := n + 1 }))
     ∧ (∀ (l : Fin 512) (pass : Bool) (s : State) (i page col : Nat) (cws : List PackBuf), (lunOf s l.val).op = .program i page col cws →
       (let ph := pagePhys s i page col
        ∃ u, exec (.flashProgramDone l pass) s = .next u ∧ u.mem = s.mem ∧ (lunOf u l.val).op = .idle ∧
         (pass = true → col ≠ 15 → u.cnt = s.cnt ∧ u.fl.writeQ = s.fl.writeQ ∧
           (∀ (k : Nat) (p : PackBuf), cws[k]? = some p → cwAt u (cwKey ph.1 ph.2.1 ph.2.2 0 + k) = some (p.ctx, p.bytes)) ∧
           (∀ k : Nat, (k < cwKey ph.1 ph.2.1 ph.2.2 0 ∨ cwKey ph.1 ph.2.1 ph.2.2 0 + cws.length ≤ k) → cwAt u k = cwAt s k) ∧
           ((cws.flatMap (·.migs)).Nodup → ∀ (k j id : Nat) (p : PackBuf) (m : Mig), cws[k]? = some p → p.migs[j]? = some id →
             migOf s id = some m → migOf u id = some { m with
               landed := true, landTick := s.clk.tick, dst := faddrNat ⟨i, col, page, k, j * fvSize (ctxOf s p.ctx.toNat) / 32⟩ }))
         ∧ (pass = true → col = 15 → page < 4096 → (∀ k : Fin 16, (superOf s (segPlace s (segOf s i) page).1).blocks.getD k.val 0 < 65536) →
           ph.2.2 < 4096 → u.cnt = s.cnt ∧
           ∀ cw : Fin 4, stripeOthers s ⟨i, 15, page, cw.val, 0⟩ ≠ [] →
             cwAt u (cwKey ph.1 ph.2.1 ph.2.2 cw.val) = some (0, stripeXor s ⟨i, 15, page, cw.val, 0⟩))
         ∧ (pass = true → (blockInfo s ph.1 ph.2.1).begun = false → blockInfo u ph.1 ph.2.1 = { blockInfo s ph.1 ph.2.1 with
             writeTick := s.clk.tick, progTemp := (lunOf s ph.1).temp, begun := true })
         ∧ (pass = false → Counts s u (only .flashProgFail 1) ∧ u.fl.store = s.fl.store ∧ u.upd = s.upd ∧
           ((∀ p ∈ cws, p.again = false) → u.fl.writeQ = cws.map (fun p => { p with again := true }) ++ s.fl.writeQ ∧
             (segOf u i).nextCw = max (segOf s i).nextCw (16 * page + 15) ∧ u.fl.retireQ = s.fl.retireQ)
           ∧ ((∃ p ∈ cws, p.again = true) → u.fl.writeQ = cws.map (fun p => { p with again := false }) ++ s.fl.writeQ ∧
             u.fl.retireQ = s.fl.retireQ ++ [(ph.1, ph.2.1, .program)] ∧
             (mapWaits s i = false → u.fl.openSeg ≠ some i ∧ u.fl.relocSeg ≠ some i ∧
               u.fl.mapNext = s.fl.mapNext ++ [⟨i, if (segOf s i).slcMode then .slc else .tlc, (segOf s i).sbs⟩])))))
     ∧ (∀ (l : Fin 512) (pass : Bool) (s : State) (f : Fold) (page col : Nat), (lunOf s l.val).op = .fold page col → s.fl.fold = some f →
       (let b := (superOf s f.target).blocks.getD (colChannel page col) 0
        ∃ u, exec (.flashProgramDone l pass) s = .next u ∧ u.mem = s.mem ∧ u.upd = s.upd ∧ (lunOf u l.val).op = .idle ∧
         (pass = true →
           ((∀ c d : Fin 4, (foldKeys s f page col c.val).1 ≠ (foldKeys s f page col d.val).2) → ∀ c : Fin 4,
             cwAt u (foldKeys s f page col c.val).2 = cwAt s (foldKeys s f page col c.val).1) ∧
           ((u.fl.fold = none ∧ Counts s u (only .fold 1) ∧ u.fl.mapNext = s.fl.mapNext ++ [⟨f.seg, .tlc, [f.target]⟩]) ∨
            (∃ g, u.fl.fold = some g ∧ g.seg = f.seg ∧ g.target = f.target ∧ foldFull u g = false ∧ u.cnt = s.cnt ∧ u.fl.mapNext = s.fl.mapNext)))
         ∧ (pass = false → Counts s u (only .flashProgFail 1) ∧ u.fl.store = s.fl.store ∧
           (f.again = none → u.fl.fold = some { f with again := some (16 * page + col) } ∧ u.fl.retireQ = s.fl.retireQ)
           ∧ (f.again ≠ none → u.fl.fold = none ∧ u.fl.retireQ = s.fl.retireQ ++ [(l.val, b, .program)])))))
  ∧ ((∀ (l : Fin 512) (b : BitVec 16) (s : State) (again : Bool),
       (let x := lunOf s l.val
        x.eraseQ.find? (fun q => q.1 == b.toNat) = some (b.toNat, again) → x.op = .idle → x.suspended = none → lunWaits s l.val 3 = false →
        startProgram s l.val = none → chanAsleep s l.val = false →
        ∃ u, exec (.flashErase l b) s = .next u ∧ u = { s with fl := { s.fl with luns := u.fl.luns } } ∧
          lunOf u l.val = { x with op := .erase b.toNat again, eraseQ := x.eraseQ.erase (b.toNat, again) } ∧
          ∀ k : Nat, k ≠ l.val → lunOf u k = lunOf s k))
     ∧ (∀ (l : Fin 512) (b : Nat) (again ok : Bool) (s : State), (lunOf s l.val).op = .erase b again →
       ∃ u, exec (.flashEraseDone l ok) s = .next u ∧ u.mem = s.mem ∧ u.upd = s.upd ∧ (lunOf u l.val).op = .idle ∧
         (ok = true → blockInfo u l.val b = { blockInfo s l.val b with erases := (blockInfo s l.val b).erases + 1, begun := false } ∧
           (∀ pg cw : Nat, pg < 4096 → cw < 4 → cwAt u (cwKey l.val b pg cw) = none))
         ∧ (ok = false → Counts s u (only .flashProgFail 1) ∧ u.fl.store = s.fl.store ∧ blockInfo u l.val b = blockInfo s l.val b ∧
           (again = false → (lunOf u l.val).eraseQ = (lunOf s l.val).eraseQ ++ [(b, true)] ∧ u.fl.retireQ = s.fl.retireQ) ∧
           (again = true → u.fl.retireQ = s.fl.retireQ ++ [(l.val, b, .erase)])))
     ∧ (∀ (l : Fin 512) (s : State),
       (let x := lunOf s l.val
        (suspendable x.op = true → x.suspended = none → urgentReads s l.val = true → (∀ t, x.resumed = some t → t + 16 ≤ s.clk.tick) →
          ∃ u, exec (.flashSuspend l) s = .next u ∧ Counts s u (only .flashSuspend 1) ∧
            lunOf u l.val = { x with suspended := some x.op, op := .idle } ∧ u = { s with fl := { s.fl with luns := u.fl.luns }, cnt := u.cnt })
        ∧ (∀ o : LunOp, x.suspended = some o → x.op = .idle → urgentReads s l.val = false →
          ∃ u, exec (.flashResume l) s = .next u ∧ lunOf u l.val = { x with suspended := none, op := o, resumed := some s.clk.tick } ∧
            u = { s with fl := { s.fl with luns := u.fl.luns } }))))

/-- Flash reads (R318, R327, R329 to R332, R334). FLASH_READ_SEND sends the next read of an idle LUN that is awake, of the
lowest class that waits. FLASH_ARRAY_READ_DONE: a codeword that decodes is counted and delivers its image; one that does not
goes to its remedies. FLASH_LADDER_REREAD takes the ladder's steps in turn, then comes FLASH_SOFT_DECODE; either, when it
decodes, is counted, queues the segment for refresh and delivers. A failed soft decode has the stripe's other codewords
read; FLASH_DIE_PARITY, once they have come, delivers their XOR, counted, and has the block retired, or leaves the partner
replica to be asked. FLASH_DISCARD_READ ends a read of a location without data in the tick after it was queued, counted;
FLASH_READ_CANCEL, counted, ends a plan read still queued after its deadline, whose element is LATE. The partner replica
(R332 to R334): PARTNER_REPLICA_REQUEST asks once for a read whose remedies have failed; PARTNER_REPLICA_SERVE at the other
holder reads its flash copy in class 2; PARTNER_REPLICA_TIMEOUT, 65,536 ticks after the request, ends the read as lost: its
block is to be retired, the loss is counted, a migration it served is given up. -/
def Obligations.FlashReads : Prop :=
  ((∀ (ready : List (Nat × Bool)) (s : State), ∃ u, exec (.flashArrayReadDone ready) s = .next u ∧
     ((ready.map (·.1)).Nodup → (∀ x ∈ ready, x.2 = false ∧ ∃ r, readOf s x.1 = some r ∧ readRuns s r = true) →
       u = { s with fl := u.fl } ∧
       ∀ x ∈ ready, ∀ r, readOf s x.1 = some r → readOf u x.1 = some { r with stage := .ladder } ∧ (lunOf u r.lun.val).op = .idle))
   ∧ (∀ (s : State) (r : FRead), readOf s r.id = some r →
     (let a := faddrOf r.addr
      (nextRead s r.lun.val = some r → (lunOf s r.lun.val).op = .idle → chanAsleep s r.lun.val = false →
        ∃ u, exec (.flashReadSend r.lun) s = .next u ∧ u = { s with fl := u.fl } ∧ (lunOf u r.lun.val).op = .read r.id ∧
         (∀ y ∈ sendable s r.lun.val, (y.cls = 1 → r.cls = 1) ∧ (y.cls = 2 → r.cls = 1 ∨ r.cls = 2)) ∧
         ∃ x, readOf u r.id = some x ∧ x.stage = .sent ∧ x.addr = r.addr ∧ x.block = (faddrPhys s a).2.1 ∧
           x.s0 = firstStep s r.lun.val x.block ∧ x.tried = [x.s0])
      ∧ (readRuns s r = true → rehFlash s r.lun.val = false →
        ∃ t u, exec (.flashArrayReadDone [(r.id, true)]) s = .next u ∧ ReadCounted s t .flashRead ∧ (lunOf t r.lun.val).op = .idle ∧
         t.fl.segs = s.fl.segs ∧ t.fl.retireQ = s.fl.retireQ ∧ Delivered t u r (readImage s r))
      ∧ (∀ (st : Nat) (rest : List Nat) (b : Bool), r.stage = .ladder → remedyMayRun s r = true →
        (ladderSteps r.s0).drop (r.tried.length - 1) = st :: rest →
        ∃ u, exec (.flashLadderReread r.id b) s = .next u ∧
         (b = false → u = { s with fl := u.fl } ∧
           readOf u r.id = some { r with tried := r.tried ++ [st], stage := if rest = [] then .soft else .ladder })
         ∧ (b = true → ∃ t, ReadCounted s t .flashLadder ∧ (segOf t a.seg).refresh = true ∧ t.fl.retireQ = s.fl.retireQ ∧
           Delivered t u r (readImage s r)))
      ∧ (∀ b : Bool, r.stage = .soft → remedyMayRun s r = true →
        ∃ u, exec (.flashSoftDecode r.id b) s = .next u ∧
         (b = true → ∃ t, ReadCounted s t .flashSoft ∧ (segOf t a.seg).refresh = true ∧ t.fl.retireQ = s.fl.retireQ ∧
           Delivered t u r (readImage s r))
         ∧ (b = false → u = { s with fl := u.fl } ∧
           ((∃ p, r.why = .stripe p) → readOf u r.id = none) ∧
           ((∀ p, r.why ≠ .stripe p) → readOf u r.id = some { r with stage := .parity } ∧
             u.fl.reads.length = s.fl.reads.length + (stripeOthers s a).length ∧
             ∀ y ∈ u.fl.reads.drop s.fl.reads.length, y.why = .stripe r.id ∧ y.cls = 2 ∧ y.stage = .queued)))
      ∧ (r.stage = .parity → (∀ y ∈ s.fl.reads, y.why ≠ .stripe r.id) →
        ∃ u, exec (.flashDieParity r.id) s = .next u ∧
         (r.stripeBad = false → stripeWhole s a = true → ∃ t, ReadCounted s t .flashParity ∧
           t.fl.retireQ = s.fl.retireQ ++ [(r.lun.val, r.block, .parity)] ∧ t.fl.segs = s.fl.segs ∧
           Delivered t u r (imageIn a (fvSize (ctxOf s r.ctx.toNat)) (stripeXor s a)))
         ∧ ((r.stripeBad = true ∨ stripeWhole s a = false) → r.why ≠ .fold →
           u = { s with fl := u.fl } ∧ readOf u r.id = some { r with stage := .replica }))
      ∧ (r.absent = true → s.clk.tick = r.queued + 1 →
        ∃ u, exec (.flashDiscardRead r.id) s = .next u ∧ readOf u r.id = none ∧
         (counterOf u .flashDiscardRead).toNat = min ((counterOf s .flashDiscardRead).toNat + 1) 4294967295 ∧
         (∀ (k i dst n : Nat) (e : Elem), r.why = .elem k → elemOf s k = some e → e.kind = .fetchFlash i dst n →
           (let x := tileOf s e.tile.val
            s.clk.tick ≤ (x.wait[e.wait]).dl → elemOf u k = none ∧
            ((tileOf u e.tile.val).wait[e.wait]).absent = (x.wait[e.wait]).absent + 1 ∧
            Stored (tileOf u e.tile.val).store x.store dst n (fun _ => 0))))
      ∧ (r.cls = 1 → r.stage = .queued → r.absent = false → r.deadline < s.clk.tick →
        ∃ u, exec (.flashReadCancel r.id) s = .next u ∧ readOf u r.id = none ∧
         (counterOf u .flashCancel).toNat = min ((counterOf s .flashCancel).toNat + 1) 4294967295 ∧
         (∀ (k : Nat) (e : Elem), r.why = .elem k → elemOf s k = some e → elemOf u k = none ∧
           ((tileOf u e.tile.val).wait[e.wait]).late = ((tileOf s e.tile.val).wait[e.wait]).late + 1)))))
  ∧ ((∀ (s : State) (r : FRead), readOf s r.id = some r → r.stage = .replica → (∀ x ∈ s.fl.replicas, x.1 ≠ r.id) →
       ∃ u, exec (.partnerReplicaRequest r.id) s = .next u ∧ u.fl.replicas = s.fl.replicas ++ [(r.id, s.clk.tick)] ∧
         u = { s with fl := { s.fl with replicas := u.fl.replicas }, fab := u.fab })
     ∧ (∀ (src : NodeId) (c : CtxId) (item : BitVec 36) (v : BitVec 24) (s : State) (k : ShardCopy) (e : DirEnt), heldCopy s c item = some k →
       dirLook s k item = some e → e.deleted = false →
       ∃ u, exec (.partnerReplicaServe src c item v) s = .next u ∧ u.mem = s.mem ∧ u.cnt = s.cnt ∧
         (e.flash = true → ∃ r : FRead, u.fl.reads = s.fl.reads ++ [r] ∧
           r.why = .replica src ∧ r.ctx = c ∧ r.item = item ∧ r.version = some v ∧ r.addr = e.fvLoc ∧ r.cls = 2 ∧ r.stage = .queued)
         ∧ (e.flash = false → u.fl = s.fl))
     ∧ (∀ (s : State) (r : FRead) (t : Nat), readOf s r.id = some r → (r.id, t) ∈ s.fl.replicas → t + 65536 ≤ s.clk.tick →
       ∃ u, exec (.partnerReplicaTimeout r.id) s = .next u ∧ readOf u r.id = none ∧ (∀ x ∈ u.fl.replicas, x.1 ≠ r.id) ∧ u.mem = s.mem ∧
         u.fl.retireQ = s.fl.retireQ ++ [(r.lun.val, r.block, .lost)] ∧
         (counterOf u .uncorrFlash).toNat = min ((counterOf s .uncorrFlash).toNat + 1) 4294967295 ∧
         (∀ (k : Nat) (m : Mig), r.why = .promotion k ∨ r.why = .relocation k → migOf s k = some m → migOf u k = none)))

/-- Flash space (R317, R322, R325, R326, R332): FOLD at a buffer filled to 70 %, 90 % while power is shed, takes a TLC
superblock of the position of the earliest closed SLC segment and has its codewords read. GARBAGE_COLLECT chooses a segment
queued for refresh, else while space is short the TLC segment with the highest SCORE. GC_RELOCATE starts to relocate a live
image of the segment collected. A closed segment without live data, unread and not folded, is to be FREE at the boundary, 64
ticks after its last flip (SEGMENT_ERASE_FREE). BLOCK_RETIRE of a queued block marks it, counts it and raises BLOCK_RETIRE.
LUN_TEMP_READ sets the temperature that read steps are chosen by (R330); CHANNEL_WAKE ends the low-power state of a channel
with something queued or running (R327); a retrain of a drifted channel for which no class 1 or 2 read waits is counted, and
one that passes takes the new tag (R501). -/
def Obligations.FlashSpace : Prop :=
  ((∀ (s : State) (i k : Nat) (x : Super),
     foldChoice s = some i → superOf s k = x → s.fl.fold = none → slcPoolSize s ≠ 0 →
     (if s.pow.shed = 0 then 70 else 90) * slcPoolSize s ≤ 100 * slcUsed s →
     (freeSupers s false).find? (fun y => y.2.pos == (segOf s i).pos) = some (k, x) →
     ∃ u, exec .fold s = .next u ∧ u = { s with fl := u.fl, cnt := u.cnt } ∧ (∀ j : Nat, segOf u j = segOf s j) ∧
       superOf u k = { x with inUse := true, stale := false } ∧
       (segCws s i ≠ [] → u.cnt = s.cnt ∧ u.fl.fold = some ⟨i, k, 0, none⟩ ∧
         u.fl.reads.length = s.fl.reads.length + (segCws s i).length ∧
         ∀ y ∈ u.fl.reads.drop s.fl.reads.length, y.why = .fold ∧ y.cls = 3 ∧ y.stage = .queued)
       ∧ (segCws s i = [] → Counts s u (only .fold 1) ∧ u.fl.fold = none ∧ u.fl.mapNext = s.fl.mapNext ++ [⟨i, .tlc, [k]⟩]))
   ∧ (∀ s : State, s.fl.collecting = none →
     (let closed := s.fl.segs.filter (fun kv => kv.2.state == .slc || kv.2.state == .tlc)
      ∃ u, exec .garbageCollect s = .next u ∧ u = { s with fl := { s.fl with collecting := u.fl.collecting, gcOn := gcWanted s } } ∧
       ((∃ kv ∈ closed, kv.2.refresh = true) → ∃ kv ∈ closed, kv.2.refresh = true ∧ u.fl.collecting = some kv.1)
       ∧ ((∀ kv ∈ closed, kv.2.refresh = false) →
         (gcWanted s = false ∨ gcAllowed s = false → u.fl.collecting = none) ∧
         (gcWanted s = true → gcAllowed s = true → (∃ kv ∈ closed, kv.2.state = .tlc) →
           ∃ kv ∈ closed, kv.2.state = .tlc ∧ u.fl.collecting = some kv.1 ∧ ∀ y ∈ closed, y.2.state = .tlc → gcScore s y.2 ≤ gcScore s kv.2))))
   ∧ (∀ (seg : BitVec 15) (addr : BitVec 40) (s : State) (c : CtxId) (k : ShardCopy) (item : BitVec 36), s.fl.collecting = some seg.toNat →
     (faddrOf addr.toNat).seg = seg.toNat → s.upd.migs.length < 256 → liveAt s addr.toNat = some (c, k, item) →
     migrating s c item = false → itemChgs s c k.shard item = [] →
     ∃ (u : State) (r : FRead), exec (.gcRelocate seg addr) s = .next u ∧ u = { s with upd := u.upd, fl := u.fl } ∧
       u.upd.migs = s.upd.migs ++ [⟨s.upd.nextMig, .relocation, c, k.shard, item, addr.toNat, 0, false, 0, false, s.clk.tick⟩] ∧
       u.fl.reads = s.fl.reads ++ [r] ∧ r.why = .relocation s.upd.nextMig ∧ r.ctx = c ∧ r.item = item ∧ r.addr = addr.toNat ∧ r.cls = 3)
   ∧ (∀ (seg : BitVec 15) (s : State),
     (let g := segOf s seg.toNat
      (g.state = .slc ∨ g.state = .tlc) → g.live = 0 → g.lastFlip + 64 ≤ s.clk.tick → segRead s seg.toNat = false →
      (∀ f, s.fl.fold = some f → f.seg ≠ seg.toNat) → mapWaits s seg.toNat = false →
      ∃ u, exec (.segmentEraseFree seg) s = .next u ∧ u = { s with fl := { s.fl with
          mapNext := s.fl.mapNext ++ [⟨seg.toNat, .free, []⟩], luns := u.fl.luns, left := u.fl.left } } ∧
        (s.fl.left = [] → u.fl.luns = s.fl.luns ∧ u.fl.left = [])))
   ∧ (∀ (l : Fin 512) (b : BitVec 16) (why : RetireCause) (s : State), (l.val, b.toNat, why) ∈ s.fl.retireQ →
     ∃ u, exec (.blockRetire l b why) s = .next u ∧ u.mem = s.mem ∧ (∀ y ∈ u.fl.retireQ, y.1 ≠ l.val ∨ y.2.1 ≠ b.toNat) ∧
       blockInfo u l.val b.toNat = { blockInfo s l.val b.toNat with retired := true } ∧
       ((blockInfo s l.val b.toNat).retired = false → u.fl.retiredCnt = min 65535 (s.fl.retiredCnt + 1) ∧
         (counterOf u .blockRetire).toNat = min ((counterOf s .blockRetire).toNat + 1) 4294967295 ∧
         (s.fl.supers = [] → Asserted s u (Fin.ofNat 512 (64 + l.val / 16))
           (BitVec.ofNat 192 (packFields [(3, l.val % 16 / 2), (1, l.val % 2), (12, 0), (16, b.toNat), (8, retireCode why)]))))))
  ∧ ((∀ (l : Fin 512) (t : Int) (s : State), ∃ u, exec (.lunTempRead l t) s = .next u ∧
       u = { s with fl := { s.fl with luns := u.fl.luns } } ∧ lunOf u l.val = { lunOf s l.val with temp := t } ∧
       ∀ k : Nat, k ≠ l.val → lunOf u k = lunOf s k)
     ∧ (∀ (c : Fin 32) (s : State), chanBusy s c.val = true →
       ∃ u, exec (.channelWake c) s = .next u ∧ u = { s with fl := { s.fl with chanLow := u.fl.chanLow } } ∧
         ∀ j : Fin 32, u.fl.chanLow.getLsbD j.val = (j != c && s.fl.chanLow.getLsbD j.val))
     ∧ (∀ (c : Fin 32) (ok : Bool) (t : BitVec 8) (s : State),
       (∀ r ∈ s.fl.reads, r.lun.val / 16 = c.val → r.cls ≤ 2 → r.stage ≠ .queued) →
       (let tag := (s.fl.chanTag.getD c.val 0).toNat
        tag + 15 < t.toNat ∨ t.toNat + 15 < tag) →
       ∃ u, exec (.flashChannelRetrain c ok t) s = .next u ∧ u = { s with fl := { s.fl with chanTag := u.fl.chanTag }, cnt := u.cnt } ∧
         Counts s u (only .flashRetrain 1) ∧
         (s.fl.chanTag.length = 32 → ∀ j : Fin 32, u.fl.chanTag.getD j.val 0 = if ok ∧ j = c then t else s.fl.chanTag.getD j.val 0)))

/-- The text unit serves the request at the front of its queue in the tick in which its service time ends (R344 to R358):
whatever it answers, the request leaves and its element ends, and one that may not use its sequence context is REFUSED with
BAD_CONTEXT, counted. TOKENISE writes the tokens of the pieces of carry and input, those of R349, with BOS and EOS where
asked, cut at OUT_MAX and padded, and keeps at most 68 bytes as carry; DETOKENISE writes the strings of its words up to a
stop string or EOS and holds back what may yet be one; GSTEP answers the state it enters and its mask, END, or DEAD. A
TOKENISER_SWITCH makes an image loaded before this tick active, and holds the old one for the requests admitted earlier
(R339). TEXT_SRAM_UNCORRECTABLE (R359): a word of the text unit's memory stays uncorrectable in the service of the request
at the front, which leaves. The word is counted and UNCORR_MEM is raised; the answer is MEDIA_ERROR and its element
UNREADABLE. Where the error lasts, the sequence context or the image is marked FAILED and TEXT_FAILED is raised; where it
does not, contexts and images stay usable. -/
def Obligations.TextUnit : Prop :=
  ((∀ (n : BitVec 20) (bad : Option (BitVec 39)) (s : State) (r : TextReq) (rest : List TextReq),
     (let d := textDescOf r.desc.toNat
      s.txt.queue = r :: rest → d.op ≤ 2 → textDue s r = true →
      ∃ u, exec (if d.op = 0 then .textTokenise n else if d.op = 1 then .textDetokenise n else .textGstep bad n) s = .next u ∧
        u.txt.queue = rest ∧ u.txt.freeAt = textEndOf s r ∧ u.txt.slots = s.txt.slots ∧ u.mem = s.mem ∧
        (∀ k : Nat, k ≠ d.sq → seqOf u k = seqOf s k) ∧ (∀ e, elemOf s r.id = some e → elemOf u r.id = none) ∧
        (seqAllowed (seqOf s d.sq) d r = false → seqOf u d.sq = seqOf s d.sq ∧
          (counterOf u .textRefused).toNat = min ((counterOf s .textRefused).toNat + 1) 4294967295 ∧
          ∀ e, elemOf s r.id = some e → e.kind = .txq r.id → s.clk.tick ≤ ((tileOf s e.tile.val).wait[e.wait]).dl →
            ((tileOf u e.tile.val).wait[e.wait]).refused = ((tileOf s e.tile.val).wait[e.wait]).refused + 1 ∧
            (textHeadOf (tileRead u e.tile.val r.out 16)).status = stBadContext.toNat)))
   ∧ (∀ (n : BitVec 20) (s : State) (r : TextReq) (rest : List TextReq) (e : Elem) (q : Seq) (img : List Byte), TextReady s 0 r rest e q img →
     ∃ (u : State) (ans : List Byte) (carry : List Byte), exec (.textTokenise n) s = .next u ∧
       u = { s with tiles := u.tiles, elems := u.elems, txt := u.txt, cnt := u.cnt } ∧
       TextServed s u r rest e { q with carry := carry } ans .arrived ∧ carry.length ≤ 68 ∧
       (let d := textDescOf r.desc.toNat
        let h := tokHeadOf img
        let text := q.carry ++ r.input
        let us := utf8Units (text.length + 1) d.final text
        let all := cutPieces img h none us.1
        let ps := if d.final then all else all.dropLast
        let toks := (if d.start && d.addBos then [h.bos] else []) ++ ps.flatMap (pieceTokens img h) ++
          (if d.final && d.addEos then [h.eos] else [])
        let bad := (ps.filter (fun p => p.cls.isNone)).length
        let trunc := decide (d.inMax < r.len) || decide (d.outMax < toks.length)
        (d.final = true → carry = []) ∧
        (d.final = false → ps.flatMap (·.bytes) ++ carry = all.flatMap (·.bytes) ++ us.2) ∧
        textHeadOf ans = ⟨0, trunc, decide (0 < bad), false, false, false, false, false, 15, carry.length, min toks.length d.outMax, 0⟩ ∧
        ans.length = 16 + 4 * (if d.pad then d.outMax else min toks.length d.outMax) ∧
        (∀ i : Nat, i < min toks.length d.outMax → leAt ans (16 + 4 * i) 4 = toks.getD i 0 % 2 ^ 32) ∧
        (d.pad = true → ∀ i : Nat, min toks.length d.outMax ≤ i → i < d.outMax → leAt ans (16 + 4 * i) 4 = h.pad) ∧
        Counts s u (fun c => only .textBadutf8 bad c + only .textTrunc (if trunc then 1 else 0) c + only .sramCorr n.toNat c +
          only .filterFallback (if d.start && filterLeft (seqOf s d.sq) then 1 else 0) c)))
   ∧ (∀ (n : BitVec 20) (s : State) (r : TextReq) (rest : List TextReq) (e : Elem) (q : Seq) (img : List Byte) (stops : List (List Byte)),
     TextReady s 1 r rest e q img →
     (let d := textDescOf r.desc.toNat
      (if d.start then stopSetOf (r.input.take 272) = some stops else stops = q.stops) →
      ∃ (u : State) (ans : List Byte), exec (.textDetokenise n) s = .next u ∧
        u = { s with tiles := u.tiles, elems := u.elems, txt := u.txt, cnt := u.cnt } ∧
        (let h := tokHeadOf img
         let body := if d.start then r.input.drop 272 else r.input
         let words := if q.past then [] else (chunks (body.length + 1) 4 body).map leNat
         let x := words.foldl (detokOne img h stops) ⟨q.held, [], 0, false, none, false⟩
         let held := if d.final then [] else x.held
         TextServed s u r rest e { q with stops := stops, held := held, past := q.past || x.end_ || x.stopAt.isSome } ans .arrived ∧
         ans.drop 16 = x.out ++ (if d.final then x.held else []) ∧
         (textHeadOf ans).status = 0 ∧ (textHeadOf ans).stop = x.stopAt.getD 15 % 16 ∧ (textHeadOf ans).stopped = x.stopAt.isSome ∧
         (textHeadOf ans).ended = x.end_ ∧ (textHeadOf ans).badToken = decide (0 < x.bad) ∧
         (textHeadOf ans).trunc = decide (d.inMax < r.len) ∧
         Counts s u (fun c => only .textBadtoken x.bad c + only .textTrunc (if d.inMax < r.len then 1 else 0) c +
           only .sramCorr n.toNat c + only .filterFallback (if d.start && filterLeft (seqOf s d.sq) then 1 else 0) c))))
   ∧ (∀ (n : BitVec 20) (s : State) (r : TextReq) (rest : List TextReq) (e : Elem) (q : Seq) (img : List Byte) (a : Adm) (k : Fin 1024) (tk : Nat),
     TextReady s 2 r rest e q img → r.bound = some (k, tk) → admOf s k.val = some a →
     (let d := textDescOf r.desc.toNat
      let vocab := (tokHeadOf img).vocab
      let zeros := List.replicate (maskBytes vocab) (0 : Byte)
      let more (x : Nat) : Counter → Nat := fun c => only .sramCorr n.toNat c +
        only .filterFallback ((if d.start && filterLeft (seqOf s d.sq) then 1 else 0) + x) c
      let own := if d.final && !q.gend && !q.fell then 1 else 0
      ∃ (u : State) (ans : List Byte), exec (.textGstep none n) s = .next u ∧
        u = { s with tiles := u.tiles, elems := u.elems, txt := u.txt, cnt := u.cnt } ∧
        (q.gstate = some 0xFFFFF → TextServed s u r rest e q ans .arrived ∧ (textHeadOf ans).dead = true ∧
           (textHeadOf ans).gstate = 0xFFFFF ∧ ans.drop 16 = zeros ∧ Counts s u (more own)) ∧
        (q.gstate ≠ some 0xFFFFF → q.gend = true → TextServed s u r rest e q ans .arrived ∧ (textHeadOf ans).ended = true ∧
           ans.drop 16 = zeros ∧ Counts s u (more 0)) ∧
        (q.gstate ≠ some 0xFFFFF → q.gend = false →
          (match gramStep s a.segs d vocab q.gstate (leAt r.input 0 2) with
           | .to st acc mask => TextServed s u r rest e { q with gstate := some st } ans .arrived ∧
               textHeadOf ans = ⟨0, false, false, false, acc, false, false, false, 15, 0, 0, st % 2 ^ 20⟩ ∧ ans.drop 16 = mask ∧
               Counts s u (more own)
           | .end_ st => TextServed s u r rest e { q with gend := true } ans .arrived ∧ (textHeadOf ans).ended = true ∧
               (textHeadOf ans).gstate = st % 2 ^ 20 ∧ ans.drop 16 = zeros ∧ Counts s u (more 0)
           | .dead => TextServed s u r rest e { q with gstate := some 0xFFFFF, fell := true } ans .arrived ∧
               (textHeadOf ans).dead = true ∧ (textHeadOf ans).gstate = 0xFFFFF ∧ ans.drop 16 = zeros ∧
               Counts s u (fun c => only .grammarDead 1 c + more 1 c)
           | .bad => TextServed s u r rest e q ans .refused ∧ (textHeadOf ans).status = 0x02 ∧ Counts s u (more own)))))
   ∧ (∀ (slot : Fin 2) (s : State) (k : Nat), s.txt.slots[slot].switchDue = some k → k < s.clk.tick →
     (let x := s.txt.slots[slot]
      let y : TokSlot := ⟨x.standby, .ready, x.standbyDigest, x.active, (if x.activeState = .ready then .held else x.activeState),
        x.digest, none, s.clk.tick⟩
      exec (.tokeniserSwitch slot) s = .next { s with txt := { s.txt with slots := s.txt.slots.set slot y } })))
  ∧ (∀ (isSeq : Bool) (index : Fin 128) (off : BitVec 24) (lasting : Bool) (s : State) (r : TextReq) (rest : List TextReq),
       (let d := textDescOf r.desc.toNat
        s.txt.queue = r :: rest → (if isSeq then d.sq = index.val else d.slot.val = index.val) → textDue s r = true →
        (∃ (k : Fin 1024) (tk : Nat), r.bound = some (k, tk) ∧ (d.start = true ∨ (seqOf s d.sq).bound = some (k, tk, d.op))) →
        ∃ u, exec (.textSramUncorrectable isSeq index off lasting) s = .next u ∧
          u = { s with tiles := u.tiles, elems := u.elems, txt := u.txt, evt := u.evt, cnt := u.cnt } ∧ u.txt.queue = rest ∧
          (∀ k : Nat, k ≠ d.sq → seqOf u k = seqOf s k) ∧
          (counterOf u .uncorrSram).toNat = min ((counterOf s .uncorrSram).toNat + 1) 4294967295 ∧
          (∃ p ∈ u.evt.pending, p.source.val = evUncorr) ∧
          (lasting = true → (∃ p ∈ u.evt.pending, p.source.val = evTextFailed) ∧
            (isSeq = true → (seqOf u d.sq).failed = true ∧ u.txt.slots = s.txt.slots) ∧
            (isSeq = false → ∀ tk : Nat, r.bound.map (·.2) = some tk → (imageFor u.txt.slots[d.slot] tk).2 = .failed)) ∧
          (lasting = false → u.txt.slots = s.txt.slots ∧
            (seqOf u d.sq).failed = (if d.start then false else (seqOf s d.sq).failed)) ∧
          (∀ e : Elem, elemOf s r.id = some e → e.kind = .txq r.id → s.clk.tick ≤ ((tileOf s e.tile.val).wait[e.wait]).dl →
            u.elems = s.elems.filter (fun z => z.id != e.id) ∧ (∀ k : Nat, k ≠ e.tile.val → tileOf u k = tileOf s k) ∧
            (let x := tileOf s e.tile.val
             let y := tileOf u e.tile.val
             let o := x.wait[e.wait]
             y = { withStore x y.store r.out 16 with wait := x.wait.set e.wait { o with unreadable := o.unreadable + 1 } } ∧
             (textHeadOf (tileRead u e.tile.val r.out 16)).status = 0x0C ∧
             ∀ k : Nat, k < r.out ∨ r.out + 16 ≤ k → tget 0 y.store k = tget 0 x.store k))))

/-- Static cells (R372 to R374, R392). STATIC_CELL_ARRIVE on an open port: a cell in a retry slot stands for the slot in which
it first came. A cell whose CRC is right is delivered, forwarded or stray as its receive entry says, and one that had been
asked for again counts in CNT_FAB_RETRY; one whose CRC fails is asked for once, and nothing of it is delivered.
CELL_DELIVER_LAND: a cell that lands by its wait object's deadline tick is written and counted as arrived, later it is
counted in CNT_FAB_LATE and discarded. -/
def Obligations.StaticCells : Prop :=
  (∀ (p : Fin 6) (slot : Fin 500) (cell : List Byte) (bad : BitVec 9) (first : Option (Nat × Fin 500)) (s : State), portOpen s p = true →
    (let key : Nat × Nat := (first.filter (fun _ => decide (496 ≤ slot.val))).elim (s.clk.tick, slot.val) (fun f => (f.1, f.2.val))
     let asked := s.fab.ports[p].expect.any (fun x => x.1 == key.1 && x.2.1 == key.2)
     let e := recvAt s p key.1 key.2
     let h := cellHeadOf cell
     ∃ u, exec (.staticCellArrive p slot cell bad first) s = .next u ∧ u.mem = s.mem ∧
       (cellOk cell = true → asked = true → (counterOf u .fabRetry).toNat = min ((counterOf s .fabRetry).toNat + 1) 4294967295 ∧
         (u.fab.ports[p].expect.any (fun x => x.1 == key.1 && x.2.1 == key.2)) = false) ∧
       (cellOk cell = true → asked = false → rehFailsCell s p = false → h.type = 0 → (h.retried = false → s.plan.swapTick = none) →
         (e.action = 1 → h.partition = s.mach.partition →
           (h.retried = false → h.tickLo = BitVec.ofNat 16 (s.clk.tick + 65536 - e.age)) →
           (let l : Landing2 := ⟨Fin.ofNat 192 e.tile, 32 * e.offset, Fin.ofNat 64 e.wait, s.clk.tick + (slot.val + 2) / 500, cell⟩
            u = { s with fab := { s.fab with landing := s.fab.landing ++ [l] } }))
         ∧ (e.action = 2 → h.hops ≠ 0 → h.retried = false → portOpen s (Fin.ofNat 6 e.outPort) = true →
           (let c1 := reHead (fun h => { h with hops := h.hops - 1 }) cell
            u.io = { s.io with cells := s.io.cells ++
              [(Fin.ofNat 6 e.outPort, s.clk.tick + (slot.val + 1) / 500, (slot.val + 1) % 500, c1)] } ∧ u.cnt = s.cnt))
         ∧ (e.action = 0 → u = { s with cnt := u.cnt } ∧ Counts s u (only .fabStray 1)))
       ∧ (cellOk cell = false → asked = true → u = s)
       ∧ (cellOk cell = false → asked = false → rehFailsCell s p = false →
         u = { s with fab := u.fab, io := { s.io with ctl := s.io.ctl ++ [(p, retryBytes (.cell s.clk.tick slot))] } } ∧
         u.fab = { s.fab with ports := u.fab.ports } ∧ (∀ k : Fin 6, k ≠ p → u.fab.ports[k] = s.fab.ports[k]) ∧
         (let x := s.fab.ports[p]
          u.fab.ports[p] = { x with retries := u.fab.ports[p].retries, expect := x.expect ++ [(key.1, key.2, bad)] }) ∧
         ∀ l : Nat, l < 9 → (u.fab.ports[p].retries.getD l 0).toNat =
           (let n := (s.fab.ports[p].retries.getD l 0).toNat
            if bad.getLsbD l then min 65535 (n + 1) else n))))
  ∧ (∀ (s : State) (l : Landing2) (rest : List Landing2), s.fab.landing = l :: rest → l.tick ≤ s.clk.tick →
    ∃ u, exec .cellDeliverLand s = .next u ∧ u.fab = { s.fab with landing := rest } ∧ u.mem = s.mem ∧
      (let x := tileOf s l.tile.val
       let o := x.wait[l.wait]
       (o.armed = true → o.final = false → l.tick ≤ o.dl →
         u = { s with fab := u.fab, tiles := u.tiles } ∧
         ∃ m, TileIs s u l.tile { withStore x m l.off l.cell.length with
             wait := x.wait.set l.wait { o with cells := o.cells + 1, arrived := o.arrived + 1 }, cellAt := tput 0 x.cellAt l.off (l.tick + 1) } ∧
           Stored m x.store l.off l.cell.length (fun i => l.cell.getD i 0))
       ∧ ((o.armed = false ∨ o.final = true ∨ o.dl < l.tick) →
         u = { s with fab := u.fab, cnt := u.cnt } ∧ Counts s u (only .fabLate 1))))

/-- Link retry, lanes and bypasses (R363, R364, R392 to R395). RETRY_RESEND has a cell that the port still holds wait for a
retry slot of tick t + RT, RETRIED, or counts it as dropped when that tick has passed, and a frame go once more; RESEND_FAIL
counts a second failure as lost, and the lanes that both attempts named wait for retraining. LANE_SWITCHOVER asks the
neighbour for a lane that needs retraining, notes the neighbour's notice, and at the boundary that both name puts the spare
in its place. LANE_TRAINING_DONE: a trained lane becomes the spare, a failed one is marked, and the second fails the port,
whose bypass closes. BYPASS_SWITCH_DONE: a bypass that has opened puts its trained ports up, and one that has closed puts
them back to trained. -/
def Obligations.LinkRepair : Prop :=
  (∀ (p : Fin 6) (t : Nat) (k : Fin 500) (s : State) (c : List Byte), portOpen s p = true → sentCell s p (sentSlot s p t k.val) = some c →
    (let at_ := sentSlot s p t k.val
     let rt := at_.1 + retryTicks (portTab s p).hop
     let c1 := reHead (fun h => { h with retried := true }) c
     let x := s.fab.ports[p]
     let left := x.sent.filter (fun y => !(y.1 == at_.1 && y.2.1 == at_.2))
     ∃ u, exec (.retryResend p (.cell t k)) s = .next u ∧ u = { s with fab := { s.fab with ports := u.fab.ports }, cnt := u.cnt } ∧
       (∀ q : Fin 6, q ≠ p → u.fab.ports[q] = s.fab.ports[q]) ∧
       (s.clk.tick ≤ rt → u.fab.ports[p] = { x with sent := left, own := x.own ++ [(rt, c1)] } ∧ u.cnt = s.cnt) ∧
       (rt < s.clk.tick → u.fab.ports[p] = { x with sent := left } ∧ Counts s u (only .fabRetryDrop 1))))
  ∧ (∀ (p : Fin 6) (src : NodeId) (tag : BitVec 16) (s : State) (x : Nat × OutFrame), portOpen s p = true →
    s.fab.ports[p].fsent.find? (fun x => frameId x.2.cells == (src, tag) && !x.2.resent) = some x →
    ∃ u, exec (.retryResend p (.frame src tag)) s = .next u ∧
      u = { s with fab := { s.fab with ports := u.fab.ports, out := { x.2 with resent := true } :: s.fab.out } } ∧
      u.fab.ports[p].fsent = s.fab.ports[p].fsent.filter (fun z => z != x))
  ∧ (∀ (p : Fin 6) (t : Nat) (k : Fin 500) (lanes bad : BitVec 9) (s : State),
    s.fab.ports[p].expect.find? (fun x => x.1 == t && x.2.1 == k.val) = some (t, k.val, bad) →
    ∃ u, exec (.resendFail p (.cell t k) lanes) s = .next u ∧ u = { s with fab := u.fab, cnt := u.cnt } ∧ Counts s u (only .fabLost 1) ∧
      u.fab.ports[p].expect = s.fab.ports[p].expect.erase (t, k.val, bad) ∧
      ∀ l : Fin 9, lanes.getLsbD l.val = true → bad.getLsbD l.val = true → s.fab.ports[p].laneFail.getLsbD l.val = false →
        s.fab.ports[p].retraining ≠ some l → l ∈ u.fab.ports[p].laneWait)
  ∧ (∀ (p : Fin 6) (l : Fin 9) (b : Nat) (s : State),
    (let x := s.fab.ports[p]
     (laneMayTrain x l = true → s.clk.tick + 2 ≤ b →
       ∃ u, exec (.laneSwitchover p (.ask l b)) s = .next u ∧
         u = { s with fab := { s.fab with ports := u.fab.ports }, io := { s.io with ctl := s.io.ctl ++ [(p, switchBytes (l, b))] } } ∧
         u.fab.ports[p] = { x with asked := some (l, b) } ∧ ∀ q : Fin 6, q ≠ p → u.fab.ports[q] = s.fab.ports[q])
     ∧ (∃ u, exec (.laneSwitchover p (.heard l b)) s = .next u ∧ u = { s with fab := { s.fab with ports := u.fab.ports }, io := u.io } ∧
         u.fab.ports[p].heard = some (l, b) ∧ (∀ q : Fin 6, q ≠ p → u.fab.ports[q] = s.fab.ports[q]) ∧
         (x.asked = none → switchOk s x (l, b) = true → u.fab.ports[p].asked = some (l, b) ∧
           u.io = { s.io with ctl := s.io.ctl ++ [(p, switchBytes (l, b))] }))
     ∧ (x.asked = some (l, s.clk.tick) → x.heard = some (l, s.clk.tick) → x.retraining = none →
       ∃ u, exec (.laneSwitchover p .take) s = .next u ∧ u = { s with fab := { s.fab with ports := u.fab.ports } } ∧
         u.fab.ports[p] = { x with
           spare := 15, retraining := some l, laneWait := x.laneWait.erase l, asked := none, heard := none } ∧
         ∀ q : Fin 6, q ≠ p → u.fab.ports[q] = s.fab.ports[q])))
  ∧ (∀ (p : Fin 6) (ok : Bool) (temp : BitVec 8) (s : State) (l : Fin 9), s.fab.ports[p].retraining = some l →
    ∃ u, exec (.laneTrainingDone p ok temp) s = .next u ∧ u = { s with fab := u.fab, evt := u.evt, cnt := u.cnt } ∧
      (∃ e ∈ u.evt.pending, e.source.val = evLaneRetrain p.val) ∧ (∀ q : Fin 6, q ≠ p → u.fab.ports[q] = s.fab.ports[q]) ∧
      (let x := s.fab.ports[p]
       let y := u.fab.ports[p]
       let pair : Fin 3 := Fin.ofNat 3 (p.val / 2)
       (ok = true → y.retraining = none ∧ y.state = x.state ∧ y.laneFail = x.laneFail ∧
         y.spare = (if x.laneFail = 0 then BitVec.ofNat 4 l.val else 15) ∧ (x.state ≠ .failed → u.fab.byp = s.fab.byp))
       ∧ (ok = false → y.retraining = none ∧ y.spare = 15 ∧ y.laneFail.getLsbD l.val = true ∧
         (x.laneFail = 0 → x.state = .up → y.state = .degraded ∧ u.fab.byp = s.fab.byp ∧ ∃ e ∈ u.evt.pending, e.source.val = evPortState p.val)
         ∧ (x.laneFail ≠ 0 → y.state = .failed ∧ (s.fab.byp[pair] = .open_ → u.fab.byp[pair] = .closing)))))
  ∧ (∀ (pair : Fin 3) (s : State), (s.fab.byp[pair] = .opening ∨ s.fab.byp[pair] = .closing) →
    ∃ u, exec (.bypassSwitchDone pair) s = .next u ∧
      u = { s with fab := { s.fab with byp := u.fab.byp, bypAsked := u.fab.bypAsked, ports := u.fab.ports } } ∧
      (∀ q : Fin 3, q ≠ pair → u.fab.byp[q] = s.fab.byp[q]) ∧
      (∀ q : Fin 6, q.val / 2 ≠ pair.val → u.fab.ports[q] = s.fab.ports[q]) ∧
      (s.fab.byp[pair] = .opening → (s.fab.bypAsked[pair] = none → u.fab.byp[pair] = .open_) ∧ ∀ q : Fin 6, q.val / 2 = pair.val →
        u.fab.ports[q] =
        (let x := s.fab.ports[q]
         if x.state = .trained then { x with state := if x.laneFail = 0 then .up else .degraded } else x)) ∧
      (s.fab.byp[pair] = .closing → (s.fab.bypAsked[pair] = none → u.fab.byp[pair] = .closed) ∧ ∀ q : Fin 6, q.val / 2 = pair.val →
        u.fab.ports[q] =
        (let x := s.fab.ports[q]
         if x.state = .up ∨ x.state = .degraded then { x with state := .trained } else x)))

/-- Best-effort frames and remote reads (R381 to R384, R388 to R392). FRAME_RECEIVE: a frame with a failed cell is asked for
once more; a transit frame waits at the port of its route with HOPS one less, or is dropped and counted where its class has
no room; one that is too old is dropped and counted. FRAME_SEND drops the frames that have aged, and the winner that fits
the window leaves. RREQ_SERVE answers a read entry that the segments allow with its bytes. RREPLY_RECEIVE: a reply frees its
tag, and the last of an element's reads lands it. -/
def Obligations.RemoteReads : Prop :=
  (∀ (p : Fin 6) (cells : FrameCells) (bad : BitVec 9) (s : State), portOpen s p = true → frameOk cells = true →
    (let h := cellHeadOf (cells.headD [])
     let id := frameId cells
     let asked := s.fab.ports[p].fexpect.find? (fun x => (x.1, x.2.1) == id)
     ∃ u, exec (.frameReceive p cells bad) s = .next u ∧
       (cells.all cellOk = false → asked = none →
         u = { s with fab := { s.fab with ports := u.fab.ports }, io := { s.io with ctl := s.io.ctl ++ [(p, retryBytes (.frame id.1 id.2))] } } ∧
         u.fab.ports[p].fexpect = s.fab.ports[p].fexpect ++ [(id.1, id.2, bad)]) ∧
       (cells.all cellOk = false → asked ≠ none → u = s) ∧
       (cells.all cellOk = true → h.type ≠ tyReplica → ∀ x, asked = some x → u.fab.ports[p].fexpect = s.fab.ports[p].fexpect.erase x ∧
         (counterOf u .fabRetry).toNat = min ((counterOf s .fabRetry).toNat + 1) 4294967295) ∧
       (cells.all cellOk = true → asked = none →
         (7 ≤ h.type → u = { s with cnt := u.cnt } ∧ Counts s u (only .fabStray cells.length)) ∧
         (h.type < 7 → 8192 < ageOf s h.tickLo.toNat → u = { s with cnt := u.cnt } ∧ Counts s u (only .fabAged 1)) ∧
         (∀ q : Fin 6, h.type < 7 → ageOf s h.tickLo.toNat ≤ 8192 → h.dest ≠ s.aon.nodeId → routePort s h.dest = some q →
           (let n := transitCells s q p.val
            (512 < n + cells.length → u = { s with cnt := u.cnt } ∧ Counts s u (only .fabBeFull 1)) ∧
            (n + cells.length ≤ 512 → h.yellow = true → 256 < n → u = { s with cnt := u.cnt } ∧ Counts s u (only .fabYellowDrop 1)) ∧
            (n + cells.length ≤ 512 → (h.yellow = false ∨ n ≤ 256) →
              (let f : OutFrame := ⟨q, p.val, cells.map (reHead (fun h => { h with hops := h.hops - 1 })), false⟩
               u = { s with fab := { s.fab with out := s.fab.out ++ [f] } })))))))
  ∧ (∀ (p : Fin 6) (room : Fin 501) (s : State), portOpen s p = true →
    (let old (f : OutFrame) : Bool := f.port == p && wasSent f && frameAged s f.cells
     let rest := s.fab.out.filter (fun f => !old f)
     ∃ u, exec (.frameSend p room) s = .next u ∧ u = { s with fab := u.fab, io := u.io, cnt := u.cnt } ∧
      Counts s u (only .fabAged (s.fab.out.filter old).length) ∧
      ((∀ f ∈ rest, f.port = p → room.val < f.cells.length) → u.fab.out = rest ∧ u.io = s.io) ∧
      (∀ f : OutFrame, arbWinner { s with fab := { s.fab with out := rest } } p room.val = some f →
        f.port = p ∧ f.cells.length ≤ room.val ∧ u.fab.out = rest.erase f ∧
        (f.resent = false → u.fab.ports[p].arb = (f.party + 1) % 11) ∧
        (let cells := if wasSent f then f.cells else f.cells.map (reHead (fun h => { h with tickLo := BitVec.ofNat 16 s.clk.tick }))
         u.io = { s.io with frames := s.io.frames ++ [(p, cells)] } ∧
         u.fab.ports[p].fsent = s.fab.ports[p].fsent ++ [(s.clk.tick, { f with cells := cells })]))))
  ∧ (∀ (cells : FrameCells) (bad : List Nat) (s : State),
    (let c := cells.headD []
     let h := cellHeadOf c
     frameOk cells = true → h.type = 2 → h.dest = s.aon.nodeId → h.partition = s.mach.partition →
     ∃ u, exec (.rreqServe cells bad) s = .next u ∧ u.mem = s.mem ∧
       (∀ (e : RreqEnt) (a : Nat) (q : Fin 6), rreqEnts c = [e] → bad = [] → ageOf s e.issueLo ≤ 4096 → 1 ≤ e.len → e.len ≤ 256 →
         segAddr (ctxOf s e.ctx.toNat).segs e.seg e.off e.len false = some a → s.raw = [] → (∀ kv ∈ s.stk.pcs, kv.2.dead = false) →
         (ctxOf s e.ctx.toNat).meter.mode = 0 → isMember s h.src = true → routePort s h.src = some q →
         u = { s with fab := u.fab, ctxs := u.ctxs, cnt := u.cnt } ∧ (∀ k : Nat, ctxOf u k = ctxOf s k) ∧
         Counts s u (only .readHeld (if (beansOfRange a e.len).any (beanBusy s) then 1 else 0)) ∧
         ∃ f : OutFrame, u.fab = { s.fab with out := s.fab.out ++ [f], frameNo := s.fab.frameNo + 1 } ∧
           f.port = q ∧ f.party = 7 ∧ f.resent = false ∧
           (∀ x ∈ f.cells, (cellHeadOf x).type = 3 ∧ (cellHeadOf x).dest = h.src ∧ (cellHeadOf x).src = s.aon.nodeId) ∧
           (cellHeadOf (f.cells.headD [])).plen = 1 ∧
           replyEntOf (leAt (cellPayload (f.cells.headD [])) 0 16) = ⟨BitVec.ofNat 16 e.rtag, e.issueLo % 65536, e.ctx, e.len, 0⟩ ∧
           (frameBytes f.cells.tail).take e.len = memRead s a e.len)))
  ∧ (∀ (cells : FrameCells) (s : State),
    (let c := cells.headD []
     let h := cellHeadOf c
     let r := replyEntOf (leAt (cellPayload c) 0 16)
     frameOk cells = true → h.type = 3 → h.dest = s.aon.nodeId → h.partition = s.mach.partition →
     ∃ u, exec (.rreplyReceive cells) s = .next u ∧ u.mem = s.mem ∧
       (h.plen = 1 → matchTag s r = none → u = { s with cnt := u.cnt } ∧ Counts s u (only .fabStray 1)) ∧
       (∀ (t : RTag) (e : Elem) (d : Nat), h.plen = 1 → r.status = 0 → matchTag s r = some t → elemOf s t.elem = some e →
         e.kind = .loadRemote d 1 → r.len = t.len →
         u = { s with fab := { s.fab with tags := s.fab.tags.erase t }, tiles := u.tiles, elems := s.elems.filter (fun x => x.id != e.id) } ∧
         (let x := tileOf s e.tile.val
          let o := x.wait[e.wait]
          (s.clk.tick ≤ o.dl → ∃ m, TileIs s u e.tile { withStore x m t.off t.len with
               wait := x.wait.set e.wait { o with arrived := o.arrived + 1 } } ∧
             Stored m x.store t.off t.len (fun i => (frameBytes cells.tail).getD i 0))
          ∧ (o.dl < s.clk.tick → TileIs s u e.tile { x with wait := x.wait.set e.wait { o with late := o.late + 1 } })))))

/-- EPOCH_BOUNDARY (R413, R417): the announced membership takes effect and the epoch number grows by one, and every entry of the
shard map that the losses touch changes as R417 says. SLOT_TABLE_SWAP (R375): at the activation tick the standby tables
become the active ones. Leases and succession (R414 to R416). LEASE: the steward sends a lease to every member it has a
route to; a member takes one in time. LEASE_ACK: a member answers it, and the steward takes the answers stamped in time.
LEASE_DEADLINE: a member that misses three in a row is lost, and a steward not heard of is silent for one more. CLAIM: a
silent steward's successor claims the first grid tick at least 1,024 ahead, and a claim of another is noted.
STEWARD_TAKEOVER: at that tick the claimant of the least ordinal takes the role and declares the old steward lost. -/
def Obligations.Membership : Prop :=
  ((∀ s : State, s.mach.nextEpoch ≠ 0 → s.clk.tick = s.mach.nextEpoch →
     (let gone (n : NodeId) : Prop := n ∈ s.mach.members ∧ n ∉ s.mach.nextMembers
      ∃ u, exec .epochBoundary s = .next u ∧ u.mach.members = s.mach.nextMembers ∧ u.mach.epoch = s.mach.epoch + 1 ∧ u.mem = s.mem ∧
        u.tiles = s.tiles ∧ (s.mach.role ≠ .steward → u.mach.nextEpoch = 0) ∧
        (s.mach.role = .steward → u.mach.nextEpoch = s.clk.tick + 16384) ∧
        (s.aon.nodeId ∈ s.mach.members → s.aon.nodeId ∉ s.mach.nextMembers → u.mach.dropped.isSome = true ∧
          (s.mach.dropped = none → u.fab.fence = 7)) ∧
        ∀ (c : CtxId) (sh : BitVec 20),
          (let e := shardEnt s c.toNat sh.toNat
           let e1 := shardEnt u c.toNat sh.toNat
           e ≠ ShardEnt.reset →
           (¬gone e.primary → ¬gone e.partner → (e.state = .serving ∨ e.state = .takeover) → e1 = e) ∧
           (e.state = .serving → gone e.primary → ¬gone e.partner → e1 = { e with state := .takeover, primary := e.partner }) ∧
           (e.state = .serving → gone e.partner → ¬gone e.primary → e1 = { e with state := .takeover, partner := e.primary }) ∧
           (e.state = .takeover → gone e.primary → e1 = { e with state := .lost }) ∧
           (e.state = .filling → fillOf s c sh = none → gone e.primary → e.partner ≠ e.primary → ¬gone e.partner → e1 = { e with state := .lost }) ∧
           (e.state = .filling → fillOf s c sh = none → gone e.partner → ¬gone e.primary →
             e1 = { e with state := .takeover, partner := e.primary }) ∧
           (∀ f : Fill, e.state = .filling → fillOf s c sh = some f → f.done = true → ¬gone e.primary → ¬gone e.partner →
             e1 = { e with state := .serving }))))
   ∧ (∀ (s : State) (a : Activation), s.plan.act = some a → s.clk.tick = a.a → s.plan.swapTick ≠ some a.a →
     exec .slotTableSwap s = .next { s with plan := { s.plan with slots := s.plan.standby, swapTick := some a.a } }))
  ∧ ((∀ (armed : List (Nat × Nat × NodeId)) (s : State), s.mach.role = .steward → s.clk.tick % 1024 = 0 → s.clk.did.leaseSent = false →
       ∃ u, exec (.lease none armed) s = .next u ∧ u = { s with mach := u.mach, clk := u.clk, fab := u.fab } ∧ u.clk.did.leaseSent = true ∧
         u.mach.acked = [] ∧ ∀ (n : NodeId) (p : Fin 6), n ∈ s.mach.members → n ≠ s.aon.nodeId → routePort s n = some p →
           ∃ f ∈ u.fab.out, FrameFor f p 4 n)
     ∧ (∀ (f : LeaseFrame) (armed : List (Nat × Nat × NodeId)) (s : State), f.steward = s.mach.steward →
       ((s.mach.role = .member ∨ s.mach.role = .claimant ∨ s.aon.joinState = .opening) → s.clk.tick % 1024 ≤ 512 →
         ∃ u, exec (.lease (some f) armed) s = .next u ∧ u = { s with mach := u.mach } ∧ u.mach = { s.mach with
           leaseSeen := true, epoch := f.epoch, nextEpoch := f.nextEpoch.toNat, nextMembers := f.members, windows := f.windows,
           pastWindows := u.mach.pastWindows })
       ∧ (512 < s.clk.tick % 1024 → exec (.lease (some f) armed) s = .next s))
     ∧ (∀ s : State, s.mach.leaseSeen = true → s.mach.role ≠ .steward → s.mach.steward ≠ s.aon.nodeId →
       ∃ u, exec (.leaseAck none) s = .next u ∧ u = { s with fab := u.fab } ∧
         (∀ p : Fin 6, isMember s s.mach.steward = true → routePort s s.mach.steward = some p → ∃ f : OutFrame,
           u.fab = { s.fab with out := s.fab.out ++ [f], frameNo := s.fab.frameNo + 1 } ∧ FrameFor f p 4 s.mach.steward))
     ∧ (∀ (r : LeaseReply) (s : State), s.mach.role = .steward → s.clk.tick % 1024 ≤ 512 → isMember s r.node = true →
       ∃ u, exec (.leaseAck (some r)) s = .next u ∧ u = { s with mach := u.mach } ∧ r.node ∈ u.mach.acked ∧
         (r.dropped = true → r.node ∈ u.mach.lost) ∧ (r.dropped = false → u.mach.lost = s.mach.lost))
     ∧ (∀ s : State, s.clk.tick % 1024 = 512 → s.clk.did.leased = false →
       ∃ u, exec .leaseDeadline s = .next u ∧ u = { s with mach := u.mach, clk := u.clk } ∧ u.clk = { s.clk with did := { s.clk.did with leased := true } } ∧
         (s.mach.role = .member ∨ s.mach.role = .claimant → u.mach = { s.mach with silent := if s.mach.leaseSeen then 0 else s.mach.silent + 1, leaseSeen := false }) ∧
         (s.mach.role = .steward → s.mach.members.Nodup → ∀ n ∈ s.mach.members, n ≠ s.aon.nodeId →
           missedOf u n = (if n ∈ s.mach.acked then 0 else missedOf s n + 1) ∧ (n ∉ s.mach.acked → 2 ≤ missedOf s n → n ∈ u.mach.lost)))
     ∧ (∀ s : State, s.mach.role = .member → 3 * (aheadOf s + 1) ≤ s.mach.silent →
       ∃ (u : State) (b : Nat), exec (.claim none) s = .next u ∧ u = { s with mach := u.mach, fab := u.fab } ∧ u.mach.role = .claimant ∧
         u.mach.claims = s.mach.claims ++ [(s.aon.nodeId, b, s.clk.tick)] ∧ b % 16384 = 0 ∧ s.clk.tick + 1024 ≤ b ∧ b < s.clk.tick + 1024 + 16384)
     ∧ (∀ (n : NodeId) (b : BitVec 64) (s : State), isMember s n = true → b.toNat % 16384 = 0 → s.clk.tick < b.toNat →
       ∃ u, exec (.claim (some (n, b))) s = .next u ∧ u = { s with mach := u.mach } ∧ u.mach.role = s.mach.role ∧
         u.mach.claims = s.mach.claims ++ [(n, b.toNat, s.clk.tick)])
     ∧ (∀ s : State, (∃ c ∈ s.mach.claims, c.2.1 = s.clk.tick ∧ c.2.2 + 512 ≤ s.clk.tick) →
       ∃ (u : State) (n : NodeId), exec .stewardTakeover s = .next u ∧
         (∃ c ∈ s.mach.claims, c.1 = n ∧ c.2.1 = s.clk.tick ∧ c.2.2 + 512 ≤ s.clk.tick) ∧
         (∀ c ∈ s.mach.claims, c.2.1 = s.clk.tick → c.2.2 + 512 ≤ s.clk.tick → ordinal s.mach.steward n ≤ ordinal s.mach.steward c.1) ∧
         u.mach.steward = n ∧ u.mach.claims = s.mach.claims.filter (fun c => decide (s.clk.tick < c.2.1)) ∧
         u.mach.members = s.mach.members ∧ u.mach.silent = 0 ∧
         (n ≠ s.mach.steward → ∃ x ∈ u.evt.pending, x.source.val = evSteward) ∧
         (n = s.aon.nodeId → u.mach.role = .steward ∧ u.mach.nextEpoch = s.clk.tick + 16384 ∧
           (s.mach.steward ∈ s.mach.members → s.mach.steward ∈ u.mach.lost)) ∧
         (n ≠ s.aon.nodeId → s.mach.role ≠ .none_ → u.mach.role = .member)))

/-- Fills, lost shards and rehearsals (R418 to R420, R423 to R425). FILL_START makes an entry in TAKEOVER with two nodes
FILLING. FILL_COPY: the source sends the rows asked for as its memory holds them, or a cold image as its flash does; what
arrives at the destination is written at the boundary, and its ticks are noted. FILL_DONE notes that all has landed;
FILL_ABANDON takes the entry back to TAKEOVER with the source as its only holder, counted. LOST_SHARD_RECORD delivers the
record to the node's software. REHEARSAL_START is counted and injects its fault, and REHEARSAL_END undoes it. -/
def Obligations.FillsAndRehearsals : Prop :=
  (∀ (c : CtxId) (sh : BitVec 20) (s : State),
    (let e := shardEnt s c.toNat sh.toNat
     (e.state = .takeover → e.partner ≠ e.primary →
       ∃ u, exec (.fillStart c sh) s = .next u ∧ u = { s with shards := u.shards, mach := u.mach } ∧
         (let f : Fill := ⟨c, sh, e.primary == s.aon.nodeId, 0, 0, 0, false⟩
          u.mach = { s.mach with fills := s.mach.fills ++ [f] }) ∧ shardEnt u c.toNat sh.toNat = { e with state := .filling } ∧
         ∀ k : Nat, k ≠ shardKey c.toNat sh.toNat → tget ShardEnt.reset u.shards k = tget ShardEnt.reset s.shards k)
     ∧ (∀ (lc ld : BitVec 64) (rows : List (Nat × List Byte)), e.state = .filling → e.partner = s.aon.nodeId →
       ∃ u, exec (.fillCopy c sh (.arrive lc ld rows)) s = .next u ∧ u = { s with memWrites := u.memWrites, mach := u.mach } ∧
         u.memWrites = s.memWrites ++ (rows.filter (fun r => decide (r.1 + r.2.length ≤ 412316860416))).map (fun r => ⟨192, 0, r.1, r.2⟩) ∧
         ⟨c, sh, lc, ld⟩ ∈ u.mach.ticks ∧ ∀ f ∈ u.mach.fills, f.ctx = c → f.shard = sh → f.lastCommit = lc ∧ f.lastDurable = ld)
     ∧ (∀ (cp : ShardCopy) (f : Fill), e.state = .filling → e.primary = s.aon.nodeId → copyOf s c.toNat sh.toNat = some cp →
       cp.ctx = c → cp.shard = sh → fillOf s c sh = some f →
       (let sent (u : State) (rows : List (Nat × List Byte)) : Prop :=
          u = { s with mach := { s.mach with fills := u.mach.fills },
                       io := { s.io with msgs := s.io.msgs ++ [(e.partner, msgFill, fillBytes (copyTicks s cp) rows)] } }
        (∀ (l : List (Nat × Nat)) (r : Nat), fillOrder s cp f.row l = some r → ∃ u, exec (.fillCopy c sh (.rows l)) s = .next u ∧
          sent u (l.map (fun x => (x.1, memRead s x.1 x.2))) ∧ ∃ g, fillOf u c sh = some g ∧ g.row = r)
        ∧ (∀ (l : List (Nat × Nat)), fillOrder s cp f.row l = none → exec (.fillCopy c sh (.rows l)) s = .next s)
        ∧ (∀ (item : BitVec 36) (a : Nat), dirFind s cp item = some a → (dirEntOf (memNat s a 16)).flash = true →
          ∃ u, exec (.fillCopy c sh (.cold item)) s = .next u ∧
            (let loc := (dirEntOf (memNat s a 16)).fvLoc
             sent u [(loc, faddrBytes s (faddrOf loc) (fvSize (ctxOf s c.toNat)))]))))
     ∧ (e.state = .filling →
       (∃ u, exec (.fillDone c sh) s = .next u ∧ u = { s with mach := u.mach, io := u.io } ∧
         (∀ f ∈ u.mach.fills, f.ctx = c → f.shard = sh → f.done = true) ∧
         ((e.primary = s.aon.nodeId ∧ s.mach.role ≠ .steward) → ∃ m, u.io = { s.io with msgs := s.io.msgs ++ [(s.mach.steward, msgFill, m)] }) ∧
         (e.primary ≠ s.aon.nodeId → u.io = s.io))
       ∧ (∃ u, exec (.fillAbandon c sh) s = .next u ∧ u = { s with shards := u.shards, mach := u.mach, cnt := u.cnt } ∧
         shardEnt u c.toNat sh.toNat = { e with state := .takeover, partner := e.primary } ∧ (∀ f ∈ u.mach.fills, f.ctx ≠ c ∨ f.shard ≠ sh) ∧
         Counts s u (only .fillAbandon 1)))
     ∧ (∀ r : ShardTicks, r.ctx = c → r.shard = sh → e.state = .lost →
       (let t := if s.mach.role = .steward then (s.mach.ticks.find? (fun x => x.ctx == c && x.shard == sh)).getD r else r
        ∃ u, exec (.lostShardRecord r) s = .next u ∧ u = { s with fab := u.fab, evt := u.evt, cnt := u.cnt } ∧
         ∃ x, Asserted s u (Fin.ofNat 512 evLostShard) x ∧ x.extractLsb' 128 64 = t.lastCommit ∧ x.extractLsb' 64 64 = t.lastDurable ∧
           x.extractLsb' 44 20 = t.shard ∧ x.extractLsb' 32 12 = t.ctx))))
  ∧ (∀ s : State, s.mach.rehArmed = true → s.mach.rehActive = false → s.mach.rehStart.toNat ≤ s.clk.tick →
    ∃ u, exec .rehearsalStart s = .next u ∧ u.mach.rehActive = true ∧ u.mem = s.mem ∧ u.tiles = s.tiles ∧
      (∃ x ∈ u.evt.pending, x.source.val = evRehearsal) ∧
      (counterOf u .rehearse).toNat = min ((counterOf s .rehearse).toNat + 1) 4294967295 ∧
      (s.mach.rehKind = 1 → u.mach.dropped.isSome = true) ∧
      (s.mach.rehKind = 2 → s.fab.byp[rehPair s] = .open_ → u.fab.byp[rehPair s] = .closing) ∧
      (s.mach.rehKind = 3 → u.stk.beanOut.getLsbD s.mach.rehTarget.toNat = decide (s.mach.rehTarget.toNat < 6144) ∧
        ∀ b : Nat, b ≠ s.mach.rehTarget.toNat → u.stk.beanOut.getLsbD b = s.stk.beanOut.getLsbD b))
  ∧ (∀ s : State, s.mach.rehActive = true → (s.mach.rehKind = 1 → s.mach.dropped = none) →
    (s.mach.rehKind ≠ 1 → s.mach.rehStart.toNat + s.mach.rehLen.toNat ≤ s.clk.tick) →
    ∃ u, exec .rehearsalEnd s = .next u ∧ u.mach = { s.mach with rehActive := false, rehArmed := false } ∧ u.mem = s.mem ∧ u.tiles = s.tiles ∧
      (∃ x ∈ u.evt.pending, x.source.val = evRehearsal) ∧
      (s.mach.rehKind = 2 → s.fab.byp[rehPair s] = .closed → mayOpen s (rehPair s) = true → u.fab.byp[rehPair s] = .opening) ∧
      (s.mach.rehKind = 3 → u.stk.beanOut.getLsbD s.mach.rehTarget.toNat = false ∧
        ∀ b : Nat, b ≠ s.mach.rehTarget.toNat → u.stk.beanOut.getLsbD b = s.stk.beanOut.getLsbD b))

/-- Checkpoints (R398 to R409). CHECKPOINT_READ, in the tick after its phase ends, sends a home block whose LEN is legal to the
standby of its ledger word, counts one whose LEN is not, and ends a request whose block cannot be read with STATE_LOST.
CKPT: the standby has the bytes written into the block that holds the phase's copy, or into a free one, keeps the copy it
supersedes, and acknowledges the whole; it refuses with CAPACITY, counted, where no block is free. CKPT_ACK by D1 sets
CKPT_PHASE and SBLOCK, and a later one is counted. VERIFY_READ changes nothing where it passes; where it fails a resume
starts if the checkpoint is held, and otherwise the request ends with STATE_LOST. Resumes (R410, R411). A standby answers an
ADOPT; the entry node sends ADOPT again while nothing has come. RESTORE keeps what lands until all has. HOME_BLOCK_REWRITE
in a later tick writes the home block anew, with its header and the restored state, and in a tick after that verify-reads it
and asks the ledger back to HOME, or ends the request with STATE_LOST. ADOPT_FAIL, where no copy is held, ends the request
with STATE_LOST. -/
def Obligations.CheckpointsAndResumes : Prop :=
  ((∀ (k : Fin 1024) (bad : Bool) (s : State) (c : Ckpt), ckptNow s k.val = some c →
     (let l := ledgerOf s k.val
      let h := blockHeadOf (memRead s (blockAddr s k.val) 32)
      let lost (u : State) : Prop := u.mem = s.mem ∧ ∀ a : Adm, admOf s k.val = some a → admOf u k.val = some { a with fault := a.fault.or (some 0x0A) }
      l.valid = true →
      (s.clk.tick = c.e + 1 → l.ckptSent = false →
        ∃ u, exec (.checkpointRead k bad) s = .next u ∧
          ((bad = true ∨ blockBad s k.val (ckptBytes s k.val) = true) → lost u) ∧
          (bad = false → blockBad s k.val (ckptBytes s k.val) = false →
            (blockBytes s / 32 - 1 < h.len → u = { s with cnt := u.cnt } ∧ Counts s u (only .poolBadlen 1)) ∧
            (h.len ≤ blockBytes s / 32 - 1 → l.mirrored = true → u = { s with fab := u.fab, pool := u.pool } ∧
              ledgerOf u k.val = { l with ckptSent := true } ∧
              ∀ p : Fin 6, isMember s l.standby = true → routePort s l.standby = some p → ∃ f ∈ u.fab.out, FrameFor f p 6 l.standby)))
      ∧ (s.clk.tick = c.d1 + 1 → resumeOf s k.val = none →
        (let fails := bad || rehPoolHome s || blockBad s k.val (blockBytes s)
         ∃ u, exec (.verifyRead k bad) s = .next u ∧
          (fails = false → l.ckptSent = false → u = s) ∧
          (fails = false → l.ckptSent = true → ledgerOf u k.val = { l with ckptSent := false } ∧ Counts s u (only .ckptLate 1)) ∧
          (fails = true → l.phase.toNat = c.phase → l.mirrored = true → resumeOf u k.val = some ⟨k, .swapAsked, [], s.clk.tick⟩ ∧ u.mem = s.mem ∧
            ∃ w : Swap, u.pool.swaps = s.pool.swaps ++ [w] ∧ w.local_ = true ∧ w.slot = k ∧ w.body.newOwner = 2 ∧
              w.body.expOwner = l.owner ∧ w.body.expEpoch = l.epoch ∧ w.body.reqId = l.reqId) ∧
          (fails = true → (l.phase.toNat ≠ c.phase ∨ l.mirrored = false) → lost u)))))
   ∧ (∀ (f : PoolFrame) (bad : Bool) (s : State) (ph : BitVec 8) (ep : BitVec 13), ckptPhase s f = some (ph, ep) →
     ∃ u, exec (.ckpt f bad) s = .next u ∧ u.mem = s.mem ∧
       (∀ b : Standby, openCopy s f ph = some b → bad = false → f.offset.toNat + f.data.length ≤ blockBytes s →
         u = { s with memWrites := u.memWrites, pool := u.pool, fab := u.fab } ∧
         u.memWrites = s.memWrites ++ [⟨192, 0, blockAddr s b.block + f.offset.toNat, f.data⟩]) ∧
       (∀ n : Nat, openCopy s f ph = none → freeStandby s = some n → bad = false → f.offset.toNat + f.data.length ≤ blockBytes s →
         u = { s with memWrites := u.memWrites, pool := u.pool, fab := u.fab } ∧
         u.memWrites = s.memWrites ++ [⟨192, 0, blockAddr s n + f.offset.toNat, f.data⟩] ∧
         (∃ b ∈ u.pool.standbys, b.block = n ∧ b.reqId = f.reqId ∧ b.phase = ph ∧ b.retained = false ∧ b.last = s.clk.tick) ∧
         (∀ b ∈ u.pool.standbys, b.block ≠ n → b.reqId = f.reqId → b.retained = true) ∧
         (∀ p : Fin 6, f.offset = 0 → 32 ≤ f.data.length → 32 + 32 * (blockHeadOf (slice f.data 0 32)).len ≤ f.data.length →
           isMember s f.src = true → routePort s f.src = some p → ∃ x ∈ u.fab.out, FrameFor x p 6 f.src)) ∧
       (openCopy s f ph = none → freeStandby s = none → u = { s with fab := u.fab, cnt := u.cnt } ∧ Counts s u (only .poolNostandby 1)))
   ∧ (∀ (f : PoolFrame) (full : Bool) (s : State) (c : Ckpt),
     (let k := slotOfReq f.reqId
      let l := ledgerOf s k
      let w := ledgerWordOf f.ledger
      ckptNow s k = some c → l.valid = true → l.reqId = f.reqId → l.ckptSent = true → f.src = l.standby →
      ∃ u, exec (.ckptAck f full) s = .next u ∧ u = { s with pool := u.pool, fab := u.fab, cnt := u.cnt } ∧
        (s.clk.tick ≤ c.d1 → u.cnt = s.cnt ∧ (full = false → w.phase.toNat = c.phase →
          ledgerOf u k = { l with phase := w.phase, sblock := w.sblock, ckptSent := false }) ∧
          (full = true → ledgerOf u k = { l with ckptSent := false }))
        ∧ (c.d1 < s.clk.tick → ledgerOf u k = { l with ckptSent := false } ∧ Counts s u (only .ckptLate 1)))))
  ∧ ((∀ (f : PoolFrame) (k : Fin 1024) (s : State),
       ∃ u, exec (.adopt (some f) k) s = .next u ∧ u = { s with fab := u.fab, pool := u.pool } ∧
         ∀ p : Fin 6, isMember s f.src = true → routePort s f.src = some p → (∃ x ∈ u.fab.out, FrameFor x p 6 f.src) ∧
           (adoptCopy s f.reqId (ledgerWordOf f.ledger) = none → u.fab.out.length = s.fab.out.length + 1))
     ∧ (∀ (k : Fin 1024) (s : State) (r : Resume) (c : Ckpt), resumeOf s k.val = some r → ckptNow s k.val = some c → r.step = .adopting →
       r.got = [] → s.clk.tick ≤ c.d2 →
       ∃ u, exec (.adopt none k) s = .next u ∧ u = { s with fab := u.fab } ∧
         ∀ p : Fin 6, (ledgerOf s k.val).mirrored = true → isMember s (ledgerOf s k.val).standby = true →
           routePort s (ledgerOf s k.val).standby = some p →
           ∃ f : OutFrame, u.fab.out = s.fab.out ++ [f] ∧ FrameFor f p 6 (ledgerOf s k.val).standby)
     ∧ (∀ (f : PoolFrame) (s : State) (r : Resume),
       (let k := slotOfReq f.reqId
        let l := ledgerOf s k
        let got := r.got.filter (fun x => x.1 != f.offset.toNat) ++ [(f.offset.toNat, f.data)]
        resumeOf s k = some r → r.step = .adopting → l.valid = true → l.reqId = f.reqId → f.src = l.standby →
        (∀ c : Ckpt, ckptNow s k = some c → s.clk.tick ≤ c.d2 →
          ∃ u, exec (.restore f) s = .next u ∧ u = { s with pool := { s.pool with resumes := u.pool.resumes } } ∧
            (∃ step : ResumeStep, resumeOf u k = some { r with got := got, tick := s.clk.tick, step := step } ∧
              (r.got = [] → f.offset = 0 → step =
                if 32 + 32 * (blockHeadOf (slice f.data 0 32)).len ≤ f.data.length then .restored else .adopting)))
        ∧ (∃ u, exec (.adoptFail f) s = .next u ∧ u = { s with pool := { s.pool with resumes := u.pool.resumes }, host := u.host } ∧
          resumeOf u k = none ∧ (∀ a : Adm, admOf s k = some a → admOf u k = some { a with fault := a.fault.or (some 0x0A) }) ∧
          ∀ j : Nat, j ≠ k → admOf u j = admOf s j)))
     ∧ (∀ (k : Fin 1024) (passes : Bool) (s : State) (r : Resume) (c : Ckpt), resumeOf s k.val = some r → ckptNow s k.val = some c →
       r.tick < s.clk.tick → s.clk.tick < c.d2 →
       (let l := ledgerOf s k.val
        let a := blockAddr s k.val
        (r.step = .restored → ∃ u, exec (.homeBlockRewrite k passes) s = .next u ∧
          u = { s with mem := u.mem, raw := u.raw, pool := u.pool, free := u.free } ∧
          resumeOf u k.val = some { r with step := .rewritten, tick := s.clk.tick } ∧
          (∀ d : List Byte, r.got = [(0, d)] →
            (let n := (blockHeadOf (slice d 0 32)).len
             32 + 32 * n ≤ blockBytes s → d.length = 32 + 32 * n →
             blockHeadOf (memRead u a 32) = ⟨l.reqId, n, 0, l.epoch.toNat⟩ ∧ memRead u (a + 32) (32 * n) = d.drop 32 ∧
             ∀ j : Nat, j < a ∨ a + blockBytes s ≤ j → tget 0 u.mem j = tget 0 s.mem j)))
        ∧ (r.step = .rewritten →
          (let good := passes && !rehPoolHome s && !blockBad s k.val (blockBytes s)
           ∃ u, exec (.homeBlockRewrite k passes) s = .next u ∧ u.mem = s.mem ∧
            (good = true → u = { s with pool := u.pool } ∧ resumeOf u k.val = some { r with step := .swapBack } ∧
              ∃ w : Swap, u.pool.swaps = s.pool.swaps ++ [w] ∧ w.local_ = true ∧ w.slot = k ∧ w.body.newOwner = 1 ∧ w.body.expEpoch = l.epoch) ∧
            (good = false → resumeOf u k.val = none ∧
              ∀ x : Adm, admOf s k.val = some x → admOf u k.val = some { x with fault := x.fault.or (some 0x0A) }))))))

/-- Swaps, notices and the end of a copy (R405, R411, R412). CAS: a swap waits for the boundary, where it takes effect if it
expects the word that stands and the epoch that is, raising EPOCH, and is ABORTED otherwise; CAS_REPLY sends its reply.
NOTICE keeps the copy that a newer word names and frees a superseded one; END frees a request's blocks at once, and
POOL_STANDBY_TIMEOUT 131,072 ticks after the last frame of it. -/
def Obligations.LedgerSwaps : Prop :=
  (∀ (b : CasBody) (s : State), ∃ w : Swap, exec (.cas b) s = .next { s with pool := { s.pool with swaps := s.pool.swaps ++ [w] } } ∧
    w.local_ = false ∧ w.body = b ∧ w.slot.val = slotOfReq b.reqId)
  ∧ (∀ (w : Swap) (s : State), w.local_ = false →
    (let l := ledgerOf s w.slot.val
     let b := w.body
     b.machineEpoch = s.mach.epoch → l.valid = true → l.reqId = b.reqId →
     (l.epoch = b.expEpoch → l.owner = b.expOwner → l.epoch.toNat < 8191 →
       (let l1 : Ledger := { l with epoch := l.epoch + 1, owner := b.newOwner }
        ledgerOf (applySwap s w) w.slot.val = l1 ∧ (applySwap s w).pool.swapReplies = s.pool.swapReplies ++ [(w, 0x00, l1)]))
     ∧ ((l.epoch ≠ b.expEpoch ∨ l.owner ≠ b.expOwner) →
       applySwap s w = { s with pool := { s.pool with swapReplies := s.pool.swapReplies ++ [(w, 0x0F, l)] } })))
  ∧ (∀ (k : Fin 1024) (s : State) (w : Swap) (st : BitVec 8) (l : Ledger), s.pool.swapReplies.find? (fun r => r.1.slot == k) = some (w, st, l) →
    ∃ u, exec (.casReply k) s = .next u ∧ u = { s with pool := { s.pool with swapReplies := s.pool.swapReplies.erase (w, st, l) }, fab := u.fab } ∧
      ∀ p : Fin 6, isMember s w.body.src = true → routePort s w.body.src = some p →
        ∃ f : OutFrame, u.fab.out = s.fab.out ++ [f] ∧ FrameFor f p 6 w.body.src)
  ∧ (∀ (f : PoolFrame) (s : State),
    (let w := ledgerWordOf f.ledger
     ∃ u, exec (.notice f) s = .next u ∧ u = { s with pool := { s.pool with standbys := u.pool.standbys } } ∧
       (∀ b ∈ s.pool.standbys, b.reqId ≠ f.reqId → b ∈ u.pool.standbys) ∧
       (∀ b ∈ s.pool.standbys, b.reqId = f.reqId → (ledgerWordOf b.word).epoch ≤ w.epoch →
         (w.standby = s.aon.nodeId → (b.retained = false ∨ w.sblock.toNat = b.block) →
           { b with word := f.ledger, last := s.clk.tick } ∈ u.pool.standbys) ∧
         (w.standby ≠ s.aon.nodeId → w.epoch.toNat < b.epoch.toNat + 2 →
           { b with word := f.ledger, last := s.clk.tick, retained := true } ∈ u.pool.standbys)) ∧
       (∀ b : Standby, s.pool.standbys = [b] → b.reqId = f.reqId → (ledgerWordOf b.word).epoch ≤ w.epoch → w.standby ≠ s.aon.nodeId →
         b.epoch.toNat + 2 ≤ w.epoch.toNat → u.pool.standbys = [])))
  ∧ (∀ (f : PoolFrame) (s : State), exec (.poolEnd f) s =
      .next { s with pool := { s.pool with standbys := s.pool.standbys.filter (fun b => b.reqId != f.reqId) } })
  ∧ (∀ (id : BitVec 64) (s : State),
    ((∀ b ∈ s.pool.standbys, b.reqId = id → b.last + 131072 ≤ s.clk.tick) → exec (.poolStandbyTimeout id) s =
      .next { s with pool := { s.pool with standbys := s.pool.standbys.filter (fun b => b.reqId != id) } })
    ∧ ((∃ b ∈ s.pool.standbys, b.reqId = id ∧ s.clk.tick < b.last + 131072) → exec (.poolStandbyTimeout id) s = .next s))

/-- The queue registers (R429, R439, R440): SQ_TAIL moves forward from its value around the ring and no other way, CQ_HEAD no
further than CQ_TAIL; setting EN starts both rings afresh where no request of before is owed, clearing it stops consumption,
FAULT is cleared by writing 1 while EN is 0; each refused write is rejected with its status. A function level reset of a
function waits for the boundary, and one of the physical function resets the node. Registers of the physical function (R153,
R364, R423, R425, R432 to R439, R479): a submission slot that belongs to the host takes its 64 bytes and one that belongs to
the node rejects them; DBG_ROW waits for the boundary; FENCE bits close and open bypasses; a 1 in BEAN_OUT_i of a Bean that
is out asks for its readmission; ARM arms a rehearsal and announces it; enabling the event ring starts it afresh; EVT_HEAD
follows the reader; the doorbell posts a software source. -/
def Obligations.HostRegisters : Prop :=
  (∀ (fn : Fin 513) (v : BitVec 64) (s : State), pcieUp s = true →
     (let f := funcOf s fn.val
      let lg := v.toNat % 32
      let size := 2 ^ f.log2.toNat
      let legal := v.toNat / 32 % 2 ^ 56 = 0 ∧ 4 ≤ lg ∧ lg ≤ 16 ∧ (f.en = true → lg = f.log2.toNat)
      (∃ u, exec (.sqTailWrite fn v) s = .next u ∧
        (v.toNat < 512 → (f.sqTail - f.sqHead).toNat ≤ (BitVec.ofNat 9 v.toNat - f.sqHead).toNat →
          FuncBecomes s u fn.val { f with sqTail := BitVec.ofNat 9 v.toNat }) ∧
        ((512 ≤ v.toNat ∨ (BitVec.ofNat 9 v.toNat - f.sqHead).toNat < (f.sqTail - f.sqHead).toNat) →
          Rejected s u fn.val (queueOff fn.val 0x10) 0x02))
      ∧ (∃ u, exec (.cqHeadWrite fn v) s = .next u ∧
        (v.toNat < size → v.toNat < 65536 → f.cqHead.toNat < size →
          ((v.toNat + size - f.cqHead.toNat) % size ≤ (f.cqTail.toNat + size - f.cqHead.toNat) % size →
            FuncBecomes s u fn.val { f with cqHead := BitVec.ofNat 16 v.toNat })
          ∧ ((f.cqTail.toNat + size - f.cqHead.toNat) % size < (v.toNat + size - f.cqHead.toNat) % size →
            Rejected s u fn.val (queueOff fn.val 0x30) 0x02)))
      ∧ (v.getLsbD 63 = true → ∃ u, exec (.cqEnable fn v) s = .next u ∧
        (legal → f.en = false → f.open_ = 0 → FuncBecomes s u fn.val { f with
          en := true, log2 := BitVec.ofNat 5 lg, fault := f.fault && !v.getLsbD 61, sqHead := f.sqTail, sqSeen := f.sqTail, cqSeen := 0,
          cqHead := 0, cqTail := 0, phase := true }) ∧
        (legal → f.en = false → f.open_ ≠ 0 → Rejected s u fn.val (queueOff fn.val 0x28) 0x05) ∧
        (¬legal → Rejected s u fn.val (queueOff fn.val 0x28) 0x02))
      ∧ (v.getLsbD 63 = false → ∃ u, exec (.cqDisable fn v) s = .next u ∧
        (v.getLsbD 61 = false → f.en = true → legal → FuncBecomes s u fn.val { f with en := false }) ∧
        (v.getLsbD 61 = true → f.en = true → Rejected s u fn.val (queueOff fn.val 0x28) 0x02))
      ∧ (v.getLsbD 61 = true → ∃ u, exec (.cqFaultClear fn v) s = .next u ∧
        (v.getLsbD 63 = false → f.en = false → legal → FuncBecomes s u fn.val { f with fault := false, log2 := BitVec.ofNat 5 lg }) ∧
        (f.en = true → Rejected s u fn.val (queueOff fn.val 0x28) 0x02))
      ∧ (fn ≠ 0 → ∃ u, exec (.vfFlr fn) s = .next u ∧ FuncBecomes s u fn.val { f with flrAsked := true })
      ∧ (∀ d3 : Bool, ∃ u, exec (.functionPowerStateWrite fn d3) s = .next u ∧ FuncBecomes s u fn.val { f with d3 := d3 })
      ∧ (∃ u, exec .pfFlr s = .next u ∧ AfterReset s u .pfFlr)))
  ∧ ((∀ (fn : Fin 513) (i : Fin 512) (d : List Byte) (s : State), pcieUp s = true → fn ≠ 0 → d.length = 64 →
       (let f := funcOf s fn.val
        let held := (BitVec.ofNat 9 i.val - f.sqHead).toNat < (f.sqTail - f.sqHead).toNat
        ∃ u, exec (.registerWrite fn (BitVec.ofNat 26 (0x8000 + 64 * i.val)) d) s = .next u ∧
          (¬held → FuncBecomes s u fn.val { f with ring := (funcOf u fn.val).ring } ∧
            (tget 0 (funcOf u fn.val).ring i.val).toNat = leNat d ∧
            ∀ k : Nat, k ≠ i.val → tget 0 (funcOf u fn.val).ring k = tget 0 f.ring k) ∧
          (held → Rejected s u fn.val (0x8000 + 64 * i.val) 0x04)))
     ∧ (∀ (fn : Fin 513) (off : BitVec 26) (d : List Byte) (s : State), pcieUp s = true → d ≠ [] →
       ∃ u, exec (.registerWrite fn off d) s = .next u ∧
         (fn ≠ 0 → 0x10000 ≤ off.toNat → Rejected s u fn.val off.toNat 0x02) ∧
         (fn = 0 → 0x2000000 ≤ off.toNat → Rejected s u 0 off.toNat 0x04))
     ∧ (∀ (v : BitVec 64) (s : State), pcieUp s = true →
       ∃ u, exec (.dbgRowWrite v) s = .next u ∧
         (v.toNat + 32768 ≤ 402653184 → u = { s with host := { s.host with dbgNext := some (BitVec.ofNat 29 v.toNat) } }) ∧
         (402653184 < v.toNat + 32768 → Rejected s u 0 0x1010 0x02))
     ∧ (∀ (v : BitVec 32) (close : Bool) (s : State), pcieUp s = true → v.toNat % 8 ≠ (if close then 0 else 7) →
       ∃ u, exec (if close then .fenceClose v else .fenceOpenRequest v) s = .next u ∧
         (v.toNat < 8 → (∀ p : Fin 3, v.getLsbD p.val = false → pairAbsent s p = false) →
         u = { s with fab := { s.fab with fence := u.fab.fence, byp := u.fab.byp, bypAsked := u.fab.bypAsked } } ∧ u.fab.fence.toNat = v.toNat ∧
         (∀ p : Fin 3, v.getLsbD p.val = true → s.fab.byp[p] = .open_ → u.fab.byp[p] = .closing) ∧
         (∀ p : Fin 3, v.getLsbD p.val = false → s.fab.byp[p] = .closed → portTrained s.fab.ports[portPlus p] = true →
           portTrained s.fab.ports[portMinus p] = true → u.fab.byp[p] = .opening)) ∧
         ((∃ p : Fin 3, v.getLsbD p.val = false ∧ pairAbsent s p = true) → Rejected s u 0 (regOffset .fabFence) 0x02))
     ∧ (∀ (i : Fin 192) (v : BitVec 32) (s : State), pcieUp s = true →
       ∃ u, exec (.beanReadmit i v) s = .next u ∧ u = { s with stk := { s.stk with readmit := u.stk.readmit } } ∧
         ∀ b : Nat, b < 6144 → u.stk.readmit.getLsbD b =
           (s.stk.readmit.getLsbD b || (b / 32 == i.val && v.getLsbD (b % 32) && s.stk.beanOut.getLsbD b)))
     ∧ (∀ (v : BitVec 64) (s : State), pcieUp s = true → v.getLsbD 1 = true →
       (let kind := v.toNat / 2 ^ 28 % 16
        let last := if kind = 1 then 2 ^ 64 - 1 else s.mach.rehStart.toNat + v.toNat / 2 ^ 32 - 1
        ∃ u, exec (.rehearsalArm v) s = .next u ∧
        (v.toNat / 4 % 2 ^ 11 = 0 → s.mach.rehArmed = false → s.clk.tick + 2048 ≤ s.mach.rehStart.toNat → 0 < v.toNat / 2 ^ 32 →
         rehTargetStatus s kind (v.toNat / 2 ^ 13 % 2 ^ 15) = 0x00 → u = { s with mach := u.mach, io := u.io } ∧ u.mach.rehArmed = true ∧
         u.mach.rehLen.toNat = v.toNat / 2 ^ 32 ∧ u.mach.rehKind.toNat = kind ∧ u.mach.rehTarget.toNat = v.toNat / 2 ^ 13 % 2 ^ 15 ∧
         u.mach.rehStart = s.mach.rehStart ∧
         (s.mach.role = .steward → u.io = s.io ∧ (s.mach.rehStart.toNat, last, s.aon.nodeId) ∈ u.mach.windows) ∧
         (s.mach.role ≠ .steward →
           u.io = { s.io with msgs := s.io.msgs ++ [(s.mach.steward, msgRehearsal, leBytes 8 s.mach.rehStart.toNat ++ leBytes 8 last)] })) ∧
        ((s.mach.rehArmed = true ∨ s.mach.rehStart.toNat < s.clk.tick + 2048) → Rejected s u 0 (regOffset .rehCtl) 0x02)))
     ∧ (∀ (v : BitVec 64) (s : State), pcieUp s = true →
       ((∃ u, exec (.evtRingEnable v) s = .next u ∧
           (v.getLsbD 63 = true → v.toNat / 16 % 2 ^ 59 = 0 → 4 ≤ v.toNat % 16 → s.evt.en = false →
             u = { s with evt := { s.evt with en := true, log2 := BitVec.ofNat 4 v.toNat, tail := 0, phase := true } }) ∧
           (v.toNat % 16 < 4 → Rejected s u 0 (regOffset .evtRingCtl) 0x02))
        ∧ (let n := 2 ^ s.evt.log2.toNat
           ∃ u, exec (.evtHeadWrite v) s = .next u ∧
           (s.evt.head.toNat < n → v.toNat < n → (v.toNat + n - s.evt.head.toNat) % n ≤ (s.evt.tail.toNat + n - s.evt.head.toNat) % n →
             u = { s with evt := { s.evt with head := BitVec.ofNat 16 v.toNat } }) ∧
           (n ≤ v.toNat → Rejected s u 0 (regOffset .evtHead) 0x02))
        ∧ (∃ u, exec (.evtDoorbell v) s = .next u ∧
           (v.toNat / 512 % 128 = 0 → 448 ≤ v.toNat % 512 →
             u = { s with evt := u.evt, cnt := u.cnt } ∧ Asserted s u (Fin.ofNat 512 (v.toNat % 512)) (BitVec.ofNat 192 (v.toNat / 65536))) ∧
           (v.toNat / 512 % 128 = 0 → v.toNat % 512 < 448 → Rejected s u 0 (regOffset .evtDoorbell) 0x04)))))

/-- Reads that act, and errors of host memory (R11, R14, R431, R435, R437): a counter and WRITE_STATUS read and clear; a read of
the debug window is an ordinary access to the rows at DBG_ROW; an access that its one retry mends is counted; otherwise a
plan's read ends its element UNREADABLE and its request with MEDIA_ERROR, a mailbox read ends its command, and a write
faults its function. -/
def Obligations.HostReads : Prop :=
  ∀ s : State, pcieUp s = true →
    (∀ c : Counter, ∃ u, exec (.counterRead c) s = .next u ∧ u = { s with io := u.io, cnt := u.cnt } ∧
      u.io = { s.io with readData := BitVec.ofNat 512 (counterOf s c).toNat, readAbort := false } ∧ counterOf u c = 0 ∧
      ∀ k : Counter, k ≠ c → counterOf u k = counterOf s k)
    ∧ (∀ fn : Fin 513, ∃ u, exec (.writeStatusRead fn) s = .next u ∧ u = { s with io := u.io, funcs := u.funcs } ∧
      funcOf u fn.val = { funcOf s fn.val with ws := ⟨false, false, 0, 0⟩ } ∧ (∀ k : Nat, k ≠ fn.val → funcOf u k = funcOf s k) ∧
      (let w := (funcOf s fn.val).ws
       u.io = { s.io with readData := u.io.readData, readAbort := false } ∧ u.io.readData.getLsbD 63 = w.valid ∧ u.io.readData.getLsbD 62 = w.more ∧
       u.io.readData.extractLsb' 32 8 = w.status ∧ u.io.readData.extractLsb' 0 32 = w.offset))
    ∧ (∀ (off : BitVec 25) (len : Fin 65), 0 < len.val → off.toNat + len.val ≤ 33554432 →
      exec (.debugWindowRead off len []) s =
        .next (ordinaryAccess s ⟨.debug, false, s.host.dbgRow.toNat * 1024 + off.toNat, len.val, [], []⟩))
    ∧ (∀ a : HostAccess, ∃ u, exec (.hostAccessError a true) s = .next u ∧ u = { s with cnt := u.cnt } ∧ Counts s u (only .hostRetry 1))
    ∧ (∀ id : Nat, ∃ u, exec (.hostAccessError (.planRead id) false) s = .next u ∧
      ∀ (e : Elem) (dst n off : Nat), elemOf s id = some e → e.kind = .loadHost dst n off →
        u = { s with tiles := u.tiles, elems := u.elems, host := u.host } ∧ u.elems = s.elems.filter (fun x => x.id != e.id) ∧
        (let x := tileOf s e.tile.val
         let o := x.wait[e.wait]
         let o1 := if o.dl < s.clk.tick then { o with late := o.late + 1 } else { o with unreadable := o.unreadable + 1 }
         TileIs s u e.tile { x with wait := x.wait.set e.wait o1 }) ∧
        (∀ (k : Fin 1024) (q : Adm), e.slot = some k → admOf s k.val = some q → q.fault = none → admOf u k.val = some { q with fault := some 0x0C }))
    ∧ (∀ fn : Fin 513, ∃ u, exec (.hostAccessError (.write fn) false) s = .next u ∧ u = { s with funcs := u.funcs, evt := u.evt, cnt := u.cnt } ∧
      funcOf u fn.val = { funcOf s fn.val with fault := true } ∧ (∀ k : Nat, k ≠ fn.val → funcOf u k = funcOf s k) ∧
      (∃ x, Asserted s u (Fin.ofNat 512 evHostFault) x) ∧ (counterOf u .hostFault).toNat = min ((counterOf s .hostFault).toNat + 1) 4294967295)
    ∧ (let m : Mbx := { s.host.mbx with busy := false, held := false, status := 0x0C, reply := List.replicate 4 0 }
       exec (.hostAccessError .mailboxRead false) s = .next (if s.host.mbx.busy then { s with host := { s.host with mbx := m } } else s))
    ∧ regValue s .mbxGo 0 = 0 ∧ regValue s .evtDoorbell 0 = 0 ∧ regValue s .rehCtl 0 / 2 % 4096 = 0 ∧ regValue s .poolCtl 0 % 8 = 0
    ∧ regValue s .stageCtl 0 % 64 = 0 ∧ ∀ i : Nat, regValue s .portCtl i % 65536 = 0

/-- Mailbox commands of contexts (R448 to R450, R455 to R460, R533): an unknown opcode is refused, before READY every command
but those of 0x20 to 0x26 is FENCED, an unknown context is refused; each command with legal fields and data has its effect
on its context, which a load shows from the next boundary on, and DONE. Mailbox commands of shards, memory and tokenisers
(R35 to R41, R170, R339, R458 to R460): entries of the shard map, shard copies and partition descriptors that are legal wait
for the boundary; a memory write is a tile write of this tick and a memory read puts the bytes that memory holds at ADDR in
host memory; a lost shard's reload reaches the steward; a tokeniser image that keeps its rules switches at the next
boundary. -/
def Obligations.MailboxContexts : Prop :=
  ((∀ s : State, s.host.mbx.busy = true → mbxKnown (mbxCmd s).op = false → exec .mbxBadOpcode s = .next (answered s 0x01 zero4))
   ∧ (∀ (s : State) (c : CtxId) (a : Nat), Asked s 0x02 c 0 0 a 0 →
     (atReady s = false → exec .ctxDestroy s = .next (answered s 0x0D zero4)) ∧
     (atReady s = true → a ≠ 0 → exec .ctxDestroy s = .next (answered s 0x02 zero4)) ∧
     (atReady s = true → a = 0 → ctxKnown s c = false → exec .ctxDestroy s = .next (answered s 0x03 zero4)) ∧
     (atReady s = true → a = 0 → ctxKnown s c = true → ∃ u, exec .ctxDestroy s = .next u ∧
       CtxDone s u c { ctxOf s c.toNat with destroyNow := true }))
   ∧ (∀ (s : State) (c : CtxId) (a : Nat) (b : List Byte), Asked s 0x01 c 0 0 a 48 → a % 32 = 0 → atReady s = true →
     ∃ u, exec (.ctxCreate (some b)) s = .next u ∧
       (ctxFree s c = false → u = answered s 0x03 zero4) ∧
       (ctxFree s c = true → ctxWordOk (leAt b 0 32) c = true → admWordOk (leAt b 32 16) c = true → u.mem = s.mem ∧ u.tiles = s.tiles ∧ u.host.mbx.busy = false ∧ u.host.mbx.status = 0x00 ∧
       (∀ k : Nat, k ≠ c.toNat → ctxOf u k = ctxOf s k) ∧
       (let x := ctxOf u c.toNat
        let n := leAt b 0 32
        let w := leAt b 32 16
        x.live = true ∧ x.ns = n / 2 ^ 235 ∧ x.metric = n / 2 ^ 232 % 8 ∧ x.dim = n / 2 ^ 219 % 2 ^ 13 ∧ x.fvFormat = n / 2 ^ 217 % 4 ∧
        x.fvUnits = n / 2 ^ 209 % 256 ∧ x.graph = n / 2 ^ 206 % 4 ∧ x.spillRatio.toNat = n / 2 ^ 190 % 2 ^ 16 ∧
        x.adm = ⟨w / 2 ^ 118 % 1024, w / 2 ^ 102 % 2 ^ 16, w / 2 ^ 86 % 2 ^ 16, w / 2 ^ 62 % 2 ^ 24, w / 2 ^ 46 % 2 ^ 16⟩ ∧
        x.credit = 0 ∧ x.meter = Meter.reset ∧ x.tier = Tier.reset)))
   ∧ (∀ (s : State) (c : CtxId) (a : Nat) (b : List Byte), a % 32 = 0 → atReady s = true → ctxKnown s c = true →
     (let x := ctxOf s c.toNat
      (Asked s 0x03 c 0 0 a 16 → ∃ u, exec (.ctxAdmit (some b)) s = .next u ∧
         (admWordOk (leAt b 0 16) c = true → CtxDone s u c { x with admNext := some (admWordOf (leAt b 0 16), s.clk.tick) }))
      ∧ (Asked s 0x09 c 0 0 a 32 → ∃ u, exec (.calLoad (some b)) s = .next u ∧
         (calOk (leAt b 0 32) = true → CtxDone s u c { settleCal s x with calNext := some (calOf (leAt b 0 32), s.clk.tick) }))
      ∧ (Asked s 0x0A c 0 0 a 128 → ∃ u, exec (.segWrite (some b)) s = .next u ∧
         ((∀ i : Nat, i < 16 → segOk (leAt b (8 * i) 8) = true) → CtxDone s u c { x with segsNext := some ((List.range 16).map (fun i => BitVec.ofNat 64 (leAt b (8 * i) 8))) }))
      ∧ (Asked s 0x0B c 0 0 a 16 → ∃ u, exec (.tierLoad (some b)) s = .next u ∧
         (tierOk (mbxView s) c (leAt b 0 16) = true → tierBusy x = false → CtxDone s u c { x with tierNext := some (tierOf (leAt b 0 16)) }))
      ∧ (Asked s 0x0C c 0 0 a 16 → ∃ u, exec (.fabLoad (some b)) s = .next u ∧
         (meterOk (leAt b 0 16) = true → CtxDone s u c { x with meterNext := some (meterOf (leAt b 0 16)) }))))
   ∧ (∀ (s : State) (fn : Fin 513) (a : Nat) (b : List Byte), Asked s 0x0D 0 fn.val 0 a 16 → a % 32 = 0 → atReady s = true →
     ∃ u, exec (.vfPolice (some b)) s = .next u ∧ (meterOk (leAt b 0 16) = true → (meterOf (leAt b 0 16)).rrMax = 0 → u = answered { s with funcs := u.funcs } 0x00 zero4 ∧
       funcOf u fn.val = { funcOf s fn.val with meterNext := some (meterOf (leAt b 0 16)) } ∧ ∀ k : Nat, k ≠ fn.val → funcOf u k = funcOf s k))
   ∧ (∀ (s : State) (c : CtxId) (w : AdmWord) (t : Nat), (ctxOf s c.toNat).admNext = some (w, t) →
     ∃ u, exec (.admissionWordEffect c) s = .next u ∧ (s.clk.tick ≤ t → u = s) ∧ (t < s.clk.tick → s.clk.did.consumed = false → ctxOf u c.toNat = { ctxOf s c.toNat with adm := w, admNext := none } ∧ u.mem = s.mem ∧
       ((∀ r ∈ s.host.queued, r.ctx = c → r.fn.val = w.owner ∨ r.fn.val = 0) → u = { s with ctxs := u.ctxs }) ∧
       (∀ r : Req, s.host.queued = [r] → r.ctx = c → r.fn.val ≠ w.owner → r.fn.val ≠ 0 → u.host.queued = [] ∧
         u.host.due = s.host.due ++ [⟨r.fn, 0, none, r.sq, recordNat r 0 false (Result.of 0x04)⟩])))
   ∧ (∀ (s : State) (c : CtxId) (w : Cal) (t : Nat), (ctxOf s c.toNat).calNext = some (w, t) → t < s.clk.tick →
     ∃ u, exec (.calLoadEffect c) s = .next u ∧ u = { s with ctxs := u.ctxs } ∧ (∀ k : Nat, k ≠ c.toNat → ctxOf u k = ctxOf s k) ∧
       (ctxOf u c.toNat).calNext = none ∧ (ctxOf u c.toNat).audit.loadTick = some (t + 1) ∧
       ((classRose s = false ∨ nodeClass s ≤ w.calClass ∨ w.state = .off) → (ctxOf u c.toNat).cal = w)))
  ∧ ((∀ (s : State) (c : CtxId) (a : Nat) (b : List Byte), a % 32 = 0 → atReady s = true → ctxKnown s c = true →
       (∀ first n : Nat, Asked s 0x04 c first 0 a (4 * n) → 1 ≤ n → n ≤ 16384 → first < 2 ^ 20 →
         ∃ u, exec (.shardMap (some b)) s = .next u ∧ (first + n ≤ (ctxOf s c.toNat).ns →
         (∀ i : Nat, i < n → mapEntryOk (mbxView s) c (first + i) (leAt b (4 * i) 4) = true) →
         ∃ l : List (NodeId × NodeId), l.length = n ∧
           (∀ i : Nat, i < n → ((l.getD i (0, 0)).1.toNat = leAt b (4 * i) 4 / 2 ^ 15 % 2 ^ 15 ∧ (l.getD i (0, 0)).2.toNat = leAt b (4 * i) 4 % 2 ^ 15)) ∧
           u = answered { s with mbxDue := s.mbxDue ++ [.shardMap c first l] } 0x00 zero4))
       ∧ (Asked s 0x05 c 0 0 a 32 →
         (let v := mbxView s
          let x := shardCopyOf (leAt b 0 32)
          ∃ u, exec (.shardCopy (some b)) s = .next u ∧
          (copyFieldsOk v (leAt b 0 32) c = true → copyPlaced v x = true → partSum v x ≤ 1048576 → copyBusy v x = false →
           u = answered { s with mbxDue := s.mbxDue ++ [.shardCopy x] } 0x00 zero4)))
       ∧ (∀ sh first : Nat, Asked s 0x06 c sh first a 32 → sh < 2 ^ 20 → first < 2 ^ 20 →
         (let v := mbxView s
          ∃ u, exec (.partWrite (some b)) s = .next u ∧ ∀ w : State, partStep c (BitVec.ofNat 20 sh) (some v) (first, leAt b 0 32) = some w →
          ((ctxOf v c.toNat).codeFormat ≠ none ∨ centroidsPlaced w c = true) →
          u = answered { s with mbxDue := s.mbxDue ++ [.parts c (BitVec.ofNat 20 sh) first [leAt b 0 32]] } 0x00 zero4))
       ∧ (∀ sh : Nat, Asked s 0x11 c sh 0 0 0 → sh < 2 ^ 20 → ∃ u, exec .shardReload s = .next u ∧
         (sh < (ctxOf s c.toNat).ns → (shardEnt (mbxView s) c.toNat sh).state ≠ .lost → u = answered s 0x02 zero4) ∧
         (sh < (ctxOf s c.toNat).ns → (shardEnt (mbxView s) c.toNat sh).state = .lost → shardEnt u c.toNat sh = { shardEnt s c.toNat sh with reload := true } ∧
           (s.mach.role = .steward → u = answered { s with shards := u.shards } 0x00 zero4) ∧
           (s.mach.role ≠ .steward → u = answered { s with shards := u.shards, io := { s.io with
             msgs := s.io.msgs ++ [(s.mach.steward, msgReload, leBytes 4 c.toNat ++ leBytes 4 sh)] } } 0x00 zero4))))
     ∧ (∀ (s : State) (at_ a n : Nat) (b : List Byte), atReady s = true → at_ % 32 = 0 → a % 32 = 0 → 32 ≤ n → n ≤ 67108864 →
       at_ + n ≤ 412316860416 →
       (Asked s 0x07 0 at_ 0 a n → n % 32 = 0 → ∃ u, exec (.memWrite (some b) []) s = .next u ∧
         (scaleInUse (mbxView s) (at_, n) = true → u = answered s 0x02 zero4) ∧
         (scaleInUse (mbxView s) (at_, n) = false → at_ % 64 = 0 → n % 64 = 0 →
           u = answered { s with memWrites := s.memWrites ++ [⟨0, s.nextElem, at_, slice b 0 n⟩], nextElem := s.nextElem + 1 } 0x00 zero4))
       ∧ (Asked s 0x08 0 at_ 0 a n → ∃ u, exec (.memRead []) s = .next u ∧
         (memReadWaits s = true → s.host.mbx.held = true → u = s) ∧
         (memReadWaits s = false → oddIn s [] at_ n = [] → rangeDead s at_ n = false →
           u = answered { s with io := { s.io with hostWrites := s.io.hostWrites ++ [(a, memRead s at_ n)] } } 0x00 zero4)))
     ∧ (∀ (s : State) (k : Fin 2) (a : Nat) (b : List Byte), Asked s 0x10 0 k.val 0 a b.length → a % 32 = 0 → atReady s = true →
       b.length % 32 = 0 → 96 ≤ b.length →
       (let img := b.take (b.length - 64)
        let x := s.txt.slots[k]
        ∃ u, exec (.tokLoad (some b)) s = .next u ∧
          (s.aon.textUnit = false → u = answered s 0x0E zero4) ∧
          (s.aon.textUnit = true → sha512 img = b.drop (b.length - 64) → b.length ≤ 3145728 → tokImageOk img = true → heldBusy s x = false → u = answered { s with txt := { s.txt with slots := u.txt.slots } } 0x00 zero4 ∧
          (∀ j : Fin 2, j ≠ k → u.txt.slots[j] = s.txt.slots[j]) ∧
          (let y := u.txt.slots[k]
           y = { x with standby := img, standbyState := .ready, standbyDigest := y.standbyDigest, switchDue := some s.clk.tick } ∧
           y.standbyDigest.toNat = leNat (b.drop (b.length - 64)) % 2 ^ 512)))))

/-- Plans (R259, R265 to R268): a load starts verification and discards a verified plan that waits; the verdict is the image's;
ACTIVATE of a verified plan puts its slot tables into the standby buffer; from A - DRAIN on nothing is admitted; at A the
program is placed and every register of its tiles is cleared; from A + W_LOAD the plan is the active one, and an activation
that failed drops the node. Start-up and trust commands (R493, R496, R500, R504 to R509): ATTEST answers the report of the
nonce it was given with the device's signature over it; CERT_READ the certificate and its length; an accepted firmware
record replaces that of the slot that does not run; FW_SELECT names the slot tried first and may reset the node; TRAIN_SAVE
starts the write of the training records and TRAIN_CLEAR removes them; the software sources of events are configured; a
machine is joined in its steps and left at a boundary. -/
def Obligations.PlansAndStartUp : Prop :=
  ((∀ (s : State) (a n : Nat) (b : List Byte), Asked s 0x0E 0 0 0 a n → a % 32 = 0 → n % 32 = 0 → 96 ≤ n → atReady s = true →
     (s.plan.act = none → s.plan.nextState ≠ .verifying → ∃ u, exec (.planLoad (some b)) s = .next u ∧ u.plan = { s.plan with loading := b, next := none, nextState := .verifying, nextStatus := 0x00 } ∧ u.host.mbx.busy = false ∧ u.host.mbx.status = 0x00 ∧
         u.mem = s.mem ∧ u.tiles = s.tiles ∧ ∃ x, Asserted s u 2 x)
     ∧ ((s.plan.act ≠ none ∨ s.plan.nextState = .verifying) → exec (.planLoad (some b)) s = .next (answered s 0x05 zero4)))
   ∧ (∀ s : State, s.plan.nextState = .verifying →
     ∃ u, exec .planVerifyDone s = .next u ∧ u = { s with plan := u.plan, evt := u.evt, cnt := u.cnt } ∧ (∃ x, Asserted s u 2 x) ∧
       (match verifyImage s s.plan.loading with
        | .ok p => u.plan = { s.plan with loading := [], next := some p, nextDigest := imageDigest s.plan.loading, nextState := .verified, nextStatus := 0x00 }
        | .bad st f => u.plan = { s.plan with loading := [], failOffset := BitVec.ofNat 32 f.1, failTile := BitVec.ofNat 8 f.2, nextState := .failed, nextStatus := st }))
   ∧ (∀ (s : State) (a w : Nat) (p : Plan), Asked s 0x0F 0 a w 0 0 → a < 2 ^ 64 → w < 2 ^ 20 → atReady s = true → s.plan.act = none →
     s.plan.nextState = .verified → s.plan.next = some p →
     ∃ u, exec .planActivate s = .next u ∧ (64 ≤ w → a % 16384 = 0 → s.clk.tick + 2 * w ≤ a →
       (∀ (i : Fin 6) (x : PortTab), p.ports[i.val]? = some x → x.used = true → s.fab.ports[i].meas.toNat ≤ x.hop) → p.ports.length ≤ 6 → u.host.mbx.busy = false ∧ u.host.mbx.status = 0x00 ∧ u.mem = s.mem ∧
       u.plan = { s.plan with act := some ⟨a, w, false, none⟩, standby := p.ports, nextState := .activating }) ∧
       ((w < 64 ∨ a % 16384 ≠ 0 ∨ a < s.clk.tick + 2 * w) → u = answered s 0x02 zero4))
   ∧ (∀ (s : State) (a : Activation), s.plan.act = some a →
     (a.a ≤ s.clk.tick + drainTicks s → exec .activationDrainStart s = .next { s with plan := { s.plan with draining := true } })
     ∧ (s.clk.tick + drainTicks s < a.a → exec .activationDrainStart s = .next s))
   ∧ (∀ (s : State) (a : Activation) (p : Plan) (b : List Byte), s.plan.act = some a → s.plan.next = some p →
     (∃ u, exec (.planPlacement (some b) true) s = .next u ∧ (s.clk.tick < a.a → u = s) ∧
       (a.a ≤ s.clk.tick → s.clk.tick < a.a + a.wload → a.placed = false → a.failed = none →
        BitVec.ofNat 512 (leNat (sha512 (imageParts b).1)) = s.plan.nextDigest → imageDigest b = s.plan.nextDigest →
         u = { s with plan := u.plan, host := u.host, tiles := u.tiles } ∧
         u.plan = { s.plan with active := some p, activeDigest := s.plan.nextDigest, activeId := p.planId, draining := false, start := a.a + a.wload, act := some { a with placed := true } } ∧
         (∀ (i : Nat) (x : TileSec), p.tiles[i]? = some x →
           (let y := tileOf s i
            let z := tileOf u i
            let d := slice (x.bundles.flatMap (fun r => r.flatMap (fun w => leBytes 8 w.toNat))) 0 x.progLimit
            z = { Tile.reset with store := z.store, absmax := y.absmax, scrub := y.scrub, bad := keptBad y.bad 0 d.length, spares := y.spares } ∧
            Stored z.store y.store 0 d.length (fun k => d.getD k 0))) ∧
         ∀ i : Nat, p.tiles.length ≤ i → tileOf u i = tileOf s i))
     ∧ (∃ u, exec (.planPlacement none true) s = .next u ∧ (a.a ≤ s.clk.tick → a.placed = false → a.failed = none →
         u = { s with plan := { s.plan with act := some { a with failed := some 0x0D } } })))
   ∧ (∀ (s : State) (a : Activation), s.plan.act = some a → a.a + a.wload ≤ s.clk.tick →
     (a.placed = true → s.plan.ready = true → ∃ u, exec .placementComplete s = .next u ∧ u = { s with plan := u.plan, evt := u.evt, cnt := u.cnt } ∧
       u.plan = { s.plan with act := none, next := none, nextState := .empty, nextStatus := 0x00 })
     ∧ (a.placed = true → s.plan.ready = false → ∃ u, exec .placementComplete s = .next u ∧ u.plan.ready = true ∧ u.plan.act = none)
     ∧ (a.placed = false → s.mach.dropped = none → ∃ u, exec .placementComplete s = .next u ∧ u.plan.active = none ∧ u.plan.act = none ∧
       u.plan.nextState = .failed ∧ u.plan.nextStatus = a.failed.getD 0x0D ∧ u.mach.dropped = some .activation ∧ u.fab.fence = 7)))
  ∧ ((∀ (s : State) (a : Nat) (b : List Byte) (seed : BitVec 256), Asked s 0x20 0 0 0 a 544 → a % 32 = 0 → s.aon.seed = some seed →
       ∃ m : List Byte, m.length = 480 ∧ m.head? = some 0xA1 ∧ slice m 32 32 = slice b 32 32 ∧ leAt m 16 16 = s.aon.deviceId.toNat ∧
         leAt m 8 8 = s.clk.tick % 2 ^ 64 ∧
         exec (.attest (some b)) s = .next (answered { s with io := { s.io with hostWrites := s.io.hostWrites ++ [(a, m ++ edSign (secretOf seed) m)] } } 0x00 zero4))
     ∧ (∀ (s : State) (a : Nat), Asked s 0x21 0 0 0 a 4096 → a % 32 = 0 → exec .certRead s = .next (answered { s with io := { s.io with hostWrites := s.io.hostWrites ++ [(a, s.aon.cert.take 4096)] } } 0x00 [BitVec.ofNat 64 s.aon.cert.length, 0, 0, 0]))
     ∧ (∀ (s : State) (a : Nat) (b : List Byte), Asked s 0x22 0 0 0 a b.length → a % 32 = 0 → 128 < b.length → b.length ≤ 16777344 →
       s.aon.fwStageState ≠ .writing →
       ((128 + (bootHeadOf b).length = b.length ∧ recAccepted s.aon.deviceId 6 b = true) → ∃ u, exec (.fwStage (some b)) s = .next u ∧
         u = answered { s with aon := { s.aon with fwStageState := .writing, fwStaged := b, flash := u.aon.flash } } 0x00 zero4 ∧
         u.aon.flash = s.aon.flash.filter (fun r => !(r.type.toNat == 6 && r.slot.toNat == (if s.aon.fwSlot then 0 else 1))))
       ∧ (recAccepted s.aon.deviceId 6 b = false → exec (.fwStage (some b)) s = .next (answered s 0x10 zero4)))
     ∧ (∀ s : State, NodeRuns s → s.aon.fwStageState = .writing →
       (∃ u, exec (.fwStageWriteDone true) s = .next u ∧ AonBecomes s u { s.aon with fwStageState := .written, fwStaged := [], flash := u.aon.flash } ∧
         (∃ r ∈ u.aon.flash, r.type.toNat = 6 ∧ r.slot.toNat = (if s.aon.fwSlot then 0 else 1) ∧ r.bytes = s.aon.fwStaged))
       ∧ exec (.fwStageWriteDone false) s = .next { s with aon := { s.aon with fwStageState := .failed, fwStaged := [] } })
     ∧ (∀ (s : State) (a0 : Nat), Asked s 0x23 0 a0 0 0 0 → a0 < 4 → ∃ u, exec .fwSelect s = .next u ∧ u.aon.fwFirst = decide (a0 % 2 = 1) ∧
         (a0 < 2 → u = answered { s with aon := { s.aon with fwFirst := decide (a0 % 2 = 1) } } 0x00 zero4) ∧
         (2 ≤ a0 → u.aon.inReset = true ∧ u.aon.cause = .firmware ∧ u.mem = [] ∧ u.tiles = []))
     ∧ (∀ s : State, Asked s 0x24 0 0 0 0 0 →
       (s.aon.trainWriting = false → exec .trainSave s = .next (answered { s with aon := { s.aon with trainWriting := true } } 0x00 zero4))
       ∧ (s.aon.trainWriting = true → exec .trainSave s = .next (answered s 0x05 zero4)))
     ∧ (∀ s : State, Asked s 0x25 0 0 0 0 0 → exec .trainClear s = .next (answered { s with aon := { s.aon with flash := s.aon.flash.filter (fun r => r.type.toNat != 7) } } 0x00 zero4))
     ∧ (∀ (s : State) (a : Nat) (b : List Byte), Asked s 0x26 0 0 0 a 64 → a % 32 = 0 → b.length = 64 →
       ((∀ i : Nat, i < 64 → (b.getD i 0).toNat / 16 % 4 = 0) → ∃ u, exec (.evtSwConfig (some b)) s = .next u ∧
         u = answered { s with evt := { s.evt with src := u.evt.src } } 0x00 zero4 ∧ (∀ i : Fin 64, srcOf u (Fin.ofNat 512 (448 + i.val)) = b.getD i.val 0) ∧
         ∀ n : Fin 512, n.val < 448 → srcOf u n = srcOf s n)
       ∧ ((∃ i : Nat, i < 64 ∧ (b.getD i 0).toNat / 16 % 4 ≠ 0) → exec (.evtSwConfig (some b)) s = .next (answered s 0x02 zero4)))
     ∧ (∀ (s : State) (j : Nat) (part : BitVec 6) (pairs : BitVec 3) (m : Marker), Asked s 0x27 0 j (part.toNat + 64 * pairs.toNat) 0 0 →
       j < 2 ^ 64 → atReady s = true → s.mach.join = none → j % 16384 = 0 → m.tick.toNat + 8192 ≤ j → pairs ≠ 0 →
       (∀ p : Fin 3, pairs.getLsbD p.val = true → pairAbsent s p = false) → (s.aon.zPorts = true ∨ Config.nz = 1) →
       ((m.partition = part ∧ s.plan.ready = false) → ∃ u, exec (.machineJoin (some m)) s = .next u ∧ u.host.mbx.busy = false ∧ u.host.mbx.status = 0x00 ∧
         u.clk.tick = m.tick.toNat ∧ u.aon.joinState = .waiting ∧ u.mach.partition = part ∧ u.mach.role = .none_ ∧ u.mach.steward = m.ref ∧
         u.mach.join = some ⟨j, part, pairs, false⟩ ∧ u.mem = s.mem)
       ∧ ((m.partition ≠ part ∨ s.plan.ready = true) → exec (.machineJoin (some m)) s = .next (answered s 0x0D zero4))
       ∧ exec (.machineJoin none) s = .next (answered s 0x0E zero4))
     ∧ (∀ (s : State) (j : Join), s.mach.join = some j →
       (s.aon.joinState = .waiting → j.j ≤ s.clk.tick + 4096 → ∃ u, exec .joinFenceOpen s = .next u ∧ u.aon.joinState = .opening ∧
         u = { s with aon := { s.aon with joinState := .opening }, fab := u.fab } ∧
         ∀ p : Fin 3, j.pairs.getLsbD p.val = true → u.fab.fence.getLsbD p.val = false ∧ (s.fab.byp[p] = .closed →
           portTrained s.fab.ports[portPlus p] = true → portTrained s.fab.ports[portMinus p] = true → u.fab.byp[p] = .opening))
       ∧ (j.j ≤ s.clk.tick + 1 → ∃ u, exec .joinMembershipCheck s = .next u ∧ u.mach.join = none ∧ u.mem = s.mem ∧
         (joinHolds s j = true → u = { s with aon := u.aon, mach := u.mach } ∧ u.aon = { s.aon with joinState := .member } ∧ u.mach.role = .member ∧
           u.mach.nextEpoch = j.j ∧ u.mach.dropped = none ∧ s.aon.nodeId ∈ u.mach.nextMembers) ∧
         (joinHolds s j = false → u.aon = { s.aon with joinState := .failed } ∧ u.fab.fence = 7 ∧ u.plan.act = none)))
     ∧ (∀ (s : State) (b : Nat) (n : NodeId), Asked s 0x28 0 b n.toNat 0 0 → b < 2 ^ 64 → atReady s = true → s.mach.role = .steward → b % 16384 = 0 →
       s.clk.tick + 4096 ≤ b → ∃ u, exec .memberAdd s = .next u ∧ u = answered { s with mach := u.mach } 0x00 zero4 ∧ (b, n) ∈ u.mach.adds ∧
         (s.mach.nextEpoch = b → n ∈ u.mach.nextMembers))
     ∧ (∀ s : State, Asked s 0x29 0 0 0 0 0 → atReady s = true →
       exec .machineLeave s = .next (answered { s with mach := { s.mach with leaveAsked := true } } 0x00 zero4)))

/-- The event controller and its ring (R474 to R479). EVENT_ASSERT makes a source pending, and an assertion that finds it
pending is counted. EVENT_TAKE, in an AON cycle, takes the eligible source of the lowest group, sub-priority and number when
its group is lower than that of every handler in progress, at its vector, and holds its source group off for its CYCLES.
EVENT_HANDLER_RETURN ends the handler last taken; the pc that it leaves is the model's choice and is not stated.
EVENT_HOLDOFF_EXPIRY ends a hold-off whose cycles have passed. EVENT_RECORD_WRITE writes a record in two parts while the
ring has room, and drops and counts it otherwise; its number is used either way. AON cycles are counted from TICK_NOW (the
model's count, log 155). The sideband port (R481, R482): it answers while the always-on domain has power, a transaction with
a wrong PEC is discarded and counted, and each command leaves its reply: opcode, ready, status, data. SET_CAP takes 0 or a
cap within the variant's limit; NODE_RESET with 0x5A resets a running node with cause SMBUS. -/
def Obligations.EventsAndSideband : Prop :=
  ((∀ (n : Fin 512) (payload : BitVec 192) (edge : Bool) (s : State), NodeRuns s → srcListed n.val = true →
     (edge = true → (srcOf s n).getLsbD 6 = true) →
     ∃ u, exec (.eventAssert n payload edge) s = .next u ∧ u = { s with evt := { s.evt with pending := u.evt.pending }, cnt := u.cnt } ∧
       Asserted s u n payload ∧ Counts s u (only .evtCoalesce (if s.evt.pending.any (fun p => p.source == n) then 1 else 0)))
   ∧ (∀ (c : Fin 64) (s : State) (p : PendEvt), NodeRuns s → p ∈ s.evt.pending →
     (let now := 64 * s.clk.tick + c.val
      let group (n : Fin 512) : Nat := (srcOf s n).toNat % 16 / 2 ^ s.evt.split.toNat
      let sub (n : Fin 512) : Nat := (srcOf s n).toNat % 16 % 2 ^ s.evt.split.toNat
      let eligible (q : PendEvt) : Prop := (srcOf s q.source).getLsbD 7 = true ∧ tget 0 s.evt.holdEnd (q.source.val / 8) < now
      let before (a b : Fin 512) : Prop := group a < group b ∨ (group a = group b ∧ (sub a < sub b ∨ (sub a = sub b ∧ a < b)))
      eligible p → (∀ q ∈ s.evt.pending, eligible q → q ≠ p → before p.source q.source) →
      ((∀ h ∈ s.evt.handlers, group p.source < group h) → ∃ u, exec (.eventTake c) s = .next u ∧ u = { s with evt := u.evt } ∧
         (let cycles := (tget 0 s.evt.holdoff (p.source.val / 8)).toNat
          u.evt = { s.evt with
            pending := s.evt.pending.erase p, handlers := p.source :: s.evt.handlers,
            pc := some (s.evt.vecBase.toNat * 8192 + 16 * p.source.val),
            holdEnd := if cycles = 0 then s.evt.holdEnd else tput 0 s.evt.holdEnd (p.source.val / 8) (now + cycles),
            records := u.evt.records }) ∧
         ((p.source.val ≤ 383 ∨ 448 ≤ p.source.val) → u.evt.records = s.evt.records ++ [p]) ∧
         (383 < p.source.val → p.source.val < 448 → u.evt.records = s.evt.records))
      ∧ ((∃ h ∈ s.evt.handlers, group h ≤ group p.source) → exec (.eventTake c) s = .next s)))
   ∧ (∀ (s : State) (h : Fin 512) (r : List (Fin 512)), s.evt.handlers = h :: r →
     ∃ u, exec .eventHandlerReturn s = .next u ∧ u = { s with evt := { s.evt with handlers := r, pc := u.evt.pc } })
   ∧ (∀ (g c : Fin 64) (s : State), tget 0 s.evt.holdEnd g.val ≤ 64 * s.clk.tick + c.val →
     ∃ u, exec (.eventHoldoffExpiry g c) s = .next u ∧ u = { s with evt := { s.evt with holdEnd := u.evt.holdEnd } } ∧
       ∀ k : Nat, tget 0 u.evt.holdEnd k = if k = g.val then 0 else tget 0 s.evt.holdEnd k)
   ∧ (∀ (s : State) (p : PendEvt) (r : List PendEvt), s.evt.records = p :: r →
     (let size := 2 ^ s.evt.log2.toNat
      let unread := (s.evt.tail.toNat + size - s.evt.head.toNat) % size
      let a := s.evt.base.toNat + 64 * s.evt.tail.toNat
      ∃ u, exec .eventRecordWrite s = .next u ∧ u = { s with evt := u.evt, io := u.io, cnt := u.cnt } ∧ u.evt.records = r ∧ u.evt.seq = s.evt.seq + 1 ∧
        u.evt.pending = s.evt.pending ∧
        (s.evt.tail.toNat < size → s.evt.head.toNat < size → s.evt.en = true → unread < size - 1 → u.cnt = s.cnt ∧
          (∃ b : List Byte, b.length = 64 ∧ u.io = { s.io with hostWrites := s.io.hostWrites ++ [(a, b.take 63), (a + 63, b.drop 63)] } ∧
            leNat b = p.payload.toNat + 2 ^ 384 * s.evt.seq.toNat + 2 ^ 432 * (p.tick % 2 ^ 64) + 2 ^ 496 * p.source.val +
              2 ^ 511 * (if s.evt.phase then 1 else 0)) ∧
          (s.evt.tail.toNat + 1 < size → u.evt.tail = s.evt.tail + 1 ∧ u.evt.phase = s.evt.phase) ∧
          (s.evt.tail.toNat + 1 = size → u.evt.tail = 0 ∧ u.evt.phase = !s.evt.phase)) ∧
        (s.evt.tail.toNat < size → s.evt.head.toNat < size → (s.evt.en = false ∨ unread = size - 1) →
          u.io = s.io ∧ u.evt.tail = s.evt.tail ∧ Counts s u (only .evtLost 1)))))
  ∧ (∀ s : State, s.aon.powered = true →
       (let reply (op : Byte) (st : BitVec 8) (d : List Byte) : Aon := { s.aon with smbReply := [op, 1, st] ++ d }
        (∀ (i : Instr) (d : List Byte), i ∈ [.getId false, .getTemps false, .getPower false, .setCap false d, .getState false, .nodeReset false d,
           .smbusReplyRead false] → ∃ u, exec i s = .next u ∧ u = { s with cnt := u.cnt } ∧ Counts s u (only .smbusPec 1))
        ∧ (∃ u, exec (.getId true) s = .next u ∧
           AonBecomes s u (reply 1 0 (leBytes 8 (nodeCapReg s) ++ leBytes 8 s.aon.nodeId.toNat ++ leBytes 4 s.aon.fwVersion.toNat)))
        ∧ (∃ u, exec (.getTemps true) s = .next u ∧ AonBecomes s u (reply 2 0 (leBytes 8 (tempStatusReg s) ++ leBytes 4 (memClassReg s))))
        ∧ (∃ u, exec (.getPower true) s = .next u ∧ AonBecomes s u (reply 3 0 (leBytes 8 (pwrStatusReg s))))
        ∧ (∀ b0 b1 : Byte, (let w := b0.toNat + 256 * b1.toNat
           ((w = 0 ∨ (200 ≤ w ∧ w ≤ s.aon.powerLimit.toNat)) → ∃ u, exec (.setCap true [b0, b1]) s = .next u ∧
             u = { s with aon := reply 4 0 [], pow := { s.pow with boardCap := u.pow.boardCap } } ∧ (w = 0 → u.pow.boardCap = none) ∧
             (w ≠ 0 → u.pow.boardCap.map BitVec.toNat = some w))
           ∧ ((1 ≤ w ∧ w ≤ 199) ∨ s.aon.powerLimit.toNat < w → w ≠ 0 → ∃ u, exec (.setCap true [b0, b1]) s = .next u ∧ AonBecomes s u (reply 4 2 []))))
        ∧ (∃ (u : State) (st : Byte), exec (.getState true) s = .next u ∧
           AonBecomes s u (reply 5 0 ([st, BitVec.ofNat 8 (causeCode s.aon.cause)] ++ leBytes 8 (epochStatusReg s))) ∧
           st = (if s.aon.inReset then 0 else if s.plan.ready then 2 else 1))
        ∧ (s.aon.inReset = false → ∃ u, exec (.nodeReset true [0x5A]) s = .next u ∧ AfterReset s u .smbus ∧ u.aon.smbReply = [6, 1, 0])
        ∧ (∀ d : List Byte, d ≠ [0x5A] → ∃ u, exec (.nodeReset true d) s = .next u ∧ AonBecomes s u (reply 6 2 []))
        ∧ exec (.smbusReplyRead true) s = .next { s with io := { s.io with smb := s.aon.smbReply } }))
end

