-- ==== Sys2Proof/Laws/Bytes.lean ====
section
/-! SUPPORT. Byte strings and the numbers they spell: fields read back from the bytes of a number. -/

namespace Sys2Proof.Machine

open Sys2Proof

@[simp] theorem length_leBytes (n v : Nat) : (leBytes n v).length = n := by
  induction n generalizing v with
  | zero => rfl
  | succ n ih => simp [leBytes, ih]

theorem leBytes_zero (n : Nat) : leBytes n 0 = List.replicate n 0 := by
  induction n with
  | zero => rfl
  | succ n ih => simp [leBytes, ih, List.replicate_succ]

theorem drop_leBytes (o n v : Nat) : (leBytes n v).drop o = leBytes (n - o) (v / 256 ^ o) := by
  induction o generalizing n v with
  | zero => simp
  | succ o ih =>
    cases n with
    | zero => simp [leBytes]
    | succ n => simp [leBytes, ih, Nat.pow_succ', Nat.div_div_eq_div_mul]

theorem take_leBytes (k n v : Nat) : (leBytes n v).take k = leBytes (min k n) v := by
  induction k generalizing n v with
  | zero => simp [leBytes]
  | succ k ih =>
    cases n with
    | zero => simp [leBytes]
    | succ n => simp [leBytes, ih, Nat.succ_min_succ]

theorem leBytes_append_zeros (m k v : Nat) (h : v < 256 ^ m) : leBytes m v ++ List.replicate k 0 = leBytes (m + k) v := by
  induction m generalizing v with
  | zero =>
    obtain rfl : v = 0 := by simpa using h
    simp [leBytes_zero, leBytes]
  | succ m ih =>
    have hv : v / 256 < 256 ^ m := by
      rw [Nat.div_lt_iff_lt_mul (by decide)]
      simpa [Nat.pow_succ] using h
    rw [Nat.add_right_comm]
    rw [leBytes, leBytes, List.cons_append]
    exact congrArg _ (ih _ hv)

/-- A field of the bytes of a number; beyond its end a field reads zero. -/
theorem slice_leBytes {l v : Nat} (h : v < 256 ^ l) (o n : Nat) : slice (leBytes l v) o n = leBytes n (v / 256 ^ o) := by
  have hd : v / 256 ^ o < 256 ^ (l - o) := by
    rw [Nat.div_lt_iff_lt_mul (by positivity), ← Nat.pow_add]
    exact lt_of_lt_of_le h (Nat.pow_le_pow_right (by decide) (by omega))
  unfold slice
  simp only [drop_leBytes, take_leBytes, length_leBytes]
  by_cases hn : n ≤ l - o
  · simp [Nat.min_eq_left hn]
  · have hm : min n (l - o) = l - o := by omega
    rw [hm, leBytes_append_zeros _ _ _ hd]
    congr 1
    omega

theorem leNat_leBytes (n v : Nat) : leNat (leBytes n v) = v % 256 ^ n := by
  induction n generalizing v with
  | zero => simp [leBytes, leNat, Nat.mod_one]
  | succ n ih =>
    rw [leBytes, leNat, ih, pow_succ', BitVec.toNat_ofNat]
    rw [show (2 : Nat) ^ 8 = 256 from rfl, Nat.mod_mul]

theorem leAt_leBytes {l v : Nat} (h : v < 256 ^ l) (o n : Nat) : leAt (leBytes l v) o n = v / 256 ^ o % 256 ^ n := by
  rw [leAt, slice_leBytes h, leNat_leBytes]

end Sys2Proof.Machine
end

