-- ==== Sys2Proof/Laws/Hash.lean ====
section
/-! SUPPORT. What every SHA-512 digest is: 64 bytes. -/

namespace Sys2Proof.Machine

open Sys2Proof

theorem length_shaBlock (h : List Word64) (b : List Byte) (w : h.length = 8) : (shaBlock h b).length = 8 := by
  simp [shaBlock, w]

theorem length_shaBlocks (l : List (List Byte)) (h : List Word64) (w : h.length = 8) : (l.foldl shaBlock h).length = 8 := by
  induction l generalizing h with
  | nil => exact w
  | cons b l ih => exact ih _ (length_shaBlock h b w)

theorem length_flatMap_words (l : List Word64) : (l.flatMap (fun w => beBytes 8 w.toNat)).length = 8 * l.length := by
  induction l with
  | nil => rfl
  | cons w l ih =>
    rw [List.flatMap_cons, List.length_append, ih, List.length_cons, beBytes, List.length_reverse, length_leBytes]
    omega

@[simp] theorem length_sha512 (l : List Byte) : (sha512 l).length = 64 := by
  rw [sha512, length_flatMap_words, length_shaBlocks _ _ rfl]

end Sys2Proof.Machine
end

