-- ==== Sys2Proof/Laws/Tables.lean ====
section
/-! SUPPORT. Laws of sparse tables and byte tables: a read after a write, other keys, and the canonical form. -/

namespace Sys2Proof.Laws

open Sys2Proof Sys2Proof.Machine

variable {α : Type}

theorem tget_tdel_same (d : α) (t : Tab α) (k : Nat) : tget d (tdel t k) k = d := by
  induction t with
  | nil => rfl
  | cons e t ih =>
    obtain ⟨k', v⟩ := e
    by_cases h : k' = k <;> simp [tdel, tget, h, ih]

theorem tget_tdel_ne (d : α) (t : Tab α) {k j : Nat} (h : j ≠ k) : tget d (tdel t k) j = tget d t j := by
  induction t with
  | nil => rfl
  | cons e t ih =>
    obtain ⟨k', v⟩ := e
    by_cases hk : k' = k
    · subst hk
      have : ¬ k' = j := fun e => h e.symm
      simp [tdel, tget, ih, this]
    · simp only [tdel, hk, if_false, tget, ih]

theorem tget_tins_ne (d : α) (t : Tab α) {k j : Nat} (v : α) (h : j ≠ k) : tget d (tins t k v) j = tget d t j := by
  have hk : ¬ k = j := fun e => h e.symm
  induction t with
  | nil => simp [tins, tget, hk]
  | cons e t ih =>
    obtain ⟨k', w⟩ := e
    by_cases hlt : k < k'
    · simp [tins, tget, hlt, hk]
    · simp only [tins, hlt, if_false, tget, ih]

theorem tget_tins_tdel (d : α) (t : Tab α) (k : Nat) (v : α) : tget d (tins (tdel t k) k v) k = v := by
  induction t with
  | nil => simp [tdel, tins, tget]
  | cons e t ih =>
    obtain ⟨k', w⟩ := e
    by_cases h : k' = k
    · simp [tdel, h, ih]
    · by_cases hlt : k < k' <;> simp [tdel, tins, tget, h, hlt, ih]

/-- A key reads as what was put there. -/
@[simp] theorem tget_tput_same [DecidableEq α] (d : α) (t : Tab α) (k : Nat) (v : α) : tget d (tput d t k v) k = v := by
  by_cases h : v = d
  · simp [tput, h, tget_tdel_same]
  · simp [tput, h, tget_tins_tdel]

/-- Another key reads as before. -/
theorem tget_tput_ne [DecidableEq α] (d : α) (t : Tab α) {k j : Nat} (v : α) (h : j ≠ k) :
    tget d (tput d t k v) j = tget d t j := by
  by_cases hv : v = d
  · simp [tput, hv, tget_tdel_ne d t h]
  · simp [tput, hv, tget_tins_ne d _ v h, tget_tdel_ne d t h]

theorem tget_tput [DecidableEq α] (d : α) (t : Tab α) (k j : Nat) (v : α) :
    tget d (tput d t k v) j = if j = k then v else tget d t j := by
  by_cases h : j = k
  · subst h; simp
  · simp [h, tget_tput_ne]

@[simp] theorem tget_tmod_same [DecidableEq α] (d : α) (t : Tab α) (k : Nat) (f : α → α) :
    tget d (tmod d t k f) k = f (tget d t k) := by simp [tmod]

theorem tget_tmod_ne [DecidableEq α] (d : α) (t : Tab α) {k j : Nat} (f : α → α) (h : j ≠ k) :
    tget d (tmod d t k f) j = tget d t j := by simp [tmod, tget_tput_ne d t _ h]

/-! ### The canonical form -/

/-- Every key of a table is above a bound, keys rise, and no entry is the default. -/
def Above [DecidableEq α] (d : α) (b : Option Nat) : Tab α → Prop
  | [] => True
  | (k, v) :: t => (∀ n, b = some n → n < k) ∧ v ≠ d ∧ Above d (some k) t

theorem above_weaken [DecidableEq α] (d : α) {a b : Nat} (h : a ≤ b) {t : Tab α} (w : Above d (some b) t) :
    Above d (some a) t := by
  cases t with
  | nil => trivial
  | cons e t =>
    obtain ⟨h1, h2, h3⟩ := w
    exact ⟨fun n hn => Nat.lt_of_le_of_lt (by cases hn; exact h) (h1 b rfl), h2, h3⟩

theorem above_none [DecidableEq α] (d : α) {b : Option Nat} {t : Tab α} (w : Above d b t) : Above d none t := by
  cases t with
  | nil => trivial
  | cons e t => exact ⟨fun n hn => (by cases hn), w.2.1, w.2.2⟩

theorem above_iff_twf [DecidableEq α] (d : α) (t : Tab α) : Above d none t ↔ twf d t = true := by
  suffices h : ∀ (t : Tab α) (k : Nat) (v : α), (v ≠ d ∧ Above d (some k) t) ↔ twf d ((k, v) :: t) = true by
    cases t with
    | nil => simp [Above, twf]
    | cons e t =>
      obtain ⟨k, v⟩ := e
      rw [← h]
      constructor
      · exact fun w => w.2
      · exact fun w => ⟨fun n hn => (by cases hn), w⟩
  intro t
  induction t with
  | nil => intro k v; simp [Above, twf]
  | cons e t ih =>
    intro k v
    obtain ⟨k', v'⟩ := e
    have := ih k' v'
    simp only [twf, Bool.and_eq_true, decide_eq_true_eq]
    rw [← this]
    constructor
    · rintro ⟨a, b, c⟩
      exact ⟨⟨a, b k rfl⟩, c⟩
    · rintro ⟨⟨a, b⟩, c⟩
      exact ⟨a, fun n hn => (by cases hn; exact b), c⟩

theorem above_tdel [DecidableEq α] (d : α) (t : Tab α) (k : Nat) (b : Option Nat) (w : Above d b t) :
    Above d b (tdel t k) := by
  induction t generalizing b with
  | nil => trivial
  | cons e t ih =>
    obtain ⟨k', v⟩ := e
    obtain ⟨h1, h2, h3⟩ := w
    by_cases h : k' = k
    · simp only [tdel, h, if_true]
      have := ih (some k') h3
      cases b with
      | none => exact above_none d this
      | some n => exact above_weaken d (Nat.le_of_lt (h1 n rfl)) this
    · simp only [tdel, h, if_false]
      exact ⟨h1, h2, ih _ h3⟩

/-- No entry has the key. -/
def Absent (k : Nat) (t : Tab α) : Prop := ∀ e ∈ t, e.1 ≠ k

theorem absent_tdel (t : Tab α) (k : Nat) : Absent k (tdel t k) := by
  induction t with
  | nil => intro e he; cases he
  | cons e t ih =>
    obtain ⟨k', v⟩ := e
    by_cases h : k' = k
    · simpa [tdel, h] using ih
    · intro e he
      simp only [tdel, h, if_false, List.mem_cons] at he
      rcases he with rfl | he
      · exact h
      · exact ih e he

theorem above_tins [DecidableEq α] (d : α) (t : Tab α) (k : Nat) (v : α) (hv : v ≠ d) (b : Option Nat)
    (hb : ∀ n, b = some n → n < k) (ha : Absent k t) (w : Above d b t) : Above d b (tins t k v) := by
  induction t generalizing b with
  | nil => exact ⟨hb, hv, trivial⟩
  | cons e t ih =>
    obtain ⟨k', v'⟩ := e
    obtain ⟨h1, h2, h3⟩ := w
    by_cases h : k < k'
    · simp only [tins, h, if_true]
      exact ⟨hb, hv, fun n hn => (by cases hn; exact h), h2, h3⟩
    · simp only [tins, h, if_false]
      have hne : k' ≠ k := ha (k', v') (List.mem_cons_self ..)
      exact ⟨h1, h2, ih (some k') (fun n hn => (by cases hn; omega)) (fun e he => ha e (List.mem_cons_of_mem _ he)) h3⟩

/-- An entry put keeps the canonical form. -/
theorem twf_tput [DecidableEq α] (d : α) (t : Tab α) (k : Nat) (v : α) (w : twf d t = true) : twf d (tput d t k v) = true := by
  rw [← above_iff_twf] at w ⊢
  by_cases h : v = d
  · simpa [tput, h] using above_tdel d t k none w
  · simpa [tput, h] using
      above_tins d _ k v h none (fun n hn => (by cases hn)) (absent_tdel t k) (above_tdel d t k none w)

theorem twf_tmod [DecidableEq α] (d : α) (t : Tab α) (k : Nat) (f : α → α) (w : twf d t = true) :
    twf d (tmod d t k f) = true := twf_tput d t k _ w

/-! ### Bytes -/

/-- A write of bytes keeps the canonical form. -/
theorem twf_writeBytes (m : Tab Byte) (a : Nat) (l : List Byte) (w : twf 0 m = true) : twf 0 (writeBytes m a l) = true := by
  induction l generalizing m a with
  | nil => exact w
  | cons b l ih => exact ih _ _ (twf_tput 0 m a b w)

/-- An address outside the bytes written reads as before. -/
theorem tget_writeBytes_ne (m : Tab Byte) (a : Nat) (l : List Byte) {j : Nat} (h : j < a ∨ a + l.length ≤ j) :
    tget 0 (writeBytes m a l) j = tget 0 m j := by
  induction l generalizing m a with
  | nil => rfl
  | cons b l ih =>
    simp only [List.length_cons] at h
    rw [writeBytes, ih _ _ (by omega), tget_tput_ne 0 m b (by omega)]

/-- An address within the bytes written reads the byte written there. -/
theorem tget_writeBytes_in (m : Tab Byte) (a : Nat) (l : List Byte) (i : Nat) (h : i < l.length) :
    tget 0 (writeBytes m a l) (a + i) = l[i] := by
  induction l generalizing m a i with
  | nil => cases h
  | cons b l ih =>
    cases i with
    | zero => rw [writeBytes, Nat.add_zero, tget_writeBytes_ne _ _ _ (by omega)]; simp
    | succ i =>
      have := ih (tput 0 m a b) (a + 1) i (by simpa using h)
      rw [writeBytes]
      simpa [Nat.add_assoc, Nat.add_comm 1 i] using this

theorem readBytes_length (m : Tab Byte) (a n : Nat) : (readBytes m a n).length = n := by
  induction n generalizing a with
  | zero => rfl
  | succ n ih => simp [readBytes, ih]

theorem readBytes_get (m : Tab Byte) (a n i : Nat) (h : i < n) :
    (readBytes m a n)[i]'(by rw [readBytes_length]; exact h) = tget 0 m (a + i) := by
  induction n generalizing a i with
  | zero => omega
  | succ n ih =>
    cases i with
    | zero => rfl
    | succ i =>
      have := ih (a + 1) i (by omega)
      simpa [readBytes, Nat.add_assoc, Nat.add_comm 1 i] using this

/-- A read of the bytes just written gives them back. -/
theorem readBytes_writeBytes (m : Tab Byte) (a : Nat) (l : List Byte) : readBytes (writeBytes m a l) a l.length = l := by
  apply List.ext_getElem
  · exact readBytes_length _ _ _
  · intro i h1 h2
    rw [readBytes_get _ _ _ _ h2, tget_writeBytes_in _ _ _ _ h2]

end Sys2Proof.Laws
end

