-- ==== Sys2Proof/Laws/Issue.lean ====
section
/-! SUPPORT. What issuing an instruction can do: tiles as tables, and the one lemma of each issue operation. -/

namespace Sys2Proof.Laws

open Sys2Proof Sys2Proof.Machine Sys2Proof.Claims

@[simp] theorem tileOf_onTile_same (s : State) (t : Nat) (f : Tile → Tile) : tileOf (onTile s t f) t = f (tileOf s t) := by
  simp [onTile, putTile, tileOf]

theorem tileOf_onTile_ne (s : State) {t k : Nat} (f : Tile → Tile) (h : k ≠ t) : tileOf (onTile s t f) k = tileOf s k := by
  simp [onTile, putTile, tileOf, tget_tput_ne _ _ _ h]

/-- A change of one tile is a change of one tile. -/
theorem onTile_becomes (s : State) (t : Fin 192) (f : Tile → Tile) :
    TileBecomes s (onTile s t.val f) t (f (tileOf s t.val)) :=
  ⟨rfl, tileOf_onTile_same s t.val f, fun _ h => tileOf_onTile_ne s f h⟩

theorem becomes_trans {s v u : State} {t : Fin 192} {x y : Tile} (h : TileBecomes s v t x) (k : TileBecomes v u t y) :
    TileBecomes s u t y := by
  obtain ⟨h1, _, h3⟩ := h
  obtain ⟨k1, k2, k3⟩ := k
  refine ⟨?_, k2, fun j hj => (k3 j hj).trans (h3 j hj)⟩
  rw [k1, h1]

/-- An issue takes its slots, begins a bundle where it is its first, and counts a corrected fetch: of the tiles only its own changes. -/
theorem issued_tiles (s : State) (t : Fin 192) (g : Guard) (i : Instr) :
    ∃ x, TileBecomes (fetchCounted s g) (issued s t g i) t x := by
  unfold issued
  exact ⟨_, onTile_becomes _ t _⟩

/-- An instruction that executes does its effect on the state in which it reads its operands, and its results land with their latencies. -/
theorem issue_executes {s : State} {t : Fin 192} {g : Guard} {i : Instr} (f : State → State) (h : Executes s t g i) :
    issue s t g i f =
      onTile (f (issued s t g i)) t.val
        (fun y => landed (tileAt s t g i).cyc (tileAt s t g i) y (broughtBy i y (resultsOf (issued s t g i) t i))) := by
  simp [issue, h.1, h.2, tileAt]

/-- An instruction that changes only its tile, where it executes. -/
theorem issueTile_executes {s : State} {t : Fin 192} {g : Guard} {i : Instr} (f : Tile → Tile) (h : Executes s t g i) :
    Brings s (issueTile s t g i f) t g i (f (tileAt s t g i)) := by
  rw [issueTile, issue_executes _ h]
  refine becomes_trans (onTile_becomes _ t f) ?_
  have k := onTile_becomes (onTile (issued s t g i) t.val f) t
    (fun y => landed (tileAt s t g i).cyc (tileAt s t g i) y (broughtBy i y (resultsOf (issued s t g i) t i)))
  simpa [settled, tileAt] using k

end Sys2Proof.Laws
end

