-- ==== Sys2Proof/Laws/State.lean ====
section
/-! SUPPORT. What each named update of the state leaves in each field: one lemma a field, true by definition. -/

namespace Sys2Proof.Machine

open Sys2Proof

variable (s : State)

/-! #### bumpBy -/

@[simp] theorem bumpBy_pending (c : Counter) (n : Nat) : (bumpBy s c n).pending = s.pending := rfl
@[simp] theorem bumpBy_free (c : Counter) (n : Nat) : (bumpBy s c n).free = s.free := rfl
@[simp] theorem bumpBy_io (c : Counter) (n : Nat) : (bumpBy s c n).io = s.io := rfl
@[simp] theorem bumpBy_aon (c : Counter) (n : Nat) : (bumpBy s c n).aon = s.aon := rfl
@[simp] theorem bumpBy_clk (c : Counter) (n : Nat) : (bumpBy s c n).clk = s.clk := rfl
@[simp] theorem bumpBy_mach (c : Counter) (n : Nat) : (bumpBy s c n).mach = s.mach := rfl
@[simp] theorem bumpBy_host (c : Counter) (n : Nat) : (bumpBy s c n).host = s.host := rfl
@[simp] theorem bumpBy_funcs (c : Counter) (n : Nat) : (bumpBy s c n).funcs = s.funcs := rfl
@[simp] theorem bumpBy_ctxs (c : Counter) (n : Nat) : (bumpBy s c n).ctxs = s.ctxs := rfl
@[simp] theorem bumpBy_shards (c : Counter) (n : Nat) : (bumpBy s c n).shards = s.shards := rfl
@[simp] theorem bumpBy_copies (c : Counter) (n : Nat) : (bumpBy s c n).copies = s.copies := rfl
@[simp] theorem bumpBy_mbxDue (c : Counter) (n : Nat) : (bumpBy s c n).mbxDue = s.mbxDue := rfl
@[simp] theorem bumpBy_plan (c : Counter) (n : Nat) : (bumpBy s c n).plan = s.plan := rfl
@[simp] theorem bumpBy_tiles (c : Counter) (n : Nat) : (bumpBy s c n).tiles = s.tiles := rfl
@[simp] theorem bumpBy_pods (c : Counter) (n : Nat) : (bumpBy s c n).pods = s.pods := rfl
@[simp] theorem bumpBy_tileFault (c : Counter) (n : Nat) : (bumpBy s c n).tileFault = s.tileFault := rfl
@[simp] theorem bumpBy_podFault (c : Counter) (n : Nat) : (bumpBy s c n).podFault = s.podFault := rfl
@[simp] theorem bumpBy_elems (c : Counter) (n : Nat) : (bumpBy s c n).elems = s.elems := rfl
@[simp] theorem bumpBy_nextElem (c : Counter) (n : Nat) : (bumpBy s c n).nextElem = s.nextElem := rfl
@[simp] theorem bumpBy_memWrites (c : Counter) (n : Nat) : (bumpBy s c n).memWrites = s.memWrites := rfl
@[simp] theorem bumpBy_dirWrites (c : Counter) (n : Nat) : (bumpBy s c n).dirWrites = s.dirWrites := rfl
@[simp] theorem bumpBy_mem (c : Counter) (n : Nat) : (bumpBy s c n).mem = s.mem := rfl
@[simp] theorem bumpBy_raw (c : Counter) (n : Nat) : (bumpBy s c n).raw = s.raw := rfl
@[simp] theorem bumpBy_stk (c : Counter) (n : Nat) : (bumpBy s c n).stk = s.stk := rfl
@[simp] theorem bumpBy_upd (c : Counter) (n : Nat) : (bumpBy s c n).upd = s.upd := rfl
@[simp] theorem bumpBy_fl (c : Counter) (n : Nat) : (bumpBy s c n).fl = s.fl := rfl
@[simp] theorem bumpBy_txt (c : Counter) (n : Nat) : (bumpBy s c n).txt = s.txt := rfl
@[simp] theorem bumpBy_fab (c : Counter) (n : Nat) : (bumpBy s c n).fab = s.fab := rfl
@[simp] theorem bumpBy_pool (c : Counter) (n : Nat) : (bumpBy s c n).pool = s.pool := rfl
@[simp] theorem bumpBy_evt (c : Counter) (n : Nat) : (bumpBy s c n).evt = s.evt := rfl
@[simp] theorem bumpBy_pow (c : Counter) (n : Nat) : (bumpBy s c n).pow = s.pow := rfl
@[simp] theorem bumpBy_cnt (c : Counter) (n : Nat) : (bumpBy s c n).cnt = tmod 0 s.cnt c.ctorIdx (fun v => satAdd32 v n) := rfl

/-! #### putTile -/

@[simp] theorem putTile_pending (t : Nat) (x : Tile) : (putTile s t x).pending = s.pending := rfl
@[simp] theorem putTile_free (t : Nat) (x : Tile) : (putTile s t x).free = s.free := rfl
@[simp] theorem putTile_io (t : Nat) (x : Tile) : (putTile s t x).io = s.io := rfl
@[simp] theorem putTile_aon (t : Nat) (x : Tile) : (putTile s t x).aon = s.aon := rfl
@[simp] theorem putTile_clk (t : Nat) (x : Tile) : (putTile s t x).clk = s.clk := rfl
@[simp] theorem putTile_mach (t : Nat) (x : Tile) : (putTile s t x).mach = s.mach := rfl
@[simp] theorem putTile_host (t : Nat) (x : Tile) : (putTile s t x).host = s.host := rfl
@[simp] theorem putTile_funcs (t : Nat) (x : Tile) : (putTile s t x).funcs = s.funcs := rfl
@[simp] theorem putTile_ctxs (t : Nat) (x : Tile) : (putTile s t x).ctxs = s.ctxs := rfl
@[simp] theorem putTile_shards (t : Nat) (x : Tile) : (putTile s t x).shards = s.shards := rfl
@[simp] theorem putTile_copies (t : Nat) (x : Tile) : (putTile s t x).copies = s.copies := rfl
@[simp] theorem putTile_mbxDue (t : Nat) (x : Tile) : (putTile s t x).mbxDue = s.mbxDue := rfl
@[simp] theorem putTile_plan (t : Nat) (x : Tile) : (putTile s t x).plan = s.plan := rfl
@[simp] theorem putTile_tiles (t : Nat) (x : Tile) : (putTile s t x).tiles = tput Tile.reset s.tiles t x := rfl
@[simp] theorem putTile_pods (t : Nat) (x : Tile) : (putTile s t x).pods = s.pods := rfl
@[simp] theorem putTile_tileFault (t : Nat) (x : Tile) : (putTile s t x).tileFault = s.tileFault := rfl
@[simp] theorem putTile_podFault (t : Nat) (x : Tile) : (putTile s t x).podFault = s.podFault := rfl
@[simp] theorem putTile_elems (t : Nat) (x : Tile) : (putTile s t x).elems = s.elems := rfl
@[simp] theorem putTile_nextElem (t : Nat) (x : Tile) : (putTile s t x).nextElem = s.nextElem := rfl
@[simp] theorem putTile_memWrites (t : Nat) (x : Tile) : (putTile s t x).memWrites = s.memWrites := rfl
@[simp] theorem putTile_dirWrites (t : Nat) (x : Tile) : (putTile s t x).dirWrites = s.dirWrites := rfl
@[simp] theorem putTile_mem (t : Nat) (x : Tile) : (putTile s t x).mem = s.mem := rfl
@[simp] theorem putTile_raw (t : Nat) (x : Tile) : (putTile s t x).raw = s.raw := rfl
@[simp] theorem putTile_stk (t : Nat) (x : Tile) : (putTile s t x).stk = s.stk := rfl
@[simp] theorem putTile_upd (t : Nat) (x : Tile) : (putTile s t x).upd = s.upd := rfl
@[simp] theorem putTile_fl (t : Nat) (x : Tile) : (putTile s t x).fl = s.fl := rfl
@[simp] theorem putTile_txt (t : Nat) (x : Tile) : (putTile s t x).txt = s.txt := rfl
@[simp] theorem putTile_fab (t : Nat) (x : Tile) : (putTile s t x).fab = s.fab := rfl
@[simp] theorem putTile_pool (t : Nat) (x : Tile) : (putTile s t x).pool = s.pool := rfl
@[simp] theorem putTile_evt (t : Nat) (x : Tile) : (putTile s t x).evt = s.evt := rfl
@[simp] theorem putTile_pow (t : Nat) (x : Tile) : (putTile s t x).pow = s.pow := rfl
@[simp] theorem putTile_cnt (t : Nat) (x : Tile) : (putTile s t x).cnt = s.cnt := rfl

/-! #### putPod -/

@[simp] theorem putPod_pending (p : Nat) (x : Pod) : (putPod s p x).pending = s.pending := rfl
@[simp] theorem putPod_free (p : Nat) (x : Pod) : (putPod s p x).free = s.free := rfl
@[simp] theorem putPod_io (p : Nat) (x : Pod) : (putPod s p x).io = s.io := rfl
@[simp] theorem putPod_aon (p : Nat) (x : Pod) : (putPod s p x).aon = s.aon := rfl
@[simp] theorem putPod_clk (p : Nat) (x : Pod) : (putPod s p x).clk = s.clk := rfl
@[simp] theorem putPod_mach (p : Nat) (x : Pod) : (putPod s p x).mach = s.mach := rfl
@[simp] theorem putPod_host (p : Nat) (x : Pod) : (putPod s p x).host = s.host := rfl
@[simp] theorem putPod_funcs (p : Nat) (x : Pod) : (putPod s p x).funcs = s.funcs := rfl
@[simp] theorem putPod_ctxs (p : Nat) (x : Pod) : (putPod s p x).ctxs = s.ctxs := rfl
@[simp] theorem putPod_shards (p : Nat) (x : Pod) : (putPod s p x).shards = s.shards := rfl
@[simp] theorem putPod_copies (p : Nat) (x : Pod) : (putPod s p x).copies = s.copies := rfl
@[simp] theorem putPod_mbxDue (p : Nat) (x : Pod) : (putPod s p x).mbxDue = s.mbxDue := rfl
@[simp] theorem putPod_plan (p : Nat) (x : Pod) : (putPod s p x).plan = s.plan := rfl
@[simp] theorem putPod_tiles (p : Nat) (x : Pod) : (putPod s p x).tiles = s.tiles := rfl
@[simp] theorem putPod_pods (p : Nat) (x : Pod) : (putPod s p x).pods = tput Pod.reset s.pods p x := rfl
@[simp] theorem putPod_tileFault (p : Nat) (x : Pod) : (putPod s p x).tileFault = s.tileFault := rfl
@[simp] theorem putPod_podFault (p : Nat) (x : Pod) : (putPod s p x).podFault = s.podFault := rfl
@[simp] theorem putPod_elems (p : Nat) (x : Pod) : (putPod s p x).elems = s.elems := rfl
@[simp] theorem putPod_nextElem (p : Nat) (x : Pod) : (putPod s p x).nextElem = s.nextElem := rfl
@[simp] theorem putPod_memWrites (p : Nat) (x : Pod) : (putPod s p x).memWrites = s.memWrites := rfl
@[simp] theorem putPod_dirWrites (p : Nat) (x : Pod) : (putPod s p x).dirWrites = s.dirWrites := rfl
@[simp] theorem putPod_mem (p : Nat) (x : Pod) : (putPod s p x).mem = s.mem := rfl
@[simp] theorem putPod_raw (p : Nat) (x : Pod) : (putPod s p x).raw = s.raw := rfl
@[simp] theorem putPod_stk (p : Nat) (x : Pod) : (putPod s p x).stk = s.stk := rfl
@[simp] theorem putPod_upd (p : Nat) (x : Pod) : (putPod s p x).upd = s.upd := rfl
@[simp] theorem putPod_fl (p : Nat) (x : Pod) : (putPod s p x).fl = s.fl := rfl
@[simp] theorem putPod_txt (p : Nat) (x : Pod) : (putPod s p x).txt = s.txt := rfl
@[simp] theorem putPod_fab (p : Nat) (x : Pod) : (putPod s p x).fab = s.fab := rfl
@[simp] theorem putPod_pool (p : Nat) (x : Pod) : (putPod s p x).pool = s.pool := rfl
@[simp] theorem putPod_evt (p : Nat) (x : Pod) : (putPod s p x).evt = s.evt := rfl
@[simp] theorem putPod_pow (p : Nat) (x : Pod) : (putPod s p x).pow = s.pow := rfl
@[simp] theorem putPod_cnt (p : Nat) (x : Pod) : (putPod s p x).cnt = s.cnt := rfl

/-! #### putFunc -/

@[simp] theorem putFunc_pending (f : Nat) (x : Func) : (putFunc s f x).pending = s.pending := rfl
@[simp] theorem putFunc_free (f : Nat) (x : Func) : (putFunc s f x).free = s.free := rfl
@[simp] theorem putFunc_io (f : Nat) (x : Func) : (putFunc s f x).io = s.io := rfl
@[simp] theorem putFunc_aon (f : Nat) (x : Func) : (putFunc s f x).aon = s.aon := rfl
@[simp] theorem putFunc_clk (f : Nat) (x : Func) : (putFunc s f x).clk = s.clk := rfl
@[simp] theorem putFunc_mach (f : Nat) (x : Func) : (putFunc s f x).mach = s.mach := rfl
@[simp] theorem putFunc_host (f : Nat) (x : Func) : (putFunc s f x).host = s.host := rfl
@[simp] theorem putFunc_funcs (f : Nat) (x : Func) : (putFunc s f x).funcs = tput Func.reset s.funcs f x := rfl
@[simp] theorem putFunc_ctxs (f : Nat) (x : Func) : (putFunc s f x).ctxs = s.ctxs := rfl
@[simp] theorem putFunc_shards (f : Nat) (x : Func) : (putFunc s f x).shards = s.shards := rfl
@[simp] theorem putFunc_copies (f : Nat) (x : Func) : (putFunc s f x).copies = s.copies := rfl
@[simp] theorem putFunc_mbxDue (f : Nat) (x : Func) : (putFunc s f x).mbxDue = s.mbxDue := rfl
@[simp] theorem putFunc_plan (f : Nat) (x : Func) : (putFunc s f x).plan = s.plan := rfl
@[simp] theorem putFunc_tiles (f : Nat) (x : Func) : (putFunc s f x).tiles = s.tiles := rfl
@[simp] theorem putFunc_pods (f : Nat) (x : Func) : (putFunc s f x).pods = s.pods := rfl
@[simp] theorem putFunc_tileFault (f : Nat) (x : Func) : (putFunc s f x).tileFault = s.tileFault := rfl
@[simp] theorem putFunc_podFault (f : Nat) (x : Func) : (putFunc s f x).podFault = s.podFault := rfl
@[simp] theorem putFunc_elems (f : Nat) (x : Func) : (putFunc s f x).elems = s.elems := rfl
@[simp] theorem putFunc_nextElem (f : Nat) (x : Func) : (putFunc s f x).nextElem = s.nextElem := rfl
@[simp] theorem putFunc_memWrites (f : Nat) (x : Func) : (putFunc s f x).memWrites = s.memWrites := rfl
@[simp] theorem putFunc_dirWrites (f : Nat) (x : Func) : (putFunc s f x).dirWrites = s.dirWrites := rfl
@[simp] theorem putFunc_mem (f : Nat) (x : Func) : (putFunc s f x).mem = s.mem := rfl
@[simp] theorem putFunc_raw (f : Nat) (x : Func) : (putFunc s f x).raw = s.raw := rfl
@[simp] theorem putFunc_stk (f : Nat) (x : Func) : (putFunc s f x).stk = s.stk := rfl
@[simp] theorem putFunc_upd (f : Nat) (x : Func) : (putFunc s f x).upd = s.upd := rfl
@[simp] theorem putFunc_fl (f : Nat) (x : Func) : (putFunc s f x).fl = s.fl := rfl
@[simp] theorem putFunc_txt (f : Nat) (x : Func) : (putFunc s f x).txt = s.txt := rfl
@[simp] theorem putFunc_fab (f : Nat) (x : Func) : (putFunc s f x).fab = s.fab := rfl
@[simp] theorem putFunc_pool (f : Nat) (x : Func) : (putFunc s f x).pool = s.pool := rfl
@[simp] theorem putFunc_evt (f : Nat) (x : Func) : (putFunc s f x).evt = s.evt := rfl
@[simp] theorem putFunc_pow (f : Nat) (x : Func) : (putFunc s f x).pow = s.pow := rfl
@[simp] theorem putFunc_cnt (f : Nat) (x : Func) : (putFunc s f x).cnt = s.cnt := rfl

/-! #### putCtx -/

@[simp] theorem putCtx_pending (c : Nat) (x : Ctx) : (putCtx s c x).pending = s.pending := rfl
@[simp] theorem putCtx_free (c : Nat) (x : Ctx) : (putCtx s c x).free = s.free := rfl
@[simp] theorem putCtx_io (c : Nat) (x : Ctx) : (putCtx s c x).io = s.io := rfl
@[simp] theorem putCtx_aon (c : Nat) (x : Ctx) : (putCtx s c x).aon = s.aon := rfl
@[simp] theorem putCtx_clk (c : Nat) (x : Ctx) : (putCtx s c x).clk = s.clk := rfl
@[simp] theorem putCtx_mach (c : Nat) (x : Ctx) : (putCtx s c x).mach = s.mach := rfl
@[simp] theorem putCtx_host (c : Nat) (x : Ctx) : (putCtx s c x).host = s.host := rfl
@[simp] theorem putCtx_funcs (c : Nat) (x : Ctx) : (putCtx s c x).funcs = s.funcs := rfl
@[simp] theorem putCtx_ctxs (c : Nat) (x : Ctx) : (putCtx s c x).ctxs = tput Ctx.reset s.ctxs c x := rfl
@[simp] theorem putCtx_shards (c : Nat) (x : Ctx) : (putCtx s c x).shards = s.shards := rfl
@[simp] theorem putCtx_copies (c : Nat) (x : Ctx) : (putCtx s c x).copies = s.copies := rfl
@[simp] theorem putCtx_mbxDue (c : Nat) (x : Ctx) : (putCtx s c x).mbxDue = s.mbxDue := rfl
@[simp] theorem putCtx_plan (c : Nat) (x : Ctx) : (putCtx s c x).plan = s.plan := rfl
@[simp] theorem putCtx_tiles (c : Nat) (x : Ctx) : (putCtx s c x).tiles = s.tiles := rfl
@[simp] theorem putCtx_pods (c : Nat) (x : Ctx) : (putCtx s c x).pods = s.pods := rfl
@[simp] theorem putCtx_tileFault (c : Nat) (x : Ctx) : (putCtx s c x).tileFault = s.tileFault := rfl
@[simp] theorem putCtx_podFault (c : Nat) (x : Ctx) : (putCtx s c x).podFault = s.podFault := rfl
@[simp] theorem putCtx_elems (c : Nat) (x : Ctx) : (putCtx s c x).elems = s.elems := rfl
@[simp] theorem putCtx_nextElem (c : Nat) (x : Ctx) : (putCtx s c x).nextElem = s.nextElem := rfl
@[simp] theorem putCtx_memWrites (c : Nat) (x : Ctx) : (putCtx s c x).memWrites = s.memWrites := rfl
@[simp] theorem putCtx_dirWrites (c : Nat) (x : Ctx) : (putCtx s c x).dirWrites = s.dirWrites := rfl
@[simp] theorem putCtx_mem (c : Nat) (x : Ctx) : (putCtx s c x).mem = s.mem := rfl
@[simp] theorem putCtx_raw (c : Nat) (x : Ctx) : (putCtx s c x).raw = s.raw := rfl
@[simp] theorem putCtx_stk (c : Nat) (x : Ctx) : (putCtx s c x).stk = s.stk := rfl
@[simp] theorem putCtx_upd (c : Nat) (x : Ctx) : (putCtx s c x).upd = s.upd := rfl
@[simp] theorem putCtx_fl (c : Nat) (x : Ctx) : (putCtx s c x).fl = s.fl := rfl
@[simp] theorem putCtx_txt (c : Nat) (x : Ctx) : (putCtx s c x).txt = s.txt := rfl
@[simp] theorem putCtx_fab (c : Nat) (x : Ctx) : (putCtx s c x).fab = s.fab := rfl
@[simp] theorem putCtx_pool (c : Nat) (x : Ctx) : (putCtx s c x).pool = s.pool := rfl
@[simp] theorem putCtx_evt (c : Nat) (x : Ctx) : (putCtx s c x).evt = s.evt := rfl
@[simp] theorem putCtx_pow (c : Nat) (x : Ctx) : (putCtx s c x).pow = s.pow := rfl
@[simp] theorem putCtx_cnt (c : Nat) (x : Ctx) : (putCtx s c x).cnt = s.cnt := rfl

/-! #### putShard -/

@[simp] theorem putShard_pending (c sh : Nat) (e : ShardEnt) : (putShard s c sh e).pending = s.pending := rfl
@[simp] theorem putShard_free (c sh : Nat) (e : ShardEnt) : (putShard s c sh e).free = s.free := rfl
@[simp] theorem putShard_io (c sh : Nat) (e : ShardEnt) : (putShard s c sh e).io = s.io := rfl
@[simp] theorem putShard_aon (c sh : Nat) (e : ShardEnt) : (putShard s c sh e).aon = s.aon := rfl
@[simp] theorem putShard_clk (c sh : Nat) (e : ShardEnt) : (putShard s c sh e).clk = s.clk := rfl
@[simp] theorem putShard_mach (c sh : Nat) (e : ShardEnt) : (putShard s c sh e).mach = s.mach := rfl
@[simp] theorem putShard_host (c sh : Nat) (e : ShardEnt) : (putShard s c sh e).host = s.host := rfl
@[simp] theorem putShard_funcs (c sh : Nat) (e : ShardEnt) : (putShard s c sh e).funcs = s.funcs := rfl
@[simp] theorem putShard_ctxs (c sh : Nat) (e : ShardEnt) : (putShard s c sh e).ctxs = s.ctxs := rfl
@[simp] theorem putShard_shards (c sh : Nat) (e : ShardEnt) : (putShard s c sh e).shards = tput ShardEnt.reset s.shards (shardKey c sh) e := rfl
@[simp] theorem putShard_copies (c sh : Nat) (e : ShardEnt) : (putShard s c sh e).copies = s.copies := rfl
@[simp] theorem putShard_mbxDue (c sh : Nat) (e : ShardEnt) : (putShard s c sh e).mbxDue = s.mbxDue := rfl
@[simp] theorem putShard_plan (c sh : Nat) (e : ShardEnt) : (putShard s c sh e).plan = s.plan := rfl
@[simp] theorem putShard_tiles (c sh : Nat) (e : ShardEnt) : (putShard s c sh e).tiles = s.tiles := rfl
@[simp] theorem putShard_pods (c sh : Nat) (e : ShardEnt) : (putShard s c sh e).pods = s.pods := rfl
@[simp] theorem putShard_tileFault (c sh : Nat) (e : ShardEnt) : (putShard s c sh e).tileFault = s.tileFault := rfl
@[simp] theorem putShard_podFault (c sh : Nat) (e : ShardEnt) : (putShard s c sh e).podFault = s.podFault := rfl
@[simp] theorem putShard_elems (c sh : Nat) (e : ShardEnt) : (putShard s c sh e).elems = s.elems := rfl
@[simp] theorem putShard_nextElem (c sh : Nat) (e : ShardEnt) : (putShard s c sh e).nextElem = s.nextElem := rfl
@[simp] theorem putShard_memWrites (c sh : Nat) (e : ShardEnt) : (putShard s c sh e).memWrites = s.memWrites := rfl
@[simp] theorem putShard_dirWrites (c sh : Nat) (e : ShardEnt) : (putShard s c sh e).dirWrites = s.dirWrites := rfl
@[simp] theorem putShard_mem (c sh : Nat) (e : ShardEnt) : (putShard s c sh e).mem = s.mem := rfl
@[simp] theorem putShard_raw (c sh : Nat) (e : ShardEnt) : (putShard s c sh e).raw = s.raw := rfl
@[simp] theorem putShard_stk (c sh : Nat) (e : ShardEnt) : (putShard s c sh e).stk = s.stk := rfl
@[simp] theorem putShard_upd (c sh : Nat) (e : ShardEnt) : (putShard s c sh e).upd = s.upd := rfl
@[simp] theorem putShard_fl (c sh : Nat) (e : ShardEnt) : (putShard s c sh e).fl = s.fl := rfl
@[simp] theorem putShard_txt (c sh : Nat) (e : ShardEnt) : (putShard s c sh e).txt = s.txt := rfl
@[simp] theorem putShard_fab (c sh : Nat) (e : ShardEnt) : (putShard s c sh e).fab = s.fab := rfl
@[simp] theorem putShard_pool (c sh : Nat) (e : ShardEnt) : (putShard s c sh e).pool = s.pool := rfl
@[simp] theorem putShard_evt (c sh : Nat) (e : ShardEnt) : (putShard s c sh e).evt = s.evt := rfl
@[simp] theorem putShard_pow (c sh : Nat) (e : ShardEnt) : (putShard s c sh e).pow = s.pow := rfl
@[simp] theorem putShard_cnt (c sh : Nat) (e : ShardEnt) : (putShard s c sh e).cnt = s.cnt := rfl

/-! #### putCopy -/

@[simp] theorem putCopy_pending (c sh : Nat) (x : Option ShardCopy) : (putCopy s c sh x).pending = s.pending := rfl
@[simp] theorem putCopy_free (c sh : Nat) (x : Option ShardCopy) : (putCopy s c sh x).free = s.free := rfl
@[simp] theorem putCopy_io (c sh : Nat) (x : Option ShardCopy) : (putCopy s c sh x).io = s.io := rfl
@[simp] theorem putCopy_aon (c sh : Nat) (x : Option ShardCopy) : (putCopy s c sh x).aon = s.aon := rfl
@[simp] theorem putCopy_clk (c sh : Nat) (x : Option ShardCopy) : (putCopy s c sh x).clk = s.clk := rfl
@[simp] theorem putCopy_mach (c sh : Nat) (x : Option ShardCopy) : (putCopy s c sh x).mach = s.mach := rfl
@[simp] theorem putCopy_host (c sh : Nat) (x : Option ShardCopy) : (putCopy s c sh x).host = s.host := rfl
@[simp] theorem putCopy_funcs (c sh : Nat) (x : Option ShardCopy) : (putCopy s c sh x).funcs = s.funcs := rfl
@[simp] theorem putCopy_ctxs (c sh : Nat) (x : Option ShardCopy) : (putCopy s c sh x).ctxs = s.ctxs := rfl
@[simp] theorem putCopy_shards (c sh : Nat) (x : Option ShardCopy) : (putCopy s c sh x).shards = s.shards := rfl
@[simp] theorem putCopy_copies (c sh : Nat) (x : Option ShardCopy) : (putCopy s c sh x).copies = tput none s.copies (shardKey c sh) x := rfl
@[simp] theorem putCopy_mbxDue (c sh : Nat) (x : Option ShardCopy) : (putCopy s c sh x).mbxDue = s.mbxDue := rfl
@[simp] theorem putCopy_plan (c sh : Nat) (x : Option ShardCopy) : (putCopy s c sh x).plan = s.plan := rfl
@[simp] theorem putCopy_tiles (c sh : Nat) (x : Option ShardCopy) : (putCopy s c sh x).tiles = s.tiles := rfl
@[simp] theorem putCopy_pods (c sh : Nat) (x : Option ShardCopy) : (putCopy s c sh x).pods = s.pods := rfl
@[simp] theorem putCopy_tileFault (c sh : Nat) (x : Option ShardCopy) : (putCopy s c sh x).tileFault = s.tileFault := rfl
@[simp] theorem putCopy_podFault (c sh : Nat) (x : Option ShardCopy) : (putCopy s c sh x).podFault = s.podFault := rfl
@[simp] theorem putCopy_elems (c sh : Nat) (x : Option ShardCopy) : (putCopy s c sh x).elems = s.elems := rfl
@[simp] theorem putCopy_nextElem (c sh : Nat) (x : Option ShardCopy) : (putCopy s c sh x).nextElem = s.nextElem := rfl
@[simp] theorem putCopy_memWrites (c sh : Nat) (x : Option ShardCopy) : (putCopy s c sh x).memWrites = s.memWrites := rfl
@[simp] theorem putCopy_dirWrites (c sh : Nat) (x : Option ShardCopy) : (putCopy s c sh x).dirWrites = s.dirWrites := rfl
@[simp] theorem putCopy_mem (c sh : Nat) (x : Option ShardCopy) : (putCopy s c sh x).mem = s.mem := rfl
@[simp] theorem putCopy_raw (c sh : Nat) (x : Option ShardCopy) : (putCopy s c sh x).raw = s.raw := rfl
@[simp] theorem putCopy_stk (c sh : Nat) (x : Option ShardCopy) : (putCopy s c sh x).stk = s.stk := rfl
@[simp] theorem putCopy_upd (c sh : Nat) (x : Option ShardCopy) : (putCopy s c sh x).upd = s.upd := rfl
@[simp] theorem putCopy_fl (c sh : Nat) (x : Option ShardCopy) : (putCopy s c sh x).fl = s.fl := rfl
@[simp] theorem putCopy_txt (c sh : Nat) (x : Option ShardCopy) : (putCopy s c sh x).txt = s.txt := rfl
@[simp] theorem putCopy_fab (c sh : Nat) (x : Option ShardCopy) : (putCopy s c sh x).fab = s.fab := rfl
@[simp] theorem putCopy_pool (c sh : Nat) (x : Option ShardCopy) : (putCopy s c sh x).pool = s.pool := rfl
@[simp] theorem putCopy_evt (c sh : Nat) (x : Option ShardCopy) : (putCopy s c sh x).evt = s.evt := rfl
@[simp] theorem putCopy_pow (c sh : Nat) (x : Option ShardCopy) : (putCopy s c sh x).pow = s.pow := rfl
@[simp] theorem putCopy_cnt (c sh : Nat) (x : Option ShardCopy) : (putCopy s c sh x).cnt = s.cnt := rfl

/-! #### memWrite -/

@[simp] theorem memWrite_pending (a : Nat) (d : List Byte) : (memWrite s a d).pending = s.pending := rfl
@[simp] theorem memWrite_free (a : Nat) (d : List Byte) : (memWrite s a d).free = s.free := rfl
@[simp] theorem memWrite_io (a : Nat) (d : List Byte) : (memWrite s a d).io = s.io := rfl
@[simp] theorem memWrite_aon (a : Nat) (d : List Byte) : (memWrite s a d).aon = s.aon := rfl
@[simp] theorem memWrite_clk (a : Nat) (d : List Byte) : (memWrite s a d).clk = s.clk := rfl
@[simp] theorem memWrite_mach (a : Nat) (d : List Byte) : (memWrite s a d).mach = s.mach := rfl
@[simp] theorem memWrite_host (a : Nat) (d : List Byte) : (memWrite s a d).host = s.host := rfl
@[simp] theorem memWrite_funcs (a : Nat) (d : List Byte) : (memWrite s a d).funcs = s.funcs := rfl
@[simp] theorem memWrite_ctxs (a : Nat) (d : List Byte) : (memWrite s a d).ctxs = s.ctxs := rfl
@[simp] theorem memWrite_shards (a : Nat) (d : List Byte) : (memWrite s a d).shards = s.shards := rfl
@[simp] theorem memWrite_copies (a : Nat) (d : List Byte) : (memWrite s a d).copies = s.copies := rfl
@[simp] theorem memWrite_mbxDue (a : Nat) (d : List Byte) : (memWrite s a d).mbxDue = s.mbxDue := rfl
@[simp] theorem memWrite_plan (a : Nat) (d : List Byte) : (memWrite s a d).plan = s.plan := rfl
@[simp] theorem memWrite_tiles (a : Nat) (d : List Byte) : (memWrite s a d).tiles = s.tiles := rfl
@[simp] theorem memWrite_pods (a : Nat) (d : List Byte) : (memWrite s a d).pods = s.pods := rfl
@[simp] theorem memWrite_tileFault (a : Nat) (d : List Byte) : (memWrite s a d).tileFault = s.tileFault := rfl
@[simp] theorem memWrite_podFault (a : Nat) (d : List Byte) : (memWrite s a d).podFault = s.podFault := rfl
@[simp] theorem memWrite_elems (a : Nat) (d : List Byte) : (memWrite s a d).elems = s.elems := rfl
@[simp] theorem memWrite_nextElem (a : Nat) (d : List Byte) : (memWrite s a d).nextElem = s.nextElem := rfl
@[simp] theorem memWrite_memWrites (a : Nat) (d : List Byte) : (memWrite s a d).memWrites = s.memWrites := rfl
@[simp] theorem memWrite_dirWrites (a : Nat) (d : List Byte) : (memWrite s a d).dirWrites = s.dirWrites := rfl
@[simp] theorem memWrite_mem (a : Nat) (d : List Byte) : (memWrite s a d).mem = writeBytes s.mem a d := rfl
@[simp] theorem memWrite_raw (a : Nat) (d : List Byte) : (memWrite s a d).raw = dropRaw s.raw a d.length := rfl
@[simp] theorem memWrite_stk (a : Nat) (d : List Byte) : (memWrite s a d).stk = s.stk := rfl
@[simp] theorem memWrite_upd (a : Nat) (d : List Byte) : (memWrite s a d).upd = s.upd := rfl
@[simp] theorem memWrite_fl (a : Nat) (d : List Byte) : (memWrite s a d).fl = s.fl := rfl
@[simp] theorem memWrite_txt (a : Nat) (d : List Byte) : (memWrite s a d).txt = s.txt := rfl
@[simp] theorem memWrite_fab (a : Nat) (d : List Byte) : (memWrite s a d).fab = s.fab := rfl
@[simp] theorem memWrite_pool (a : Nat) (d : List Byte) : (memWrite s a d).pool = s.pool := rfl
@[simp] theorem memWrite_evt (a : Nat) (d : List Byte) : (memWrite s a d).evt = s.evt := rfl
@[simp] theorem memWrite_pow (a : Nat) (d : List Byte) : (memWrite s a d).pow = s.pow := rfl
@[simp] theorem memWrite_cnt (a : Nat) (d : List Byte) : (memWrite s a d).cnt = s.cnt := rfl

/-! #### putAdm -/

@[simp] theorem putAdm_pending (k : Nat) (a : Option Adm) : (putAdm s k a).pending = s.pending := rfl
@[simp] theorem putAdm_free (k : Nat) (a : Option Adm) : (putAdm s k a).free = s.free := rfl
@[simp] theorem putAdm_io (k : Nat) (a : Option Adm) : (putAdm s k a).io = s.io := rfl
@[simp] theorem putAdm_aon (k : Nat) (a : Option Adm) : (putAdm s k a).aon = s.aon := rfl
@[simp] theorem putAdm_clk (k : Nat) (a : Option Adm) : (putAdm s k a).clk = s.clk := rfl
@[simp] theorem putAdm_mach (k : Nat) (a : Option Adm) : (putAdm s k a).mach = s.mach := rfl
@[simp] theorem putAdm_host (k : Nat) (a : Option Adm) : (putAdm s k a).host = { s.host with admitted := tput none s.host.admitted k a } := rfl
@[simp] theorem putAdm_funcs (k : Nat) (a : Option Adm) : (putAdm s k a).funcs = s.funcs := rfl
@[simp] theorem putAdm_ctxs (k : Nat) (a : Option Adm) : (putAdm s k a).ctxs = s.ctxs := rfl
@[simp] theorem putAdm_shards (k : Nat) (a : Option Adm) : (putAdm s k a).shards = s.shards := rfl
@[simp] theorem putAdm_copies (k : Nat) (a : Option Adm) : (putAdm s k a).copies = s.copies := rfl
@[simp] theorem putAdm_mbxDue (k : Nat) (a : Option Adm) : (putAdm s k a).mbxDue = s.mbxDue := rfl
@[simp] theorem putAdm_plan (k : Nat) (a : Option Adm) : (putAdm s k a).plan = s.plan := rfl
@[simp] theorem putAdm_tiles (k : Nat) (a : Option Adm) : (putAdm s k a).tiles = s.tiles := rfl
@[simp] theorem putAdm_pods (k : Nat) (a : Option Adm) : (putAdm s k a).pods = s.pods := rfl
@[simp] theorem putAdm_tileFault (k : Nat) (a : Option Adm) : (putAdm s k a).tileFault = s.tileFault := rfl
@[simp] theorem putAdm_podFault (k : Nat) (a : Option Adm) : (putAdm s k a).podFault = s.podFault := rfl
@[simp] theorem putAdm_elems (k : Nat) (a : Option Adm) : (putAdm s k a).elems = s.elems := rfl
@[simp] theorem putAdm_nextElem (k : Nat) (a : Option Adm) : (putAdm s k a).nextElem = s.nextElem := rfl
@[simp] theorem putAdm_memWrites (k : Nat) (a : Option Adm) : (putAdm s k a).memWrites = s.memWrites := rfl
@[simp] theorem putAdm_dirWrites (k : Nat) (a : Option Adm) : (putAdm s k a).dirWrites = s.dirWrites := rfl
@[simp] theorem putAdm_mem (k : Nat) (a : Option Adm) : (putAdm s k a).mem = s.mem := rfl
@[simp] theorem putAdm_raw (k : Nat) (a : Option Adm) : (putAdm s k a).raw = s.raw := rfl
@[simp] theorem putAdm_stk (k : Nat) (a : Option Adm) : (putAdm s k a).stk = s.stk := rfl
@[simp] theorem putAdm_upd (k : Nat) (a : Option Adm) : (putAdm s k a).upd = s.upd := rfl
@[simp] theorem putAdm_fl (k : Nat) (a : Option Adm) : (putAdm s k a).fl = s.fl := rfl
@[simp] theorem putAdm_txt (k : Nat) (a : Option Adm) : (putAdm s k a).txt = s.txt := rfl
@[simp] theorem putAdm_fab (k : Nat) (a : Option Adm) : (putAdm s k a).fab = s.fab := rfl
@[simp] theorem putAdm_pool (k : Nat) (a : Option Adm) : (putAdm s k a).pool = s.pool := rfl
@[simp] theorem putAdm_evt (k : Nat) (a : Option Adm) : (putAdm s k a).evt = s.evt := rfl
@[simp] theorem putAdm_pow (k : Nat) (a : Option Adm) : (putAdm s k a).pow = s.pow := rfl
@[simp] theorem putAdm_cnt (k : Nat) (a : Option Adm) : (putAdm s k a).cnt = s.cnt := rfl

/-! #### putBean -/

@[simp] theorem putBean_pending (b : Nat) (x : Bean) : (putBean s b x).pending = s.pending := rfl
@[simp] theorem putBean_free (b : Nat) (x : Bean) : (putBean s b x).free = s.free := rfl
@[simp] theorem putBean_io (b : Nat) (x : Bean) : (putBean s b x).io = s.io := rfl
@[simp] theorem putBean_aon (b : Nat) (x : Bean) : (putBean s b x).aon = s.aon := rfl
@[simp] theorem putBean_clk (b : Nat) (x : Bean) : (putBean s b x).clk = s.clk := rfl
@[simp] theorem putBean_mach (b : Nat) (x : Bean) : (putBean s b x).mach = s.mach := rfl
@[simp] theorem putBean_host (b : Nat) (x : Bean) : (putBean s b x).host = s.host := rfl
@[simp] theorem putBean_funcs (b : Nat) (x : Bean) : (putBean s b x).funcs = s.funcs := rfl
@[simp] theorem putBean_ctxs (b : Nat) (x : Bean) : (putBean s b x).ctxs = s.ctxs := rfl
@[simp] theorem putBean_shards (b : Nat) (x : Bean) : (putBean s b x).shards = s.shards := rfl
@[simp] theorem putBean_copies (b : Nat) (x : Bean) : (putBean s b x).copies = s.copies := rfl
@[simp] theorem putBean_mbxDue (b : Nat) (x : Bean) : (putBean s b x).mbxDue = s.mbxDue := rfl
@[simp] theorem putBean_plan (b : Nat) (x : Bean) : (putBean s b x).plan = s.plan := rfl
@[simp] theorem putBean_tiles (b : Nat) (x : Bean) : (putBean s b x).tiles = s.tiles := rfl
@[simp] theorem putBean_pods (b : Nat) (x : Bean) : (putBean s b x).pods = s.pods := rfl
@[simp] theorem putBean_tileFault (b : Nat) (x : Bean) : (putBean s b x).tileFault = s.tileFault := rfl
@[simp] theorem putBean_podFault (b : Nat) (x : Bean) : (putBean s b x).podFault = s.podFault := rfl
@[simp] theorem putBean_elems (b : Nat) (x : Bean) : (putBean s b x).elems = s.elems := rfl
@[simp] theorem putBean_nextElem (b : Nat) (x : Bean) : (putBean s b x).nextElem = s.nextElem := rfl
@[simp] theorem putBean_memWrites (b : Nat) (x : Bean) : (putBean s b x).memWrites = s.memWrites := rfl
@[simp] theorem putBean_dirWrites (b : Nat) (x : Bean) : (putBean s b x).dirWrites = s.dirWrites := rfl
@[simp] theorem putBean_mem (b : Nat) (x : Bean) : (putBean s b x).mem = s.mem := rfl
@[simp] theorem putBean_raw (b : Nat) (x : Bean) : (putBean s b x).raw = s.raw := rfl
@[simp] theorem putBean_stk (b : Nat) (x : Bean) : (putBean s b x).stk = { s.stk with beans := tput Bean.reset s.stk.beans b x } := rfl
@[simp] theorem putBean_upd (b : Nat) (x : Bean) : (putBean s b x).upd = s.upd := rfl
@[simp] theorem putBean_fl (b : Nat) (x : Bean) : (putBean s b x).fl = s.fl := rfl
@[simp] theorem putBean_txt (b : Nat) (x : Bean) : (putBean s b x).txt = s.txt := rfl
@[simp] theorem putBean_fab (b : Nat) (x : Bean) : (putBean s b x).fab = s.fab := rfl
@[simp] theorem putBean_pool (b : Nat) (x : Bean) : (putBean s b x).pool = s.pool := rfl
@[simp] theorem putBean_evt (b : Nat) (x : Bean) : (putBean s b x).evt = s.evt := rfl
@[simp] theorem putBean_pow (b : Nat) (x : Bean) : (putBean s b x).pow = s.pow := rfl
@[simp] theorem putBean_cnt (b : Nat) (x : Bean) : (putBean s b x).cnt = s.cnt := rfl

/-! #### putPc -/

@[simp] theorem putPc_pending (k : Nat) (x : PcTrain) : (putPc s k x).pending = s.pending := rfl
@[simp] theorem putPc_free (k : Nat) (x : PcTrain) : (putPc s k x).free = s.free := rfl
@[simp] theorem putPc_io (k : Nat) (x : PcTrain) : (putPc s k x).io = s.io := rfl
@[simp] theorem putPc_aon (k : Nat) (x : PcTrain) : (putPc s k x).aon = s.aon := rfl
@[simp] theorem putPc_clk (k : Nat) (x : PcTrain) : (putPc s k x).clk = s.clk := rfl
@[simp] theorem putPc_mach (k : Nat) (x : PcTrain) : (putPc s k x).mach = s.mach := rfl
@[simp] theorem putPc_host (k : Nat) (x : PcTrain) : (putPc s k x).host = s.host := rfl
@[simp] theorem putPc_funcs (k : Nat) (x : PcTrain) : (putPc s k x).funcs = s.funcs := rfl
@[simp] theorem putPc_ctxs (k : Nat) (x : PcTrain) : (putPc s k x).ctxs = s.ctxs := rfl
@[simp] theorem putPc_shards (k : Nat) (x : PcTrain) : (putPc s k x).shards = s.shards := rfl
@[simp] theorem putPc_copies (k : Nat) (x : PcTrain) : (putPc s k x).copies = s.copies := rfl
@[simp] theorem putPc_mbxDue (k : Nat) (x : PcTrain) : (putPc s k x).mbxDue = s.mbxDue := rfl
@[simp] theorem putPc_plan (k : Nat) (x : PcTrain) : (putPc s k x).plan = s.plan := rfl
@[simp] theorem putPc_tiles (k : Nat) (x : PcTrain) : (putPc s k x).tiles = s.tiles := rfl
@[simp] theorem putPc_pods (k : Nat) (x : PcTrain) : (putPc s k x).pods = s.pods := rfl
@[simp] theorem putPc_tileFault (k : Nat) (x : PcTrain) : (putPc s k x).tileFault = s.tileFault := rfl
@[simp] theorem putPc_podFault (k : Nat) (x : PcTrain) : (putPc s k x).podFault = s.podFault := rfl
@[simp] theorem putPc_elems (k : Nat) (x : PcTrain) : (putPc s k x).elems = s.elems := rfl
@[simp] theorem putPc_nextElem (k : Nat) (x : PcTrain) : (putPc s k x).nextElem = s.nextElem := rfl
@[simp] theorem putPc_memWrites (k : Nat) (x : PcTrain) : (putPc s k x).memWrites = s.memWrites := rfl
@[simp] theorem putPc_dirWrites (k : Nat) (x : PcTrain) : (putPc s k x).dirWrites = s.dirWrites := rfl
@[simp] theorem putPc_mem (k : Nat) (x : PcTrain) : (putPc s k x).mem = s.mem := rfl
@[simp] theorem putPc_raw (k : Nat) (x : PcTrain) : (putPc s k x).raw = s.raw := rfl
@[simp] theorem putPc_stk (k : Nat) (x : PcTrain) : (putPc s k x).stk = { s.stk with pcs := tput PcTrain.reset s.stk.pcs k x } := rfl
@[simp] theorem putPc_upd (k : Nat) (x : PcTrain) : (putPc s k x).upd = s.upd := rfl
@[simp] theorem putPc_fl (k : Nat) (x : PcTrain) : (putPc s k x).fl = s.fl := rfl
@[simp] theorem putPc_txt (k : Nat) (x : PcTrain) : (putPc s k x).txt = s.txt := rfl
@[simp] theorem putPc_fab (k : Nat) (x : PcTrain) : (putPc s k x).fab = s.fab := rfl
@[simp] theorem putPc_pool (k : Nat) (x : PcTrain) : (putPc s k x).pool = s.pool := rfl
@[simp] theorem putPc_evt (k : Nat) (x : PcTrain) : (putPc s k x).evt = s.evt := rfl
@[simp] theorem putPc_pow (k : Nat) (x : PcTrain) : (putPc s k x).pow = s.pow := rfl
@[simp] theorem putPc_cnt (k : Nat) (x : PcTrain) : (putPc s k x).cnt = s.cnt := rfl

/-! #### putChg -/

@[simp] theorem putChg_pending (e : Nat) (x : Chg) : (putChg s e x).pending = s.pending := rfl
@[simp] theorem putChg_free (e : Nat) (x : Chg) : (putChg s e x).free = s.free := rfl
@[simp] theorem putChg_io (e : Nat) (x : Chg) : (putChg s e x).io = s.io := rfl
@[simp] theorem putChg_aon (e : Nat) (x : Chg) : (putChg s e x).aon = s.aon := rfl
@[simp] theorem putChg_clk (e : Nat) (x : Chg) : (putChg s e x).clk = s.clk := rfl
@[simp] theorem putChg_mach (e : Nat) (x : Chg) : (putChg s e x).mach = s.mach := rfl
@[simp] theorem putChg_host (e : Nat) (x : Chg) : (putChg s e x).host = s.host := rfl
@[simp] theorem putChg_funcs (e : Nat) (x : Chg) : (putChg s e x).funcs = s.funcs := rfl
@[simp] theorem putChg_ctxs (e : Nat) (x : Chg) : (putChg s e x).ctxs = s.ctxs := rfl
@[simp] theorem putChg_shards (e : Nat) (x : Chg) : (putChg s e x).shards = s.shards := rfl
@[simp] theorem putChg_copies (e : Nat) (x : Chg) : (putChg s e x).copies = s.copies := rfl
@[simp] theorem putChg_mbxDue (e : Nat) (x : Chg) : (putChg s e x).mbxDue = s.mbxDue := rfl
@[simp] theorem putChg_plan (e : Nat) (x : Chg) : (putChg s e x).plan = s.plan := rfl
@[simp] theorem putChg_tiles (e : Nat) (x : Chg) : (putChg s e x).tiles = s.tiles := rfl
@[simp] theorem putChg_pods (e : Nat) (x : Chg) : (putChg s e x).pods = s.pods := rfl
@[simp] theorem putChg_tileFault (e : Nat) (x : Chg) : (putChg s e x).tileFault = s.tileFault := rfl
@[simp] theorem putChg_podFault (e : Nat) (x : Chg) : (putChg s e x).podFault = s.podFault := rfl
@[simp] theorem putChg_elems (e : Nat) (x : Chg) : (putChg s e x).elems = s.elems := rfl
@[simp] theorem putChg_nextElem (e : Nat) (x : Chg) : (putChg s e x).nextElem = s.nextElem := rfl
@[simp] theorem putChg_memWrites (e : Nat) (x : Chg) : (putChg s e x).memWrites = s.memWrites := rfl
@[simp] theorem putChg_dirWrites (e : Nat) (x : Chg) : (putChg s e x).dirWrites = s.dirWrites := rfl
@[simp] theorem putChg_mem (e : Nat) (x : Chg) : (putChg s e x).mem = s.mem := rfl
@[simp] theorem putChg_raw (e : Nat) (x : Chg) : (putChg s e x).raw = s.raw := rfl
@[simp] theorem putChg_stk (e : Nat) (x : Chg) : (putChg s e x).stk = s.stk := rfl
@[simp] theorem putChg_upd (e : Nat) (x : Chg) : (putChg s e x).upd = { s.upd with chg := tput Chg.reset s.upd.chg e x } := rfl
@[simp] theorem putChg_fl (e : Nat) (x : Chg) : (putChg s e x).fl = s.fl := rfl
@[simp] theorem putChg_txt (e : Nat) (x : Chg) : (putChg s e x).txt = s.txt := rfl
@[simp] theorem putChg_fab (e : Nat) (x : Chg) : (putChg s e x).fab = s.fab := rfl
@[simp] theorem putChg_pool (e : Nat) (x : Chg) : (putChg s e x).pool = s.pool := rfl
@[simp] theorem putChg_evt (e : Nat) (x : Chg) : (putChg s e x).evt = s.evt := rfl
@[simp] theorem putChg_pow (e : Nat) (x : Chg) : (putChg s e x).pow = s.pow := rfl
@[simp] theorem putChg_cnt (e : Nat) (x : Chg) : (putChg s e x).cnt = s.cnt := rfl

/-! #### putSeg -/

@[simp] theorem putSeg_pending (i : Nat) (x : Seg) : (putSeg s i x).pending = s.pending := rfl
@[simp] theorem putSeg_free (i : Nat) (x : Seg) : (putSeg s i x).free = s.free := rfl
@[simp] theorem putSeg_io (i : Nat) (x : Seg) : (putSeg s i x).io = s.io := rfl
@[simp] theorem putSeg_aon (i : Nat) (x : Seg) : (putSeg s i x).aon = s.aon := rfl
@[simp] theorem putSeg_clk (i : Nat) (x : Seg) : (putSeg s i x).clk = s.clk := rfl
@[simp] theorem putSeg_mach (i : Nat) (x : Seg) : (putSeg s i x).mach = s.mach := rfl
@[simp] theorem putSeg_host (i : Nat) (x : Seg) : (putSeg s i x).host = s.host := rfl
@[simp] theorem putSeg_funcs (i : Nat) (x : Seg) : (putSeg s i x).funcs = s.funcs := rfl
@[simp] theorem putSeg_ctxs (i : Nat) (x : Seg) : (putSeg s i x).ctxs = s.ctxs := rfl
@[simp] theorem putSeg_shards (i : Nat) (x : Seg) : (putSeg s i x).shards = s.shards := rfl
@[simp] theorem putSeg_copies (i : Nat) (x : Seg) : (putSeg s i x).copies = s.copies := rfl
@[simp] theorem putSeg_mbxDue (i : Nat) (x : Seg) : (putSeg s i x).mbxDue = s.mbxDue := rfl
@[simp] theorem putSeg_plan (i : Nat) (x : Seg) : (putSeg s i x).plan = s.plan := rfl
@[simp] theorem putSeg_tiles (i : Nat) (x : Seg) : (putSeg s i x).tiles = s.tiles := rfl
@[simp] theorem putSeg_pods (i : Nat) (x : Seg) : (putSeg s i x).pods = s.pods := rfl
@[simp] theorem putSeg_tileFault (i : Nat) (x : Seg) : (putSeg s i x).tileFault = s.tileFault := rfl
@[simp] theorem putSeg_podFault (i : Nat) (x : Seg) : (putSeg s i x).podFault = s.podFault := rfl
@[simp] theorem putSeg_elems (i : Nat) (x : Seg) : (putSeg s i x).elems = s.elems := rfl
@[simp] theorem putSeg_nextElem (i : Nat) (x : Seg) : (putSeg s i x).nextElem = s.nextElem := rfl
@[simp] theorem putSeg_memWrites (i : Nat) (x : Seg) : (putSeg s i x).memWrites = s.memWrites := rfl
@[simp] theorem putSeg_dirWrites (i : Nat) (x : Seg) : (putSeg s i x).dirWrites = s.dirWrites := rfl
@[simp] theorem putSeg_mem (i : Nat) (x : Seg) : (putSeg s i x).mem = s.mem := rfl
@[simp] theorem putSeg_raw (i : Nat) (x : Seg) : (putSeg s i x).raw = s.raw := rfl
@[simp] theorem putSeg_stk (i : Nat) (x : Seg) : (putSeg s i x).stk = s.stk := rfl
@[simp] theorem putSeg_upd (i : Nat) (x : Seg) : (putSeg s i x).upd = s.upd := rfl
@[simp] theorem putSeg_fl (i : Nat) (x : Seg) : (putSeg s i x).fl = { s.fl with segs := tput Seg.reset s.fl.segs i x } := rfl
@[simp] theorem putSeg_txt (i : Nat) (x : Seg) : (putSeg s i x).txt = s.txt := rfl
@[simp] theorem putSeg_fab (i : Nat) (x : Seg) : (putSeg s i x).fab = s.fab := rfl
@[simp] theorem putSeg_pool (i : Nat) (x : Seg) : (putSeg s i x).pool = s.pool := rfl
@[simp] theorem putSeg_evt (i : Nat) (x : Seg) : (putSeg s i x).evt = s.evt := rfl
@[simp] theorem putSeg_pow (i : Nat) (x : Seg) : (putSeg s i x).pow = s.pow := rfl
@[simp] theorem putSeg_cnt (i : Nat) (x : Seg) : (putSeg s i x).cnt = s.cnt := rfl

/-! #### putLun -/

@[simp] theorem putLun_pending (i : Nat) (x : Lun) : (putLun s i x).pending = s.pending := rfl
@[simp] theorem putLun_free (i : Nat) (x : Lun) : (putLun s i x).free = s.free := rfl
@[simp] theorem putLun_io (i : Nat) (x : Lun) : (putLun s i x).io = s.io := rfl
@[simp] theorem putLun_aon (i : Nat) (x : Lun) : (putLun s i x).aon = s.aon := rfl
@[simp] theorem putLun_clk (i : Nat) (x : Lun) : (putLun s i x).clk = s.clk := rfl
@[simp] theorem putLun_mach (i : Nat) (x : Lun) : (putLun s i x).mach = s.mach := rfl
@[simp] theorem putLun_host (i : Nat) (x : Lun) : (putLun s i x).host = s.host := rfl
@[simp] theorem putLun_funcs (i : Nat) (x : Lun) : (putLun s i x).funcs = s.funcs := rfl
@[simp] theorem putLun_ctxs (i : Nat) (x : Lun) : (putLun s i x).ctxs = s.ctxs := rfl
@[simp] theorem putLun_shards (i : Nat) (x : Lun) : (putLun s i x).shards = s.shards := rfl
@[simp] theorem putLun_copies (i : Nat) (x : Lun) : (putLun s i x).copies = s.copies := rfl
@[simp] theorem putLun_mbxDue (i : Nat) (x : Lun) : (putLun s i x).mbxDue = s.mbxDue := rfl
@[simp] theorem putLun_plan (i : Nat) (x : Lun) : (putLun s i x).plan = s.plan := rfl
@[simp] theorem putLun_tiles (i : Nat) (x : Lun) : (putLun s i x).tiles = s.tiles := rfl
@[simp] theorem putLun_pods (i : Nat) (x : Lun) : (putLun s i x).pods = s.pods := rfl
@[simp] theorem putLun_tileFault (i : Nat) (x : Lun) : (putLun s i x).tileFault = s.tileFault := rfl
@[simp] theorem putLun_podFault (i : Nat) (x : Lun) : (putLun s i x).podFault = s.podFault := rfl
@[simp] theorem putLun_elems (i : Nat) (x : Lun) : (putLun s i x).elems = s.elems := rfl
@[simp] theorem putLun_nextElem (i : Nat) (x : Lun) : (putLun s i x).nextElem = s.nextElem := rfl
@[simp] theorem putLun_memWrites (i : Nat) (x : Lun) : (putLun s i x).memWrites = s.memWrites := rfl
@[simp] theorem putLun_dirWrites (i : Nat) (x : Lun) : (putLun s i x).dirWrites = s.dirWrites := rfl
@[simp] theorem putLun_mem (i : Nat) (x : Lun) : (putLun s i x).mem = s.mem := rfl
@[simp] theorem putLun_raw (i : Nat) (x : Lun) : (putLun s i x).raw = s.raw := rfl
@[simp] theorem putLun_stk (i : Nat) (x : Lun) : (putLun s i x).stk = s.stk := rfl
@[simp] theorem putLun_upd (i : Nat) (x : Lun) : (putLun s i x).upd = s.upd := rfl
@[simp] theorem putLun_fl (i : Nat) (x : Lun) : (putLun s i x).fl = { s.fl with luns := tput Lun.reset s.fl.luns i x } := rfl
@[simp] theorem putLun_txt (i : Nat) (x : Lun) : (putLun s i x).txt = s.txt := rfl
@[simp] theorem putLun_fab (i : Nat) (x : Lun) : (putLun s i x).fab = s.fab := rfl
@[simp] theorem putLun_pool (i : Nat) (x : Lun) : (putLun s i x).pool = s.pool := rfl
@[simp] theorem putLun_evt (i : Nat) (x : Lun) : (putLun s i x).evt = s.evt := rfl
@[simp] theorem putLun_pow (i : Nat) (x : Lun) : (putLun s i x).pow = s.pow := rfl
@[simp] theorem putLun_cnt (i : Nat) (x : Lun) : (putLun s i x).cnt = s.cnt := rfl

/-! #### putCw -/

@[simp] theorem putCw_pending (k : Nat) (x : Option (CtxId × List Byte)) : (putCw s k x).pending = s.pending := rfl
@[simp] theorem putCw_free (k : Nat) (x : Option (CtxId × List Byte)) : (putCw s k x).free = s.free := rfl
@[simp] theorem putCw_io (k : Nat) (x : Option (CtxId × List Byte)) : (putCw s k x).io = s.io := rfl
@[simp] theorem putCw_aon (k : Nat) (x : Option (CtxId × List Byte)) : (putCw s k x).aon = s.aon := rfl
@[simp] theorem putCw_clk (k : Nat) (x : Option (CtxId × List Byte)) : (putCw s k x).clk = s.clk := rfl
@[simp] theorem putCw_mach (k : Nat) (x : Option (CtxId × List Byte)) : (putCw s k x).mach = s.mach := rfl
@[simp] theorem putCw_host (k : Nat) (x : Option (CtxId × List Byte)) : (putCw s k x).host = s.host := rfl
@[simp] theorem putCw_funcs (k : Nat) (x : Option (CtxId × List Byte)) : (putCw s k x).funcs = s.funcs := rfl
@[simp] theorem putCw_ctxs (k : Nat) (x : Option (CtxId × List Byte)) : (putCw s k x).ctxs = s.ctxs := rfl
@[simp] theorem putCw_shards (k : Nat) (x : Option (CtxId × List Byte)) : (putCw s k x).shards = s.shards := rfl
@[simp] theorem putCw_copies (k : Nat) (x : Option (CtxId × List Byte)) : (putCw s k x).copies = s.copies := rfl
@[simp] theorem putCw_mbxDue (k : Nat) (x : Option (CtxId × List Byte)) : (putCw s k x).mbxDue = s.mbxDue := rfl
@[simp] theorem putCw_plan (k : Nat) (x : Option (CtxId × List Byte)) : (putCw s k x).plan = s.plan := rfl
@[simp] theorem putCw_tiles (k : Nat) (x : Option (CtxId × List Byte)) : (putCw s k x).tiles = s.tiles := rfl
@[simp] theorem putCw_pods (k : Nat) (x : Option (CtxId × List Byte)) : (putCw s k x).pods = s.pods := rfl
@[simp] theorem putCw_tileFault (k : Nat) (x : Option (CtxId × List Byte)) : (putCw s k x).tileFault = s.tileFault := rfl
@[simp] theorem putCw_podFault (k : Nat) (x : Option (CtxId × List Byte)) : (putCw s k x).podFault = s.podFault := rfl
@[simp] theorem putCw_elems (k : Nat) (x : Option (CtxId × List Byte)) : (putCw s k x).elems = s.elems := rfl
@[simp] theorem putCw_nextElem (k : Nat) (x : Option (CtxId × List Byte)) : (putCw s k x).nextElem = s.nextElem := rfl
@[simp] theorem putCw_memWrites (k : Nat) (x : Option (CtxId × List Byte)) : (putCw s k x).memWrites = s.memWrites := rfl
@[simp] theorem putCw_dirWrites (k : Nat) (x : Option (CtxId × List Byte)) : (putCw s k x).dirWrites = s.dirWrites := rfl
@[simp] theorem putCw_mem (k : Nat) (x : Option (CtxId × List Byte)) : (putCw s k x).mem = s.mem := rfl
@[simp] theorem putCw_raw (k : Nat) (x : Option (CtxId × List Byte)) : (putCw s k x).raw = s.raw := rfl
@[simp] theorem putCw_stk (k : Nat) (x : Option (CtxId × List Byte)) : (putCw s k x).stk = s.stk := rfl
@[simp] theorem putCw_upd (k : Nat) (x : Option (CtxId × List Byte)) : (putCw s k x).upd = s.upd := rfl
@[simp] theorem putCw_fl (k : Nat) (x : Option (CtxId × List Byte)) : (putCw s k x).fl = { s.fl with store := tput none s.fl.store k x } := rfl
@[simp] theorem putCw_txt (k : Nat) (x : Option (CtxId × List Byte)) : (putCw s k x).txt = s.txt := rfl
@[simp] theorem putCw_fab (k : Nat) (x : Option (CtxId × List Byte)) : (putCw s k x).fab = s.fab := rfl
@[simp] theorem putCw_pool (k : Nat) (x : Option (CtxId × List Byte)) : (putCw s k x).pool = s.pool := rfl
@[simp] theorem putCw_evt (k : Nat) (x : Option (CtxId × List Byte)) : (putCw s k x).evt = s.evt := rfl
@[simp] theorem putCw_pow (k : Nat) (x : Option (CtxId × List Byte)) : (putCw s k x).pow = s.pow := rfl
@[simp] theorem putCw_cnt (k : Nat) (x : Option (CtxId × List Byte)) : (putCw s k x).cnt = s.cnt := rfl

/-! #### putSeq -/

@[simp] theorem putSeq_pending (k : Nat) (q : Seq) : (putSeq s k q).pending = s.pending := rfl
@[simp] theorem putSeq_free (k : Nat) (q : Seq) : (putSeq s k q).free = s.free := rfl
@[simp] theorem putSeq_io (k : Nat) (q : Seq) : (putSeq s k q).io = s.io := rfl
@[simp] theorem putSeq_aon (k : Nat) (q : Seq) : (putSeq s k q).aon = s.aon := rfl
@[simp] theorem putSeq_clk (k : Nat) (q : Seq) : (putSeq s k q).clk = s.clk := rfl
@[simp] theorem putSeq_mach (k : Nat) (q : Seq) : (putSeq s k q).mach = s.mach := rfl
@[simp] theorem putSeq_host (k : Nat) (q : Seq) : (putSeq s k q).host = s.host := rfl
@[simp] theorem putSeq_funcs (k : Nat) (q : Seq) : (putSeq s k q).funcs = s.funcs := rfl
@[simp] theorem putSeq_ctxs (k : Nat) (q : Seq) : (putSeq s k q).ctxs = s.ctxs := rfl
@[simp] theorem putSeq_shards (k : Nat) (q : Seq) : (putSeq s k q).shards = s.shards := rfl
@[simp] theorem putSeq_copies (k : Nat) (q : Seq) : (putSeq s k q).copies = s.copies := rfl
@[simp] theorem putSeq_mbxDue (k : Nat) (q : Seq) : (putSeq s k q).mbxDue = s.mbxDue := rfl
@[simp] theorem putSeq_plan (k : Nat) (q : Seq) : (putSeq s k q).plan = s.plan := rfl
@[simp] theorem putSeq_tiles (k : Nat) (q : Seq) : (putSeq s k q).tiles = s.tiles := rfl
@[simp] theorem putSeq_pods (k : Nat) (q : Seq) : (putSeq s k q).pods = s.pods := rfl
@[simp] theorem putSeq_tileFault (k : Nat) (q : Seq) : (putSeq s k q).tileFault = s.tileFault := rfl
@[simp] theorem putSeq_podFault (k : Nat) (q : Seq) : (putSeq s k q).podFault = s.podFault := rfl
@[simp] theorem putSeq_elems (k : Nat) (q : Seq) : (putSeq s k q).elems = s.elems := rfl
@[simp] theorem putSeq_nextElem (k : Nat) (q : Seq) : (putSeq s k q).nextElem = s.nextElem := rfl
@[simp] theorem putSeq_memWrites (k : Nat) (q : Seq) : (putSeq s k q).memWrites = s.memWrites := rfl
@[simp] theorem putSeq_dirWrites (k : Nat) (q : Seq) : (putSeq s k q).dirWrites = s.dirWrites := rfl
@[simp] theorem putSeq_mem (k : Nat) (q : Seq) : (putSeq s k q).mem = s.mem := rfl
@[simp] theorem putSeq_raw (k : Nat) (q : Seq) : (putSeq s k q).raw = s.raw := rfl
@[simp] theorem putSeq_stk (k : Nat) (q : Seq) : (putSeq s k q).stk = s.stk := rfl
@[simp] theorem putSeq_upd (k : Nat) (q : Seq) : (putSeq s k q).upd = s.upd := rfl
@[simp] theorem putSeq_fl (k : Nat) (q : Seq) : (putSeq s k q).fl = s.fl := rfl
@[simp] theorem putSeq_txt (k : Nat) (q : Seq) : (putSeq s k q).txt = { s.txt with seqs := tput Seq.reset s.txt.seqs k q } := rfl
@[simp] theorem putSeq_fab (k : Nat) (q : Seq) : (putSeq s k q).fab = s.fab := rfl
@[simp] theorem putSeq_pool (k : Nat) (q : Seq) : (putSeq s k q).pool = s.pool := rfl
@[simp] theorem putSeq_evt (k : Nat) (q : Seq) : (putSeq s k q).evt = s.evt := rfl
@[simp] theorem putSeq_pow (k : Nat) (q : Seq) : (putSeq s k q).pow = s.pow := rfl
@[simp] theorem putSeq_cnt (k : Nat) (q : Seq) : (putSeq s k q).cnt = s.cnt := rfl

/-! #### putLedger -/

@[simp] theorem putLedger_pending (k : Nat) (l : Ledger) : (putLedger s k l).pending = s.pending := rfl
@[simp] theorem putLedger_free (k : Nat) (l : Ledger) : (putLedger s k l).free = s.free := rfl
@[simp] theorem putLedger_io (k : Nat) (l : Ledger) : (putLedger s k l).io = s.io := rfl
@[simp] theorem putLedger_aon (k : Nat) (l : Ledger) : (putLedger s k l).aon = s.aon := rfl
@[simp] theorem putLedger_clk (k : Nat) (l : Ledger) : (putLedger s k l).clk = s.clk := rfl
@[simp] theorem putLedger_mach (k : Nat) (l : Ledger) : (putLedger s k l).mach = s.mach := rfl
@[simp] theorem putLedger_host (k : Nat) (l : Ledger) : (putLedger s k l).host = s.host := rfl
@[simp] theorem putLedger_funcs (k : Nat) (l : Ledger) : (putLedger s k l).funcs = s.funcs := rfl
@[simp] theorem putLedger_ctxs (k : Nat) (l : Ledger) : (putLedger s k l).ctxs = s.ctxs := rfl
@[simp] theorem putLedger_shards (k : Nat) (l : Ledger) : (putLedger s k l).shards = s.shards := rfl
@[simp] theorem putLedger_copies (k : Nat) (l : Ledger) : (putLedger s k l).copies = s.copies := rfl
@[simp] theorem putLedger_mbxDue (k : Nat) (l : Ledger) : (putLedger s k l).mbxDue = s.mbxDue := rfl
@[simp] theorem putLedger_plan (k : Nat) (l : Ledger) : (putLedger s k l).plan = s.plan := rfl
@[simp] theorem putLedger_tiles (k : Nat) (l : Ledger) : (putLedger s k l).tiles = s.tiles := rfl
@[simp] theorem putLedger_pods (k : Nat) (l : Ledger) : (putLedger s k l).pods = s.pods := rfl
@[simp] theorem putLedger_tileFault (k : Nat) (l : Ledger) : (putLedger s k l).tileFault = s.tileFault := rfl
@[simp] theorem putLedger_podFault (k : Nat) (l : Ledger) : (putLedger s k l).podFault = s.podFault := rfl
@[simp] theorem putLedger_elems (k : Nat) (l : Ledger) : (putLedger s k l).elems = s.elems := rfl
@[simp] theorem putLedger_nextElem (k : Nat) (l : Ledger) : (putLedger s k l).nextElem = s.nextElem := rfl
@[simp] theorem putLedger_memWrites (k : Nat) (l : Ledger) : (putLedger s k l).memWrites = s.memWrites := rfl
@[simp] theorem putLedger_dirWrites (k : Nat) (l : Ledger) : (putLedger s k l).dirWrites = s.dirWrites := rfl
@[simp] theorem putLedger_mem (k : Nat) (l : Ledger) : (putLedger s k l).mem = s.mem := rfl
@[simp] theorem putLedger_raw (k : Nat) (l : Ledger) : (putLedger s k l).raw = s.raw := rfl
@[simp] theorem putLedger_stk (k : Nat) (l : Ledger) : (putLedger s k l).stk = s.stk := rfl
@[simp] theorem putLedger_upd (k : Nat) (l : Ledger) : (putLedger s k l).upd = s.upd := rfl
@[simp] theorem putLedger_fl (k : Nat) (l : Ledger) : (putLedger s k l).fl = s.fl := rfl
@[simp] theorem putLedger_txt (k : Nat) (l : Ledger) : (putLedger s k l).txt = s.txt := rfl
@[simp] theorem putLedger_fab (k : Nat) (l : Ledger) : (putLedger s k l).fab = s.fab := rfl
@[simp] theorem putLedger_pool (k : Nat) (l : Ledger) : (putLedger s k l).pool = { s.pool with ledger := tput Ledger.reset s.pool.ledger k l } := rfl
@[simp] theorem putLedger_evt (k : Nat) (l : Ledger) : (putLedger s k l).evt = s.evt := rfl
@[simp] theorem putLedger_pow (k : Nat) (l : Ledger) : (putLedger s k l).pow = s.pow := rfl
@[simp] theorem putLedger_cnt (k : Nat) (l : Ledger) : (putLedger s k l).cnt = s.cnt := rfl

/-! #### sendMsg -/

@[simp] theorem sendMsg_pending (n : NodeId) (k : Nat) (d : List Byte) : (sendMsg s n k d).pending = s.pending := rfl
@[simp] theorem sendMsg_free (n : NodeId) (k : Nat) (d : List Byte) : (sendMsg s n k d).free = s.free := rfl
@[simp] theorem sendMsg_io (n : NodeId) (k : Nat) (d : List Byte) : (sendMsg s n k d).io = { s.io with msgs := s.io.msgs ++ [(n, k, d)] } := rfl
@[simp] theorem sendMsg_aon (n : NodeId) (k : Nat) (d : List Byte) : (sendMsg s n k d).aon = s.aon := rfl
@[simp] theorem sendMsg_clk (n : NodeId) (k : Nat) (d : List Byte) : (sendMsg s n k d).clk = s.clk := rfl
@[simp] theorem sendMsg_mach (n : NodeId) (k : Nat) (d : List Byte) : (sendMsg s n k d).mach = s.mach := rfl
@[simp] theorem sendMsg_host (n : NodeId) (k : Nat) (d : List Byte) : (sendMsg s n k d).host = s.host := rfl
@[simp] theorem sendMsg_funcs (n : NodeId) (k : Nat) (d : List Byte) : (sendMsg s n k d).funcs = s.funcs := rfl
@[simp] theorem sendMsg_ctxs (n : NodeId) (k : Nat) (d : List Byte) : (sendMsg s n k d).ctxs = s.ctxs := rfl
@[simp] theorem sendMsg_shards (n : NodeId) (k : Nat) (d : List Byte) : (sendMsg s n k d).shards = s.shards := rfl
@[simp] theorem sendMsg_copies (n : NodeId) (k : Nat) (d : List Byte) : (sendMsg s n k d).copies = s.copies := rfl
@[simp] theorem sendMsg_mbxDue (n : NodeId) (k : Nat) (d : List Byte) : (sendMsg s n k d).mbxDue = s.mbxDue := rfl
@[simp] theorem sendMsg_plan (n : NodeId) (k : Nat) (d : List Byte) : (sendMsg s n k d).plan = s.plan := rfl
@[simp] theorem sendMsg_tiles (n : NodeId) (k : Nat) (d : List Byte) : (sendMsg s n k d).tiles = s.tiles := rfl
@[simp] theorem sendMsg_pods (n : NodeId) (k : Nat) (d : List Byte) : (sendMsg s n k d).pods = s.pods := rfl
@[simp] theorem sendMsg_tileFault (n : NodeId) (k : Nat) (d : List Byte) : (sendMsg s n k d).tileFault = s.tileFault := rfl
@[simp] theorem sendMsg_podFault (n : NodeId) (k : Nat) (d : List Byte) : (sendMsg s n k d).podFault = s.podFault := rfl
@[simp] theorem sendMsg_elems (n : NodeId) (k : Nat) (d : List Byte) : (sendMsg s n k d).elems = s.elems := rfl
@[simp] theorem sendMsg_nextElem (n : NodeId) (k : Nat) (d : List Byte) : (sendMsg s n k d).nextElem = s.nextElem := rfl
@[simp] theorem sendMsg_memWrites (n : NodeId) (k : Nat) (d : List Byte) : (sendMsg s n k d).memWrites = s.memWrites := rfl
@[simp] theorem sendMsg_dirWrites (n : NodeId) (k : Nat) (d : List Byte) : (sendMsg s n k d).dirWrites = s.dirWrites := rfl
@[simp] theorem sendMsg_mem (n : NodeId) (k : Nat) (d : List Byte) : (sendMsg s n k d).mem = s.mem := rfl
@[simp] theorem sendMsg_raw (n : NodeId) (k : Nat) (d : List Byte) : (sendMsg s n k d).raw = s.raw := rfl
@[simp] theorem sendMsg_stk (n : NodeId) (k : Nat) (d : List Byte) : (sendMsg s n k d).stk = s.stk := rfl
@[simp] theorem sendMsg_upd (n : NodeId) (k : Nat) (d : List Byte) : (sendMsg s n k d).upd = s.upd := rfl
@[simp] theorem sendMsg_fl (n : NodeId) (k : Nat) (d : List Byte) : (sendMsg s n k d).fl = s.fl := rfl
@[simp] theorem sendMsg_txt (n : NodeId) (k : Nat) (d : List Byte) : (sendMsg s n k d).txt = s.txt := rfl
@[simp] theorem sendMsg_fab (n : NodeId) (k : Nat) (d : List Byte) : (sendMsg s n k d).fab = s.fab := rfl
@[simp] theorem sendMsg_pool (n : NodeId) (k : Nat) (d : List Byte) : (sendMsg s n k d).pool = s.pool := rfl
@[simp] theorem sendMsg_evt (n : NodeId) (k : Nat) (d : List Byte) : (sendMsg s n k d).evt = s.evt := rfl
@[simp] theorem sendMsg_pow (n : NodeId) (k : Nat) (d : List Byte) : (sendMsg s n k d).pow = s.pow := rfl
@[simp] theorem sendMsg_cnt (n : NodeId) (k : Nat) (d : List Byte) : (sendMsg s n k d).cnt = s.cnt := rfl

end Sys2Proof.Machine
end

