-- ==== Sys2Proof/Laws/Lookup.lean ====
section
/-! SUPPORT. Tables of the state: an entry written reads back, and every other entry is as before. -/

namespace Sys2Proof.Laws

open Sys2Proof Sys2Proof.Machine

@[simp] theorem podOf_putPod_same (s : State) (k : Nat) (x : Pod) : podOf (putPod s k x) k = x := by
  simp [podOf]
theorem podOf_putPod_ne (s : State) {k j : Nat} (x : Pod) (h : j ≠ k) : podOf (putPod s k x) j = podOf s j := by
  simp [podOf, tget_tput_ne _ _ _ h]

@[simp] theorem funcOf_putFunc_same (s : State) (k : Nat) (x : Func) : funcOf (putFunc s k x) k = x := by
  simp [funcOf]
theorem funcOf_putFunc_ne (s : State) {k j : Nat} (x : Func) (h : j ≠ k) : funcOf (putFunc s k x) j = funcOf s j := by
  simp [funcOf, tget_tput_ne _ _ _ h]

@[simp] theorem ctxOf_putCtx_same (s : State) (k : Nat) (x : Ctx) : ctxOf (putCtx s k x) k = x := by
  simp [ctxOf]
theorem ctxOf_putCtx_ne (s : State) {k j : Nat} (x : Ctx) (h : j ≠ k) : ctxOf (putCtx s k x) j = ctxOf s j := by
  simp [ctxOf, tget_tput_ne _ _ _ h]

@[simp] theorem admOf_putAdm_same (s : State) (k : Nat) (x : Option Adm) : admOf (putAdm s k x) k = x := by
  simp [admOf]
theorem admOf_putAdm_ne (s : State) {k j : Nat} (x : Option Adm) (h : j ≠ k) : admOf (putAdm s k x) j = admOf s j := by
  simp [admOf, tget_tput_ne _ _ _ h]

@[simp] theorem beanOf_putBean_same (s : State) (k : Nat) (x : Bean) : beanOf (putBean s k x) k = x := by
  simp [beanOf]
theorem beanOf_putBean_ne (s : State) {k j : Nat} (x : Bean) (h : j ≠ k) : beanOf (putBean s k x) j = beanOf s j := by
  simp [beanOf, tget_tput_ne _ _ _ h]

@[simp] theorem pcTrainOf_putPc_same (s : State) (k : Nat) (x : PcTrain) : pcTrainOf (putPc s k x) k = x := by
  simp [pcTrainOf]
theorem pcTrainOf_putPc_ne (s : State) {k j : Nat} (x : PcTrain) (h : j ≠ k) : pcTrainOf (putPc s k x) j = pcTrainOf s j := by
  simp [pcTrainOf, tget_tput_ne _ _ _ h]

@[simp] theorem chgOf_putChg_same (s : State) (k : Nat) (x : Chg) : chgOf (putChg s k x) k = x := by
  simp [chgOf]
theorem chgOf_putChg_ne (s : State) {k j : Nat} (x : Chg) (h : j ≠ k) : chgOf (putChg s k x) j = chgOf s j := by
  simp [chgOf, tget_tput_ne _ _ _ h]

@[simp] theorem segOf_putSeg_same (s : State) (k : Nat) (x : Seg) : segOf (putSeg s k x) k = x := by
  simp [segOf]
theorem segOf_putSeg_ne (s : State) {k j : Nat} (x : Seg) (h : j ≠ k) : segOf (putSeg s k x) j = segOf s j := by
  simp [segOf, tget_tput_ne _ _ _ h]

@[simp] theorem lunOf_putLun_same (s : State) (k : Nat) (x : Lun) : lunOf (putLun s k x) k = x := by
  simp [lunOf]
theorem lunOf_putLun_ne (s : State) {k j : Nat} (x : Lun) (h : j ≠ k) : lunOf (putLun s k x) j = lunOf s j := by
  simp [lunOf, tget_tput_ne _ _ _ h]

@[simp] theorem seqOf_putSeq_same (s : State) (k : Nat) (x : Seq) : seqOf (putSeq s k x) k = x := by
  simp [seqOf]
theorem seqOf_putSeq_ne (s : State) {k j : Nat} (x : Seq) (h : j ≠ k) : seqOf (putSeq s k x) j = seqOf s j := by
  simp [seqOf, tget_tput_ne _ _ _ h]

@[simp] theorem ledgerOf_putLedger_same (s : State) (k : Nat) (x : Ledger) : ledgerOf (putLedger s k x) k = x := by
  simp [ledgerOf]
theorem ledgerOf_putLedger_ne (s : State) {k j : Nat} (x : Ledger) (h : j ≠ k) : ledgerOf (putLedger s k x) j = ledgerOf s j := by
  simp [ledgerOf, tget_tput_ne _ _ _ h]

@[simp] theorem cwAt_putCw_same (s : State) (k : Nat) (x : Option (CtxId × List Byte)) : cwAt (putCw s k x) k = x := by
  simp [cwAt]
theorem cwAt_putCw_ne (s : State) {k j : Nat} (x : Option (CtxId × List Byte)) (h : j ≠ k) : cwAt (putCw s k x) j = cwAt s j := by
  simp [cwAt, tget_tput_ne _ _ _ h]

/-- A (context, shard) pair's key tells its context and its shard. -/
theorem shardKey_inj {c d i j : Nat} (hi : i < 1048576) (hj : j < 1048576) (h : shardKey c i = shardKey d j) : c = d ∧ i = j := by
  unfold shardKey at h
  omega

@[simp] theorem shardEnt_putShard_same (s : State) (c i : Nat) (e : ShardEnt) : shardEnt (putShard s c i e) c i = e := by simp [shardEnt]
theorem shardEnt_putShard_ne (s : State) {c i d j : Nat} (e : ShardEnt) (h : shardKey d j ≠ shardKey c i) :
    shardEnt (putShard s c i e) d j = shardEnt s d j := by
  simp [shardEnt, tget_tput_ne _ _ _ h]
@[simp] theorem copyOf_putCopy_same (s : State) (c i : Nat) (x : Option ShardCopy) : copyOf (putCopy s c i x) c i = x := by simp [copyOf]
theorem copyOf_putCopy_ne (s : State) {c i d j : Nat} (x : Option ShardCopy) (h : shardKey d j ≠ shardKey c i) :
    copyOf (putCopy s c i x) d j = copyOf s d j := by
  simp [copyOf, tget_tput_ne _ _ _ h]

/-- A counter counts, saturating (R14), and no other counter changes. -/
theorem counterOf_bumpBy (s : State) (c k : Counter) (n : Nat) :
    counterOf (bumpBy s c n) k = if k = c then satAdd32 (counterOf s c) n else counterOf s k := by
  by_cases h : k = c
  · subst h
    simp [counterOf]
  · have hk : k.ctorIdx ≠ c.ctorIdx := fun e => h (by rw [← Counter.ofNat_ctorIdx k, e, Counter.ofNat_ctorIdx])
    simp [counterOf, h, tget_tmod_ne _ _ _ hk]

end Sys2Proof.Laws
end

