-- ==== Sys2Proof/Laws/Memory.lean ====
section
/-! SUPPORT. Node memory: every operation that writes it keeps its canonical form, bytes written read back, and every other byte
reads as before. -/

namespace Sys2Proof.Laws

open Sys2Proof Sys2Proof.Machine Sys2Proof.Claims

theorem wf_reset : Memory.wf State.reset.mem = true := rfl

theorem wf_empty : Memory.wf [] = true := rfl

/-- The one operation that writes node memory keeps the form. -/
theorem wf_memWrite (s : State) (a : Nat) (d : List Byte) (h : Memory.wf s.mem = true) : Memory.wf (memWrite s a d).mem = true :=
  twf_writeBytes _ _ _ h

theorem wf_putDirEnt (s : State) (a : Nat) (e : DirEnt) (h : Memory.wf s.mem = true) : Memory.wf (putDirEnt s a e).mem = true :=
  wf_memWrite _ _ _ h
theorem wf_putDirMap (s : State) (a : Nat) (e : DirEnt) (h : Memory.wf s.mem = true) : Memory.wf (putDirMap s a e).mem = true :=
  wf_memWrite _ _ _ h
theorem wf_putSpill (s : State) (a : Nat) (item : BitVec 36) (loc : BitVec 28) (h : Memory.wf s.mem = true) :
    Memory.wf (putSpill s a item loc).mem = true := wf_memWrite _ _ _ h
theorem wf_freeSpill (s : State) (a : Nat) (h : Memory.wf s.mem = true) : Memory.wf (freeSpill s a).mem = true := wf_memWrite _ _ _ h

/-- A fold of operations that keep the form keeps it. -/
theorem wf_foldl {α : Type} (f : State → α → State) (hf : ∀ s x, Memory.wf s.mem = true → Memory.wf (f s x).mem = true) (l : List α)
    (s : State) (h : Memory.wf s.mem = true) : Memory.wf (l.foldl f s).mem = true := by
  induction l generalizing s with
  | nil => exact h
  | cons x l ih => exact ih _ (hf _ _ h)

/-- Bytes written read back. -/
theorem memRead_memWrite (s : State) (a : Nat) (d : List Byte) : memRead (memWrite s a d) a d.length = d := readBytes_writeBytes _ _ _

theorem getD_readBytes (m : Tab Byte) (a n i : Nat) (h : i < n) : (readBytes m a n).getD i 0 = tget 0 m (a + i) := by
  rw [List.getD_eq_getElem _ _ (by rw [readBytes_length]; exact h), readBytes_get _ _ _ _ h]

/-- A read outside the bytes written is as before. -/
theorem memRead_memWrite_ne (s : State) {a b n : Nat} (d : List Byte) (h : b + n ≤ a ∨ a + d.length ≤ b) :
    memRead (memWrite s a d) b n = memRead s b n := by
  apply List.ext_getElem
  · simp [memRead, readBytes_length]
  · intro i h1 h2
    have hi : i < n := by simpa [memRead, readBytes_length] using h2
    simp only [memRead, memWrite_mem]
    rw [readBytes_get _ _ _ _ hi, readBytes_get _ _ _ _ hi, tget_writeBytes_ne _ _ _ (by omega)]

/-- What a write leaves: the bytes written, and every other byte as before. -/
theorem stored_memWrite (s : State) (a : Nat) (d : List Byte) :
    Stored (memWrite s a d).mem s.mem a d.length (fun i => d.getD i 0) := by
  intro k
  rw [memWrite_mem]
  split
  · obtain ⟨i, rfl⟩ : ∃ i, k = a + i := ⟨k - a, by omega⟩
    have hi : i < d.length := by omega
    rw [tget_writeBytes_in _ _ _ _ hi, Nat.add_sub_cancel_left]
    exact (List.getD_eq_getElem _ _ hi).symm
  · exact tget_writeBytes_ne _ _ _ (by omega)

end Sys2Proof.Laws
end

