-- ==== Sys2Proof/Laws/Ops.lean ====
section
/-! SUPPORT. One lemma for each shared operation that says everything it can do: issuing, counting, events, requests, elements, the
mailbox and the host's accesses. -/

namespace Sys2Proof.Laws

open Sys2Proof Sys2Proof.Machine Sys2Proof.Claims

/-! ### Issue (R160, R183) -/

/-- An instruction does not issue, or its guard is false and only its slots are taken, or its effect happens and its results land. -/
theorem issue_cases (s : State) (t : Fin 192) (g : Guard) (i : Instr) (f : State → State) :
    (mayIssue s t g i = false ∧ issue s t g i f = s) ∨
    (mayIssue s t g i = true ∧ guardHolds (tileAt s t g i).src.p g = false ∧ issue s t g i f = issued s t g i) ∨
    (Executes s t g i ∧ issue s t g i f =
      onTile (f (issued s t g i)) t.val
        (fun y => landed (tileAt s t g i).cyc (tileAt s t g i) y (broughtBy i y (resultsOf (issued s t g i) t i)))) := by
  by_cases h : mayIssue s t g i = true
  · by_cases k : guardHolds (tileOf (issued s t g i) t.val).src.p g = true
    · exact .inr (.inr ⟨⟨h, k⟩, by simp [issue, h, k, tileAt]⟩)
    · exact .inr (.inl ⟨h, by simpa [tileAt] using k, by simp [issue, h, k]⟩)
  · exact .inl ⟨by simpa using h, by simp [issue, h]⟩

/-! ### Counters and events (R14, R477) -/

/-- A counter that counts leaves everything else. -/
theorem bump_frame (s : State) (c : Counter) : bump s c = { s with cnt := (bump s c).cnt } := rfl

/-- A bump where a condition holds. -/
theorem bumpIf_cases (b : Bool) (s : State) (c : Counter) : bumpIf b s c = if b then bump s c else s := rfl

/-- A source asserted: it is pending afterwards, with the tick and payload of now if it was not pending before, and else counted as
coalesced. -/
theorem raiseEvent_cases (s : State) (n payload : Nat) :
    (s.evt.pending.any (fun p => p.source == Fin.ofNat 512 n) = true ∧ raiseEvent s n payload = bump s .evtCoalesce) ∨
    (s.evt.pending.any (fun p => p.source == Fin.ofNat 512 n) = false ∧
      raiseEvent s n payload =
        (let e : PendEvt := ⟨Fin.ofNat 512 n, s.clk.tick, BitVec.ofNat 192 payload⟩
         { s with evt := { s.evt with pending := s.evt.pending ++ [e] } })) := by
  by_cases h : s.evt.pending.any (fun p => p.source == Fin.ofNat 512 n) = true
  · exact .inl ⟨h, by simp only [raiseEvent, h, if_true]⟩
  · simp only [Bool.not_eq_true] at h
    exact .inr ⟨h, by rw [raiseEvent]; simp only [h, Bool.false_eq_true, if_false]⟩

theorem raiseEvent_frame (s : State) (n payload : Nat) :
    raiseEvent s n payload = { s with evt := (raiseEvent s n payload).evt, cnt := (raiseEvent s n payload).cnt } := by
  rcases raiseEvent_cases s n payload with ⟨_, h⟩ | ⟨_, h⟩
  · rw [h]; rfl
  · rw [h]

/-! ### Requests -/

/-- An admitted request changes where its slot holds one. -/
theorem onAdm_cases (s : State) (k : Nat) (f : Adm → Adm) :
    (admOf s k = none ∧ onAdm s k f = s) ∨ ∃ a, admOf s k = some a ∧ onAdm s k f = putAdm s k (some (f a)) := by
  cases h : admOf s k with
  | none => exact .inl ⟨rfl, by simp [onAdm, h]⟩
  | some a => exact .inr ⟨a, rfl, by simp [onAdm, h]⟩

/-- A failed request keeps the first status that failed it (R84). -/
theorem failRequest_cases (s : State) (slot : Option (Fin 1024)) (st : BitVec 8) :
    failRequest s slot st = s ∨
      ∃ (k : Fin 1024) (a : Adm), slot = some k ∧ admOf s k.val = some a ∧
        failRequest s slot st = putAdm s k.val (some { a with fault := a.fault.or (some st) }) := by
  cases slot with
  | none => exact .inl rfl
  | some k =>
    rcases onAdm_cases s k.val (fun a => { a with fault := a.fault.or (some st) }) with ⟨_, h⟩ | ⟨a, h, e⟩
    · exact .inl h
    · exact .inr ⟨k, a, rfl, h, e⟩

/-! ### Elements (R188, R189) -/

theorem onTile_frame (s : State) (t : Nat) (f : Tile → Tile) : onTile s t f = { s with tiles := (onTile s t f).tiles } := rfl

theorem endSlot_frame (s : State) (t : Fin 192) (k : ElemKind) (st : ElemStatus) :
    endSlot s t k st = { s with tiles := (endSlot s t k st).tiles, cnt := (endSlot s t k st).cnt } := by
  cases k <;> cases st <;> rfl

/-- An element that ends changes tiles, the elements and the counters of late and absent slots alone. -/
theorem endElem_frame (s : State) (e : Elem) (st : ElemStatus) :
    endElem s e st = { s with tiles := (endElem s e st).tiles, elems := s.elems.filter (fun x => x.id != e.id), cnt := (endElem s e st).cnt } := by
  rw [endElem, endSlot_frame]
  rfl

/-! ### The mailbox and the host (R431, R456, R460) -/

/-- A row of the mailbox leaves the node as it is unless its command was started; it then answers with an error and nothing else
changed, or with what its body gives. -/
theorem mbxRun_cases (s : State) (r : MbxRow) (body : MbxCmd → MbxRes) :
    ((s.host.mbx.busy && (mbxCmd s).op == r.op) = false ∧ mbxRun s r body = s) ∨
    ((s.host.mbx.busy && (mbxCmd s).op == r.op) = true ∧
      ((∃ st, mbxCheck s r body = .error st ∧ mbxRun s r body = mbxReply s st []) ∨
       ∃ a, mbxCheck s r body = .ok a ∧ mbxRun s r body = mbxReply a.state a.status a.reply)) := by
  by_cases h : (s.host.mbx.busy && (mbxCmd s).op == r.op) = true
  · refine .inr ⟨h, ?_⟩
    cases k : mbxCheck s r body with
    | error st => exact .inl ⟨st, rfl, by simp only [mbxRun, h, k, if_true]⟩
    | ok a => exact .inr ⟨a, rfl, by simp only [mbxRun, h, k, if_true]⟩
  · simp only [Bool.not_eq_true] at h
    exact .inl ⟨h, by simp [mbxRun, h]⟩

/-- The checks of a row that its command meets (R533). -/
theorem mbxCheck_ok {s : State} {r : MbxRow} (body : MbxCmd → MbxRes) (h : mbxAccepted s r.op = true) (k : mbxFieldsOk r (mbxCmd s) = true) :
    mbxCheck s r body = body (mbxCmd s) := by
  simp [mbxCheck, mbxNeed, h, k]

/-- A host's access reaches the node or does nothing. -/
theorem hostDoes_cases (s : State) (f : State → State) :
    (pcieUp s = true ∧ hostDoes s f = f s) ∨ (pcieUp s = false ∧ hostDoes s f = s) := by
  by_cases h : pcieUp s = true
  · exact .inl ⟨h, by simp [hostDoes, h]⟩
  · simp only [Bool.not_eq_true] at h
    exact .inr ⟨h, by simp [hostDoes, h]⟩

/-! ### Steps -/

/-- What a step does: it idles, or runs the front command on the queue's rest. -/
theorem step_cases (s : State) :
    (s.pending = [] ∧ step s = .next s) ∨ ∃ c rest, s.pending = c :: rest ∧ step s = exec c { s with pending := rest } := by
  cases h : s.pending with
  | nil => exact .inl ⟨rfl, by simp [step, h]⟩
  | cons c rest => exact .inr ⟨c, rest, rfl, by simp [step, h]⟩

end Sys2Proof.Laws
end

