-- ==== Sys2Proof/Machine/Quantiser.lean ====
section
/-! DEFINITION. The quantiser (R68 to R73, R87): outlier channels, vector and block scales, codes, and the clips it counts. A plan
runs it as a routine of VQ, VF16UP, VS8UP, VDIV, VMUL and VCVT (R216); here it stands as one function, with the calibration record
of the request that it serves. -/

namespace Sys2Proof.Machine

open Sys2Proof

/-- What the quantiser writes: B1 (R60), E4 or E8 codes, or the elements of an F16 image. -/
inductive QFmt where | b1 | e4 | e8 | f16
deriving DecidableEq, Repr

/-- A quantised vector: its codes (for B1 the bits, for F16 the elements), S8 bytes, VEC_SCALE, tail in ascending channel order, and
the clips counted (R71). -/
structure Quant where
  codes : List Int
  s8 : List Byte
  vecScale : F16
  tail : List (Nat × F16)
  clips : Nat
deriving DecidableEq, Repr

/-- The largest magnitude of a list of values. -/
def maxAbs (l : List F32) : F32 := l.foldl (fun m x => if fle m (fabs x) then fabs x else m) 0

/-- Block b of a vector. -/
def qblock (x : List F32) (b : Nat) : List F32 := (x.drop (32 * b)).take 32

/-- A(c): the largest magnitude over the other channels of c's block (R68 step 1). -/
def othersAbs (x : List F32) (c : Nat) : F32 := maxAbs ((qblock x (c / 32)).set (c % 32) 0)

/-- Whether a channel is a candidate (R68 step 2): one F32 product. -/
def outlierCand (ratio : F16) (x : List F32) (c : Nat) : Bool :=
  flt (fmul (f16ToF32 ratio) (othersAbs x c)) (fabs (x.getD c 0))

/-- The outlier channels (R68 step 3): by magnitude descending and channel ascending the first NOUT_MAX, in ascending order. -/
def outlierChannels (ratio : F16) (noutMax : Nat) (x : List F32) : List Nat :=
  let before (a b : Nat) : Bool :=
    let p := fabs (x.getD a 0)
    let q := fabs (x.getD b 0)
    flt q p || (feq p q && decide (a < b))
  sortBy (fun a b => decide (a < b))
    ((sortBy before ((List.range x.length).filter (outlierCand ratio x))).take noutMax)

/-- The vector with its outlier channels set to +0 (R69). -/
def withoutOutliers (out : List Nat) (x : List F32) : List F32 := x.zipIdx.map (fun p => if out.contains p.2 then 0 else p.1)

/-- The tail's entries, saturating, and the clips of their values (R69, R71). -/
def tailOf (out : List Nat) (x : List F32) : List (Nat × F16) × Nat :=
  (out.map (fun c => (c, (f32ToF16Sat (x.getD c 0)).1)), (out.filter (fun c => (f32ToF16Sat (x.getD c 0)).2)).length)

/-- QMAX (R70). -/
def qmaxF32 (e8 : Bool) : F32 := intToF32 (qmaxOf e8)

/-- VEC_SCALE and the S8 bytes, with whether f16_up met its limit (R70): shared scales are given, own scales come from the block
maxima. -/
def qscales (e8 : Bool) (shared : Option (List Byte)) (x : List F32) : F16 × List Byte × Bool :=
  let n := x.length / 32
  let bmax (b : Nat) : F32 := maxAbs (qblock x b)
  match shared with
  | some l =>
    let bs := (List.range n).filter (fun b => l.getD b 0 != 0)
    if bs = [] then (0, l.take n, false)
    else
      let v := f16Up (maxAbs (bs.map (fun b => fdiv (bmax b) (fmul (qmaxF32 e8) (s8ToF32 (l.getD b 0))))))
      (v.1, l.take n, v.2)
  | none =>
    let m := maxAbs x
    if fisZero m then (0, List.replicate n 0, false)
    else
      let v := f16Up (fdiv m (qmaxF32 e8))
      (v.1, (List.range n).map (fun b =>
        if fisZero (bmax b) ∨ v.1 = 0 then 0 else s8Up (fdiv (bmax b) (fmul (qmaxF32 e8) (f16ToF32 v.1)))), v.2)

/-- One code and whether it is a clip (R70, R71): the rounded q is clamped, and a nonzero element of a block whose shared S8 is 0x00
is a clip of its own. -/
def qcode (e8 shared : Bool) (vs : F16) (s8 : Byte) (x : F32) : Int × Bool :=
  if s8 = 0 ∨ vs = 0 then (0, shared && s8 == 0 && !fisZero x)
  else
    match roundEven (f32Val (fdiv x (fmul (s8ToF32 s8) (f16ToF32 vs)))) with
    | none => (0, false)
    | some q => (clampInt (-(qmaxOf e8)) (qmaxOf e8) q, decide (clampInt (-(qmaxOf e8)) (qmaxOf e8) q ≠ q))

/-- The E4 or E8 code vector of what the outliers leave. -/
def quantCodes (e8 : Bool) (shared : Option (List Byte)) (x : List F32) (tail : List (Nat × F16)) (clips : Nat) : Quant :=
  let (vs, s8, lim) := qscales e8 shared x
  let cs := x.zipIdx.map (fun p => qcode e8 shared.isSome vs (s8.getD (p.2 / 32) 0) p.1)
  { codes := cs.map (·.1), s8 := s8, vecScale := vs, tail := tail, clips := clips + b2n lim + (cs.filter (·.2)).length }

/-- The quantiser (R70): none is its BAD_FIELD, for a NaN or infinite element (R72). -/
def quantise (f : QFmt) (shared : Option (List Byte)) (noutMax : Nat) (ratio : F16) (v : List F32) : Option Quant :=
  if v.any (fun x => fisNaN x || fisInf x) then none
  else
    let x := v.map fposZero
    let out := if f = .b1 then [] else outlierChannels ratio noutMax x
    let (tail, clips) := tailOf out x
    let y := withoutOutliers out x
    match f with
    | .b1 => some { codes := y.map (fun a => if flt a 0 then 1 else 0), s8 := [], vecScale := 0x3C00, tail := [], clips := 0 }
    | .f16 =>
      let h := y.map f32ToF16Sat
      some { codes := h.map (fun a => (a.1.toNat : Int)), s8 := [], vecScale := 0x3C00, tail := tail,
             clips := clips + (h.filter (·.2)).length }
    | .e4 => some (quantCodes false shared y tail clips)
    | .e8 => some (quantCodes true shared y tail clips)

/-! ### The operands of a request (R73, R87) -/

/-- The element format of a code format (R45). -/
def qfmtOfCode (fmt : Nat) : QFmt := if fmt = 0 then .b1 else if codeIsE4 fmt then .e4 else .e8

/-- The element format of an image (FV_FORMAT). -/
def qfmtOfImage (fv : Nat) : QFmt := if fv = 0 then .f16 else if fv = 1 then .e8 else .e4

/-- NOUT_MAX (R68). -/
def noutOfCode (fmt tailCap : Nat) : Nat := if fmt = 0 then 0 else 4 * tailCap
def noutOfImage (outliers : Bool) : Nat := if outliers then 8 else 0

/-- A search's query code for a code format, with own scales (R87), under the record in force at its admission (R73). -/
def queryCode (a : Adm) (fmt tailCap : Nat) (x : List F32) : Option Quant :=
  quantise (qfmtOfCode fmt) none (noutOfCode fmt tailCap) a.cal.outlierRatio x

/-- A search's query image, or an upsert's full-vector image (R68, R87). -/
def queryImage (a : Adm) (c : Ctx) (x : List F32) : Option Quant :=
  quantise (qfmtOfImage c.fvFormat) none (noutOfImage c.outliers) a.cal.outlierRatio x

/-- An upsert's record code: with the partition's shared scales for code formats 1 and 2, else with own scales (R45, R67, R70). -/
def recordCode (a : Adm) (fmt tailCap : Nat) (shared : List Byte) (x : List F32) : Option Quant :=
  quantise (qfmtOfCode fmt) (if fmt = 1 ∨ fmt = 2 then some shared else none) (noutOfCode fmt tailCap) a.cal.outlierRatio x

/-- The bytes of a code area (R45, R46): packed elements, then own S8 bytes, then zero bytes. -/
def codeBytes (fmt dim : Nat) (q : Quant) : List Byte :=
  let pack : List Byte :=
    if fmt = 0 then (List.range ((dim + 7) / 8)).map (fun i =>
      BitVec.ofNat 8 (packFields ((List.range 8).map (fun j => (1, (q.codes.getD (8 * i + j) 0).toNat)))))
    else if codeIsE4 fmt then (List.range (dim / 2)).map (fun i =>
      BitVec.ofInt 4 (q.codes.getD (2 * i + 1) 0) ++ BitVec.ofInt 4 (q.codes.getD (2 * i) 0))
    else q.codes.map (BitVec.ofInt 8)
  let l := pack ++ (if fmt = 3 ∨ fmt = 4 then q.s8 else [])
  l ++ List.replicate (codeLen fmt dim - l.length) 0

/-- The bytes of a tail of a given capacity in bytes (R47). -/
def tailBytes (cap : Nat) (q : Quant) : List Byte :=
  let l := q.tail.flatMap (fun e => leBytes 4 (e.1 + e.2.toNat * 65536))
  l ++ List.replicate (cap - l.length) 0

end Sys2Proof.Machine
end

