-- ==== Sys2Proof/Tests/Slice0.lean ====
section
/-! SUPPORT. Small tests of the model against the spec's own numbers, and witnesses: for each statement with hypotheses, a concrete
state and operands that meet all of them together. -/

namespace Sys2Proof.Tests

set_option Elab.async false
set_option maxRecDepth 20000

open Sys2Proof Sys2Proof.Machine Sys2Proof.Claims

/-! ### Ill-formed commands, one for each check -/

def gTrue : Guard := ⟨0, false, true, 0, ⟨0, none⟩⟩
def gFalse : Guard := { gTrue with gn := true }
def zeroWord : BeanWord := ⟨0, 0, 0, 0, 0, 0, false⟩
def zeroBurst : Burst := ⟨List.replicate 64 0, List.replicate 8 0, List.replicate 4 0⟩

theorem test_wf_nop : (Instr.nop 0 { gTrue with gp := 1 }).wellFormed = false ∧ (Instr.nop 0 gTrue).wellFormed = true := by decide
theorem test_wf_p0 : (Instr.cmp 0 gTrue 0 1 2 .eq).wellFormed = false ∧ (Instr.cmp 0 gTrue 1 1 2 .eq).wellFormed = true := by decide
theorem test_wf_loop : (Instr.loop 0 gTrue 1 2 1 0 0 3).wellFormed = false ∧ (Instr.loop 0 gTrue 1 2 1 0 3 0).wellFormed = false ∧
    (Instr.loop 0 gTrue 1 2 1 0 1 1).wellFormed = true := by decide
theorem test_wf_lanes : (Instr.vtree 0 gTrue 1 2 0 0).wellFormed = false ∧ (Instr.vtree 0 gTrue 1 2 0 65).wellFormed = false ∧
    (Instr.vhmax 0 gTrue 1 2 0 64).wellFormed = true := by decide
theorem test_wf_rows : (Instr.mldw 0 gTrue 1 2 0 .f16 65 32 []).wellFormed = false ∧
    (Instr.mldw 0 gTrue 1 2 0 .e8 0 32 []).wellFormed = false ∧ (Instr.mldw 0 gTrue 1 2 0 .e8 128 32 []).wellFormed = true := by decide
theorem test_wf_mmov : (Instr.mmov 0 gTrue 1 0 2).wellFormed = false ∧ (Instr.mmov 0 gTrue 2 0 3).wellFormed = false ∧
    (Instr.mmov 0 gTrue 2 0 2).wellFormed = true := by decide
theorem test_wf_rom : (Instr.romStage [] []).wellFormed = false := by decide
theorem test_wf_training : (Instr.trainingStage ⟨[], [], [], [], []⟩).wellFormed = false := by decide
theorem test_wf_bean_len : (Instr.bldq 0 { zeroWord with len := 11 } []).wellFormed = false ∧
    (Instr.bldq 0 { zeroWord with len := 1 } []).wellFormed = false ∧
    (Instr.bldq 0 { zeroWord with len := 1 } (List.replicate 32 0)).wellFormed = true := by decide
theorem test_wf_bean_rows : (Instr.bscan 0 zeroWord []).wellFormed = false ∧
    (Instr.bscan 0 { zeroWord with pairRow := 31, nrows := 2 } []).wellFormed = false ∧
    (Instr.bscan 0 { zeroWord with pairRow := 31, nrows := 1 } []).wellFormed = true := by decide
theorem test_wf_bean_copy : (Instr.bcopy 0 { zeroWord with pairRow := 8, nrows := 4, dest := 5 } []).wellFormed = false ∧
    (Instr.bcopy 0 { zeroWord with pairRow := 8, nrows := 4, dest := 4 } []).wellFormed = true := by decide
theorem test_wf_bean_put : (Instr.bput 0 { zeroWord with off := 50, len := 15 } []).wellFormed = false ∧
    (Instr.bput 0 { zeroWord with off := 44, len := 20 } [(0, ⟨[], [], []⟩)]).wellFormed = false ∧
    (Instr.bput 0 { zeroWord with off := 44, len := 20 } [(0, zeroBurst)]).wellFormed = true := by decide
theorem test_wf_bean_new : (Instr.bclr 0 { zeroWord with new := true }).wellFormed = false := by decide
theorem test_wf_access : (Instr.ordinaryAccess ⟨.node, true, 0, 2, [0], []⟩).wellFormed = false ∧
    (Instr.ordinaryAccess ⟨.node, false, 0, 2, [0], []⟩).wellFormed = false ∧
    (Instr.ordinaryAccess ⟨.node, false, 0, 2, [], [(0, ⟨[], [], []⟩, zeroBurst)]⟩).wellFormed = false ∧
    (Instr.ordinaryAccess ⟨.node, true, 0, 2, [0, 1], []⟩).wellFormed = true := by decide
theorem test_wf_remap : (Instr.rowRemap 0 [(0, zeroBurst, ⟨[], [], []⟩)]).wellFormed = false := by decide
theorem test_wf_temps : (Instr.memTempReading []).wellFormed = false ∧ (Instr.aonSensorReading 0 0 []).wellFormed = false := by decide
theorem test_wf_cells : (Instr.staticCellArrive 0 0 [] 0 none).wellFormed = false ∧ (Instr.frameReceive 0 [] 0).wellFormed = false ∧
    (Instr.frameReceive 0 [[0]] 0).wellFormed = false := by decide
theorem test_wf_host : (Instr.registerWrite 0 0 []).wellFormed = false ∧ (Instr.registerWrite 0 0 (List.replicate 65 0)).wellFormed = false ∧
    (Instr.debugWindowRead 0 0 []).wellFormed = false := by decide

/-! ### Slot words (R179, R180, R229) -/

/-- The words of the spec's worked example. -/
theorem test_word_addi : encodeSlot (.addi 0 gTrue 5 5 128) = some (0, 0x10028A0000000080) := by decide +kernel
theorem test_word_mmac : encodeSlot (.mmac 0 gTrue 0 1 1 true) = some (3, 0x0800020000000003) := by decide +kernel
/-- LDS S7, [S3 + 16], PD = P2: OP 0x01, D at bit 47, A at bit 41, PD at bit 25. -/
theorem test_word_lds : decodeSlot 1 0 gTrue (0x04 * 2 ^ 56 + 7 * 2 ^ 47 + 3 * 2 ^ 41 + 2 * 2 ^ 25 + 16) =
    some (.lds 0 gTrue 7 3 2 16) := by decide +kernel
/-- VADD V9, V1, V2 under P4, I32. -/
theorem test_word_vadd : decodeSlot 2 0 gTrue (0x04 * 2 ^ 56 + 9 * 2 ^ 47 + 2 ^ 41 + 2 * 2 ^ 35 + 4 * 2 ^ 29 + 1) =
    some (.vadd 0 gTrue 9 1 2 4 .i32) := by decide +kernel
def gRest : Guard := ⟨5, true, false, 0, ⟨0, none⟩⟩
/-- A round trip with every field in use. -/
theorem wit_SlotRoundTrip : (Instr.tsel 3 gRest 31 30 29 28 15 1023).wellFormed = true ∧
    tileInstr (.tsel 3 gRest 31 30 29 28 15 1023) = some (3, gRest) ∧
    (encodeSlot (.tsel 3 gRest 31 30 29 28 15 1023)).isSome = true := by decide +kernel

/-! ### Numbers -/

/-- The product of R97's example, checked by bits: 1.5 × 2.25 = 3.375; a tie goes to even; -0 + 0 is +0; NaN is canonical. -/
theorem test_fmul : fmul 0x3FC00000 0x40100000 = 0x40580000 := by decide +kernel
theorem test_fadd_tie : fadd 0x4B800000 0x3F800000 = 0x4B800000 ∧ fadd 0x4B800001 0x3F800000 = 0x4B800002 := by decide +kernel
theorem test_fadd_zero : fadd 0x80000000 0 = 0 ∧ fadd 0x7F800000 0xFF800000 = 0x7FC00000 := by decide +kernel
/-- The smallest subnormal halves to zero, a tie to even (R61). -/
theorem test_subnormal : fmul 1 0x3F000000 = 0 ∧ fmul 3 0x3F000000 = 2 := by decide +kernel
theorem wit_Arithmetic : IsFinite 0x7F7FFFFF#32 ∧ IsFinite 0x80000001#32 ∧ IsNaN 0x7F800001#32 ∧ IsNaN 0xFFC00000#32 ∧
    ¬ IsFinite 0x7F800000#32 := by
  refine ⟨?_, ?_, ?_, ?_, ?_⟩ <;> simp [IsFinite, IsNaN]
theorem wit_Arithmetic_negative : IsFinite 0xBF800000#32 ∧ fval 0xBF800000#32 < 0 := by
  constructor
  · simp [IsFinite]
  · rw [fval, if_pos (by decide)]
    norm_num
theorem wit_Arithmetic_divisor : fval 0x3F800000#32 ≠ 0 ∧ 0 < fval 0x3F800000#32 := by
  constructor <;> (rw [fval, if_neg (by decide)]; norm_num)
/-- The table of R233. -/
theorem test_scoreKey : scoreKey 0x7F800000 = 0xFF800000 ∧ scoreKey 0x3F800000 = 0xBF800000 ∧ scoreKey 0x80000000 = 0x80000000 ∧
    scoreKey 0xC1D73800 = 0x3E28C7FF ∧ scoreKey 0xFF800000 = 0x007FFFFF ∧ scoreKey 0x7FC00000 = 0 := by decide +kernel
theorem test_selKey : selKey ⟨0, 0, 0, 0x1234, 0x3F800000⟩ = 0xBF800000FFFFEDCB := by decide +kernel
/-- S8 bytes of R65. -/
theorem test_s8 : s8ToF32 0xF0 = 0x3F800000 ∧ s8ToF32 0xFF = 0x3FF80000 ∧ s8ToF32 0 = 0 := by decide +kernel

/-! ### Tiles that run -/

/-- A tile of a running Pod, with S1 = 5, S2 = -1, P1 = 1, V1 all ones. -/
def tileA : Tile :=
  let r : Regs := { Regs.reset with s := (Regs.reset.s.set 1 5).set 2 (BitVec.allOnes 64), p := Regs.reset.p.set 1 1,
                                    v := Regs.reset.v.set 1 (BitVec.allOnes 2048) }
  { Tile.reset with run := true, regs := r, src := r }
def nodeA : State :=
  { State.reset with aon := { Aon.reset with inReset := false, stage := .ready }, pods := [(0, { Pod.reset with clk := .running })] }
def withTile (x : Tile) : State := { nodeA with tiles := [(0, x)] }
def stA : State := withTile tileA
/-- A tile section without constants. -/
def secZero : TileSec := ⟨256, [], [], [], [], []⟩
/-- A plan of a tile that does nothing. -/
def planZero : Plan := ⟨0, 0, 0, 0, 0, 0, [], [], [secZero], [], []⟩
/-- The bundle of one slot word, in the place where the tile fetches its next one. -/
def bundleOf (i : Instr) (n : Nat) : List (List Word64) :=
  match encodeSlot i with
  | some (k, w) => List.replicate n (List.replicate 4 0) ++ [(List.replicate 4 (0 : Word64)).set k.val (BitVec.ofNat 64 w)]
  | none => []
/-- `s` with a plan whose tile 0 finds an instruction in its next bundle (R160). -/
def holding (i : Instr) (s : State) : State :=
  if (encodeSlot i).isSome then
    let p := s.plan.active.getD planZero
    let sec := { (p.tiles.headD secZero) with bundles := bundleOf i (tileOf s 0).next }
    { s with plan := { s.plan with active := some { p with tiles := sec :: p.tiles.drop 1 } } }
  else s
/-- The state after a command (for a tile's, one that its plan holds), or reset's where the command does not answer a next state. -/
def after (i : Instr) (s : State) : State :=
  match exec i (holding i s) with
  | .next u => u
  | _ => State.reset
/-- The registers of tile 0 after a command. -/
def regsAfter (i : Instr) (s : State) : Regs := (tileOf (after i s) 0).regs

def add312 : Instr := .add 0 gTrue 3 1 2
def add312F : Instr := .add 0 gFalse 3 1 2
theorem wit_executes : Executes (holding add312 stA) 0 gTrue add312 := ⟨by decide +kernel, by decide +kernel⟩
theorem wit_guard_false : (let s := holding add312F stA
    mayIssue s 0 gFalse add312F = true ∧ guardHolds (tileAt s 0 gFalse add312F).src.p gFalse = false ∧
    tileInstr add312F = some (0, gFalse) ∧ isLoop add312F = false) := by decide +kernel
theorem wit_not_issued : mayIssue State.reset 0 gTrue (.nop 0 gTrue) = false ∧ tileInstr (.nop 0 gTrue) = some (0, gTrue) := by decide +kernel
theorem wit_second_slot : mayIssue (holding (.add 0 gRest 3 1 2) (withTile { tileA with inBundle := true })) 0 gRest (.add 0 gRest 3 1 2) = true := by
  decide +kernel
theorem wit_ScalarSlot : (scalarResult (.add 0 gTrue 3 1 2)).isSome = true ∧ (predicateBit (.cmp 0 gTrue 1 1 2 .ltu)).isSome = true ∧
    (tileChange (.br 0 gTrue 7)).isSome = true ∧ (vectorLane (.vadd 0 gTrue 1 2 3 0 .f32)).isSome = true := ⟨rfl, rfl, rfl, rfl⟩

/-- Arithmetic wraps (R194): 5 + (2^64 - 1) is 4; the product of the two is -5. -/
theorem test_add_wraps : (regsAfter (.add 0 gTrue 3 1 2) stA).s[3] = 4 ∧ (regsAfter (.mul 0 gTrue 3 1 2) stA).s[3] = -5 := by decide +kernel
/-- A shift amount is taken modulo 64 (R194): -1 shifts by 63. -/
theorem test_shift : (regsAfter (.shl 0 gTrue 3 1 2) stA).s[3] = 0x8000000000000000 ∧
    (regsAfter (.sar 0 gTrue 3 2 1) stA).s[3] = BitVec.allOnes 64 ∧ (regsAfter (.shr 0 gTrue 3 2 1) stA).s[3] = 0x07FFFFFFFFFFFFFF := by
  decide +kernel
/-- SETI extends the sign of IMM47; SETH keeps the low half (R192). -/
theorem test_seti : (regsAfter (.seti 0 gTrue 3 (BitVec.allOnes 47)) stA).s[3] = BitVec.allOnes 64 ∧
    (regsAfter (.seth 0 gTrue 1 7) stA).s[1] = 0x0000000700000005 := by decide +kernel
theorem test_minmax : (regsAfter (.mins 0 gTrue 3 1 2) stA).s[3] = BitVec.allOnes 64 ∧ (regsAfter (.minu 0 gTrue 3 1 2) stA).s[3] = 5 := by
  decide +kernel
/-- LTS is two's complement and LTU unsigned (R193). -/
theorem test_cmp : (regsAfter (.cmp 0 gTrue 2 2 1 .lts) stA).p[2] = BitVec.allOnes 64 ∧ (regsAfter (.cmp 0 gTrue 2 2 1 .ltu) stA).p[2] = 0 := by
  decide +kernel
/-- P0 cannot be written (R182). -/
theorem test_p0 : (regsAfter (.pfroms 0 gTrue 0 1) stA).p[0] = BitVec.allOnes 64 := by decide +kernel
/-- A guard that is false leaves the registers (R183). -/
theorem test_guard : (regsAfter (.add 0 gFalse 3 1 2) stA).s[3] = 0 := by decide +kernel
/-- SEL takes the register that bit 0 of its predicate names (R192). -/
theorem test_sel : (regsAfter (.sel 0 gTrue 3 1 2 1) stA).s[3] = 5 ∧ (regsAfter (.sel 0 gTrue 3 1 2 2) stA).s[3] = BitVec.allOnes 64 := by
  decide +kernel

/-! ### Tiles with a plan, a bound request and a shard -/

/-- A 128-bit constant from (bit, value) pairs. -/
def fields (l : List (Nat × Nat)) : BitVec 128 := BitVec.ofNat 128 (l.map (fun f => f.2 * 2 ^ f.1)).sum

/-- Constants 0 and 1: a gather of 32-byte elements of pod store, COUNT 4, 8 staging slots at 0x2000, N_MAX 1. 2: a fetch of KIND 1.
3: a selection of K 1 from 2, budget 1. 4: a Bean issue of list 0. 5: a TOKENISE of slot 0. -/
def constsA : List (BitVec 128) :=
  [fields [(125, 1), (68, 5), (36, 4), (16, 0x2000), (3, 8)], fields [(0, 1)],
   fields [(125, 1), (104, 1), (84, 0x2000), (71, 1)], fields [(107, 2), (100, 1), (87, 1)], 0, fields [(86, 4)]]
def secA : TileSec := ⟨0, [], constsA, [], [(0, 9)], [BitVec.ofNat 64 (1 * 2 ^ 61 + 3 * 2 ^ 46 + 0x11 * 2 ^ 31 + 7 * 2 ^ 24)]⟩
def nopA : Instr := .nop 0 gTrue
def pipeA : Pipe := ⟨1, 2, 4, 0, 1, 0, 0, 1, 1, 1, 4, 8⟩
def phaseA : Phase := ⟨0, 2, 1, 2, true, false⟩
/-- BLDQ of one column to Bean 2 at issue time 1. -/
def listA : BitVec 128 := fields [(104, 1), (91, 2), (60, 1), (3, 1)]
def planA : Plan :=
  { planId := 1, clockClass := 0, timingClass := 3, units := 0, nodeId := 0, partition := 0, pipes := [pipeA], phases := [phaseA],
    tiles := [secA], lists := [[listA]], ports := [] }
def reqA : Req :=
  { fn := 0, sq := 0, ctx := 5, pipe := 0, op := 1, tag := 0, k := 1, item := 7, inKind := 0, inAddr := 0, inLen := 64, resAddr := 4096,
    resLen := 64, yellow := false, seen := 0, head := none, backlogged := false, doomed := false, prep := none }
/-- Segment 0: one row at row 200, writable and valid. -/
def admA : Adm := ⟨reqA, 0, 0, none, 0, 0, Cal.reset, [BitVec.ofNat 64 (200 * 2 ^ 35 + 1 * 2 ^ 6 + 3)], none, false, false, false, none⟩
def ctxA : Ctx :=
  { Ctx.reset with live := true, ns := 1, metric := 1, dim := 64, fvFormat := 0, fvUnits := 5, adm := ⟨0, 1, 8, 1, 100⟩, segs := admA.segs }
/-- The directory of shard 0 of context 5: one group at row 100, the spill table at row 101. -/
def copyA : ShardCopy := ⟨100, 0, 101, 0, 110, 120, 130, 1, 0, 0, 5, []⟩
def entA : DirEnt := ⟨noRec, 7, true, false, false, false, false, false, 4800⟩
def imageA : Header := ⟨0, 9, 0, 0, 1, false, false, false, true, 7⟩
def memA : List Host.Cell := writeBytes (writeBytes [] 102400 (leBytes 16 (dirEntNat entA))) 153600 (headerBytes imageA)

def tileB (l : List (Fin 32 × Word64)) (store : Tab Byte) : Tile :=
  let r : Regs := { Regs.reset with s := l.foldl (fun v kv => v.set kv.1 kv.2) Regs.reset.s }
  { Tile.reset with run := true, regs := r, src := r, bound := some 3, srcBound := some 3, store := store }
/-- The node with plan A, context 5 and its shard, request A admitted in slot 3, and tile 0 with registers and a store. -/
def stB (l : List (Fin 32 × Word64)) (store : Tab Byte) : State :=
  { withTile (tileB l store) with
    plan := { PlanSt.reset with active := some planA }, ctxs := [(5, ctxA)], copies := [(shardKey 5 0, some copyA)], mem := memA,
    shards := [(shardKey 5 0, ⟨.takeover, 0, 0, false⟩)], host := { HostIf.reset with admitted := [(3, some admA)] } }

def tileAdd (a : Nat) : Word64 := BitVec.ofNat 64 a
def podAdd (a : Nat) : Word64 := BitVec.ofNat 64 (2 ^ 61 + a)
def segAdd (a : Nat) : Word64 := BitVec.ofNat 64 (2 ^ 62 + a)
def hostAdd (res a : Nat) : Word64 := BitVec.ofNat 64 (2 ^ 63 + res * 2 ^ 32 + a)

theorem wit_bound : (tileAt (stB [] []) 0 gTrue nopA).srcBound = some 3 ∧ (admOf (stB [] []) 3).isSome = true ∧ Executes (holding nopA (stB [] [])) 0 gTrue nopA :=
  ⟨by decide +kernel, by decide +kernel, by decide +kernel, by decide +kernel⟩
theorem wit_await : (tileAt stA 0 gTrue nopA).wait[0].dl = 0 ∧ stA.clk.tick ≤ 0 ∧
    ({ stA with clk := { Clock.reset with tick := 1 } } : State).clk.tick > 0 := by decide +kernel
/-- The slot 1024 names no request, and slot 3 one (R197). -/
theorem test_bind : (tileOf (after (.bind 0 gTrue 1 1) (stB [(1, 3)] [])) 0).bound = some 3 ∧
    (tileOf (after (.bind 0 gTrue 1 1) (stB [(1, 1024)] [])) 0).bound = none := by decide +kernel
def tileLoop : Tile := { tileA with loops := tileA.loops.set 1 ⟨true, 4, 6, 3, 2, 2, 5, 3, true⟩, next := 4 }
theorem wit_LoopIteration : mayIssue (holding nopA (withTile tileLoop)) 0 gTrue nopA = true ∧ tileLoop.due = [] ∧ (tileOf (withTile tileLoop) 0).loops[1].live = true ∧
    (tileOf (withTile tileLoop) 0).loops[1].on = true ∧ (tileOf (withTile tileLoop) 0).loops[1].first = (tileOf (withTile tileLoop) 0).next ∧
    (∀ k : Fin 4, k ≠ 1 → ((tileOf (withTile tileLoop) 0).loops[k]).live = false) ∧ (tileOf (withTile tileLoop) 0).loops[1].pd ≠ 0 := by
  decide +kernel
/-- Iteration 2 of a loop with ACT 2: S5 is 2 and P3 is zero (R195). -/
theorem test_loop : (tileOf (after (.nop 0 gTrue) (withTile tileLoop)) 0).src.s[5] = 2 ∧
    (tileOf (after (.nop 0 gTrue) (withTile tileLoop)) 0).src.p[3] = 0 := by decide +kernel

theorem wit_QuantLane : (0x80000000#32 : F32).toNat % 2 ^ 31 = 0 ∧ fisNaN (fdiv 0x7FC00000 0x3F800000) = true := by decide +kernel
/-- VQ (R216): 2.5 rounds to the even code 2; beyond QMAX it saturates and is counted, 7.3 too, and -7 is not. -/
theorem test_quant : quantLane false 0x40200000 0x3F800000 = (2, false) ∧ quantLane false 0x41000000 0x3F800000 = (7, true) ∧
    quantLane false 0x40E9999A 0x3F800000 = (7, true) ∧ quantLane false 0xC0E00000 0x3F800000 = (-7, false) := by
  decide +kernel
/-- R73's worked example, in two blocks: M = 3.5 lies in the second. -/
def quantX : List F32 := (List.replicate 64 (0 : F32)).set 2 0x3F000000 |>.set 5 0x41100000 |>.set 9 0x3F400000 |>.set 17 0xBFA00000
  |>.set 40 0x40600000 |>.set 41 0x40600000
theorem test_quantiser : (quantise .e8 none 8 0x4400 quantX).map (fun q => (q.vecScale, q.s8.getD 0 0, q.tail, q.clips)) =
    some (0x270F, 0xD7, [(5, 0x4880)], 0) ∧
    (quantise .e8 none 8 0x4400 quantX).map (fun q => [2, 5, 9, 17].map (fun i => q.codes.getD i 0)) = some [50, 0, 76, -126] := by
  decide +kernel
theorem wit_Absmax : 4032 % 64 = 0 ∧ 4032 + 64 ≤ 4096 ∧ (tileAt (stB [(1, 4032)] []) 0 gTrue nopA).src.s[1].toNat = 4032 := by decide +kernel

theorem wit_PlanAddresses : placeOf (stB [] []) 0 (tileAdd 0xFFFF8) 8 true = .tile 0xFFFF8 ∧ placeOf (stB [] []) 0 (tileAdd 0xFFFF9) 8 true = .illegal ∧
    placeOf (stB [] []) 0 (podAdd 16) 8 true = .pod 16 ∧ placeOf (stB [] []) 0 (segAdd 1016) 8 true = .node 205816 ∧
    placeOf (stB [] []) 0 (segAdd 1017) 8 false = .illegal ∧ placeOf (stB [] []) 0 (BitVec.ofNat 64 (5 * 2 ^ 61)) 1 false = .illegal ∧
    placeOf (stB [] []) 0 (hostAdd 1 0) 64 true = .host true 0 ∧ placeOf (stB [] []) 0 (hostAdd 0 1) 63 false = .host false 1 := by decide +kernel
/-- LDS reads little-endian (R8, R201). -/
theorem test_lds : (regsAfter (.lds 0 gTrue 4 1 1 0 ) (stB [(1, 16)] [(16, 1), (17, 2)])).s[4] = 0x201 := by decide +kernel
/-- An uncorrectable word keeps the destination and clears PD (R166). -/
theorem test_lds_bad : (regsAfter (.lds 0 { gTrue with ecc := ⟨0, some 0⟩ } 1 1 1 0) (stB [(1, 16)] [(16, 1)])).s[1] = 16 := by decide +kernel
theorem wit_Loads : (let i : Instr := .lds 0 gTrue 4 1 1 0
    let s := holding i (stB [(1, 16)] [(16, 1), (17, 2)])
    Executes s 0 gTrue i ∧ placeOf (issued s 0 gTrue i) 0 (moveAddr (tileAt s 0 gTrue i) 1 0) 8 false = .tile 16 ∧ Clean s 0 gTrue i [(16, 8)]) :=
  ⟨⟨by decide +kernel, by decide +kernel⟩, by decide +kernel, by unfold Clean; decide +kernel⟩
theorem wit_Stores : (let i : Instr := .stv 0 gTrue 1 2 1 0
    let s := holding i (stB [(1, 0x40000)] [])
    Executes s 0 gTrue i ∧ placeOf (issued s 0 gTrue i) 0 (moveAddr (tileAt s 0 gTrue i) 1 0) 256 true = .tile 0x40000) :=
  ⟨⟨by decide +kernel, by decide +kernel⟩, by decide +kernel⟩
theorem wit_LoopAwaitBind : (let i : Instr := .loop 0 gTrue 5 1 1 2 2 4
    mayIssue (holding i (stB [(1, 3)] [])) 0 gTrue i = true) ∧ (let i : Instr := .bind 0 gTrue 1 1
    Executes (holding i (stB [(1, 3)] [])) 0 gTrue i ∧ (admOf (holding i (stB [(1, 3)] [])) 3).isSome = true) :=
  ⟨by decide +kernel, ⟨by decide +kernel, by decide +kernel⟩, by decide +kernel⟩
theorem wit_BulkMoves : tileRangeOk (stB [] []) 0 0xFFFFF 1 = true ∧ tileRangeOk (stB [] []) 0 0xFFFFF 2 = false ∧
    placeOf (stB [] []) 0 (hostAdd 0 0) 64 false = .host false 0 ∧ (boundAdm (stB [] []) (tileAt (stB [] []) 0 gTrue nopA)).isSome = true := by
  decide +kernel
def stGather (idx : Byte) : State := stB [(1, 0x100), (2, 1), (3, 0x200)] (if idx = 0 then [] else [(0x100, idx)])
theorem wit_GatherOne : (let d := gatherDescOf (constOf (stGather 3) 0 0) (constOf (stGather 3) 0 1)
    (tileAt (stGather 3) 0 gTrue nopA).src.s[2].toNat = 1 ∧ 1 ≤ d.nMax ∧ d.outPod = false ∧ d.space = 1 ∧
    tileRangeOk (stGather 3) 0 0x200 (4 * d.nMax) = true ∧ storeNat (tileAt (stGather 3) 0 gTrue nopA).store 0x100 4 = 3 ∧ 3 < d.count ∧
    d.base + 3 * d.size + d.size ≤ 12 * 2 ^ 20 ∧ 1 ≤ d.stageSlots ∧ storeNat (tileAt (stGather 4) 0 gTrue nopA).store 0x100 4 = 4 ∧ d.count ≤ 4) := by
  decide +kernel
/-- The list of stGather names item 7 by a 64-bit word. -/
def stFetch : State := stB [(1, 0x100), (2, 1), (3, 0x200)] [(0x100, 7)]
theorem wit_FetchOne : (let d := fetchDescOf (constOf stFetch 0 2)
    d.nMax = 1 ∧ 1 ≤ d.stageSlots ∧ tileRangeOk stFetch 0 0x200 4 = true ∧ tileRangeOk stFetch 0 0x100 8 = true ∧
    fetchName d.kind (readBytes (tileAt stFetch 0 gTrue nopA).store 0x100 8) 0 = some (7, none) ∧
    locate stFetch 5 0 d.slotSize 7 none [] = .bytes (memRead stFetch 153600 160) 153600) := by decide +kernel
theorem wit_FetchOne_none : fetchName 1 (leBytes 8 (2 ^ 36 - 1)) 0 = none ∧ fetchName 0 (leBytes 16 ((2 ^ 36 - 1) * 2 ^ 32)) 0 = none := by decide +kernel
def stDir : State := stB [(1, 0x100)] [(0x108, 7)]
theorem wit_DirectoryAccess : tileRangeOk stDir 0 0x100 24 = true ∧ boundAdm stDir (tileAt stDir 0 gTrue nopA) = some admA ∧
    itemCopy stDir 5 (BitVec.ofNat 36 (storeNat (tileAt stDir 0 gTrue nopA).store 0x100 16 / 2 ^ 64)) = some copyA ∧
    dirRights (issued stDir 0 gTrue nopA) 0 = true ∧ dirLook stDir copyA 7 = some entA ∧
    dirRights (issued stA 0 gTrue nopA) 0 = false := by decide +kernel
theorem wit_BeanLists : (let d := issueDescOf (constOf stDir 0 4)
    planA.lists[d.list]? = some [listA] ∧ d.patchMax = 0 ∧ (listEntOf listA.toNat).isSome = true ∧
    (listEntOf listA.toNat).map (fun e => (decide (e.bean < 6144), dataBytes e)) = some (true, 32) ∧
    tileRangeOk stDir 0 0x100 32 = true ∧ tileRangeOk stDir 0 0x200 160 = true ∧ (tileAt stDir 0 gTrue nopA).phaseRefused = false) := by decide +kernel
theorem wit_BeanLists_read : (listEntOf (fields [(60, 5)]).toNat).map (·.op) = some .brdl := by decide +kernel
theorem wit_TextRequests : textInBytes (textDescOf (constOf stDir 0 5)) 0 = 0 ∧
    textOutBytes stDir (textDescOf (constOf stDir 0 5)) 0 = 32 := by decide +kernel

theorem wit_BankLoads : (128 : BitVec 8).toNat ≤ 128 ∧ (∀ r ∈ [127], r < (128 : BitVec 8).toNat) ∧
    (∀ r : Nat, r < 128 → tileRangeOk (stB [] []) 0 (0 + 32 * 4 * r) 128 = true ∧ tileRangeOk (stB [] []) 0 (128 + 32 * 4 * r) 4 = true) := by
  decide +kernel
/-- One MMAC of E4 codes 7 and -8 in one row: 7 × 7 + (-8) × (-8) = 113 in every element pair; 128 bytes give 128 × 113 (R221). -/
theorem test_codeDot : codeDot true (List.replicate 128 0x87) (List.replicate 128 0x87) = 128 * 113 := by decide +kernel
theorem wit_MatrixUnit : (2 : Fin 16).val % 2 = 0 ∧ (2 : Fin 16) ≠ 0 ∧ (62 : Fin 64).val % 2 = 0 ∧ Bank.reset.fmt ≠ .f16 := by decide
def stSel : State := stB [(1, 0x100), (2, 2), (3, 0x200)] []
theorem wit_Turnip : (let k := turnipIn stSel 0 0 1 2 3 3
    tileRangeOk stSel 0 k.out (16 * k.desc.k) = true ∧ tileRangeOk stSel 0 k.src (16 * k.len) = true ∧ cursorOf stSel 0 k.word ≠ .illegal ∧
    k.desc.k = 1 ∧ k.len = 2 ∧ k.desc.budget = 1 ∧ tileRangeOk stSel 0 k.out (16 * k.desc.budget) = true) := by decide +kernel
/-- Between equal scores the lower item id wins (R233), and NaN ranks last (R101). -/
theorem test_rank : rankSort [⟨0, 0, 0, 9, 0x3F800000⟩, ⟨0, 0, 0, 1, 0x7FC00000⟩, ⟨0, 0, 0, 8, 0x3F800000⟩] =
    [⟨0, 0, 0, 8, 0x3F800000⟩, ⟨0, 0, 0, 9, 0x3F800000⟩, ⟨0, 0, 0, 1, 0x7FC00000⟩] := by decide +kernel
/-- The node with port 1 up and its bypass open. -/
def stPort : State :=
  { stB [] [] with fab := { Fabric.reset with byp := Fabric.reset.byp.set 0 .open_, ports := Fabric.reset.ports.set 1 { Port.reset with state := .up } } }
theorem wit_CellSends : portOpen stPort 1 = true ∧ (tileSec stPort 0).isSome = true ∧ secA.sends[(0 : BitVec 12).toNat]?.isSome = true ∧
    (sendEntOf (secA.sends.getD 0 0).toNat).port = 1 ∧ tileRangeOk stPort 0 (2 ^ 20 - 240) 240 = true ∧ tileRangeOk stPort 0 (2 ^ 20 - 239) 240 = false := by
  decide +kernel
theorem wit_CellSends_used : (tileAt { stPort with tiles := [(0, { tileB [] [] with phaseUsed := true })] } 0 gTrue nopA).phaseUsed = true ∧
    boundAdm stA (tileAt stA 0 gTrue nopA) = none := by decide +kernel
theorem wit_Completes : (tileAt (stB [] []) 0 gTrue nopA).srcBound = some 3 ∧ admOf (stB [] []) 3 = some admA ∧ admA.silent = false ∧
    boundAdm stA (tileAt stA 0 gTrue nopA) = none := by decide +kernel
theorem wit_RecordStatus : (ctxOf (stB [] []) 5).adm.minCov = 100 ∧ 0x11 < (0x12 : BitVec 8).toNat ∧ reqA.op = 1 := by decide +kernel
/-- CPLT of DONE below MIN_COV leaves PARTIAL (R446). -/
theorem test_partial : finalStatus (stB [] []) reqA { Result.of 0x00 with coverage := 99 } = 0x0B ∧
    finalStatus (stB [] []) reqA { Result.of 0x00 with coverage := 100 } = 0x00 := by decide +kernel
theorem wit_ResultsLand (k : Nat) : tget 0 (tileAt stA 0 gTrue nopA).due k ≤ (tileAt stA 0 gTrue nopA).cyc := by
  rw [show (tileAt stA 0 gTrue nopA).due = [] by decide +kernel]
  exact Nat.zero_le _
/-- A MUL's result issued a cycle before a SETI's becomes visible after it, and stands (R184). -/
theorem test_later : (let x : Tile := { tileA with due := [(3, 10)] }
    (landed 8 x { tileA with regs := { tileA.regs with s := tileA.regs.s.set 3 7 } } [(.s 3, 1)]).regs.s[3] = x.regs.s[3] ∧
    (landed 9 x { tileA with regs := { tileA.regs with s := tileA.regs.s.set 3 7 } } [(.s 3, 1)]).regs.s[3] = 7) := by decide +kernel
def podW (eff tile : Nat) (b : Byte) : PodWrite := ⟨eff, tile, 64, [b, b]⟩
theorem wit_PodPort : (podW 12 0 1).data.length = 2 ∧ (podW 12 5 2).data.length = 2 ∧
    readBytes (podBefore { Pod.reset with writes := [podW 12 0 1] } 12).store 64 2 = [0, 0] ∧
    readBytes (podBefore { Pod.reset with writes := [podW 12 0 1] } 13).store 64 2 = [1, 1] ∧
    readBytes (podBefore { Pod.reset with writes := [podW 12 5 2, podW 12 0 1] } 13).store 64 2 = [2, 2] := by decide +kernel
theorem wit_clean : Clean (stB [] []) 0 gTrue nopA [(16, 8)] ∧ ¬ Clean (stB [] []) 0 { gTrue with ecc := ⟨0, some 0⟩ } nopA [(16, 8)] ∧
    badWordAt (issued (stB [] []) 0 gTrue nopA) (.pod 0) [(16, 8)] gTrue.ecc = none := by
  refine ⟨?_, ?_, ?_⟩ <;> (try unfold Clean) <;> decide +kernel

/-! ### Reset, boot and ticks -/

/-- The node with another always-on domain. -/
def aonWith (f : Aon → Aon) : State := { nodeA with aon := f nodeA.aon }

theorem wit_NodeRuns : NodeRuns nodeA := ⟨by decide, by decide⟩
theorem wit_ResetInputs : State.reset.aon.powered = true ∧ State.reset.aon.inReset = true ∧ State.reset.aon.bfOwn = false ∧
    State.reset.aon.hold = false ∧ State.reset.aon.resetN = false := by decide
/-- R519: the node leaves reset when the inputs rise, and a fall of NODE_RESET_N resets it again with cause SMBUS. -/
theorem test_reset : (after (.resetRelease 5) State.reset).aon.inReset = false ∧ (after .nodeResetNFall nodeA).aon.cause = .smbus ∧
    (after (.resetRelease 5) (aonWith (fun a => { a with inReset := true, bfOwn := true }))).aon.inReset = true := by decide +kernel
theorem wit_bfOwnRelease : (aonWith (fun a => { a with inReset := true, resetN := true, perstN := true })).aon.hold = false := by decide
theorem wit_WatchdogAndTrip : NodeRuns (aonWith (fun a => { a with wdog := 16777216, tripMem := 2 })) := ⟨by decide, by decide⟩
theorem test_watchdog : (after (.watchdogExpiry true) (aonWith (fun a => { a with wdog := 16777216, tripMem := 2 }))).aon.cause = .thermal ∧
    (after (.watchdogExpiry true) (aonWith (fun a => { a with wdog := 16777216, tripMem := 1 }))).aon.cause = .watchdog := by decide +kernel
/-- R468: 95 °C and 85 °C are 20 below their trips. -/
theorem test_hold : (after .thermalHoldEnd (aonWith (fun a => { a with hold := true, sensC := 95, sensIo := 95, sensMem := 85 }))).aon.hold = false ∧
    (after .thermalHoldEnd (aonWith (fun a => { a with hold := true, sensC := 96 }))).aon.hold = true := by decide +kernel
theorem wit_BootStages_rom : NodeRuns (aonWith (fun a => { a with stage := .rom })) ∧
    ((([] : List BootRec).take 64).filter (fun r => r.type.toNat == 1)).length ≠ 1 := ⟨⟨by decide, by decide⟩, by decide⟩
/-- The rails of R513 for variant 0 at their nominal values; VDD_CMP at 800 mV has 3 %. -/
def railsA : Rails := ⟨800, 1100, 400, 1800, 800, 900, 3300, 750, 1200⟩
theorem wit_BootStages_rails : railsOk 0 railsA = true ∧ railsOk 0 { railsA with vddCmp := 824 } = true ∧
    railsOk 0 { railsA with vddCmp := 825 } = false := by decide
theorem wit_BootStages_training : (List.replicate 256 (⟨0, true, true⟩ : UnitTrain)).length = 256 ∧
    (∀ x ∈ List.replicate 256 (⟨0, true, true⟩ : UnitTrain), x.full = true) ∧ ([] : List UnitTrain)[255]? = none :=
  ⟨List.length_replicate, fun _ h => (List.eq_of_mem_replicate h) ▸ rfl, rfl⟩
theorem wit_BootStages_rest : (aonWith (fun a => { a with trainWriting := true })).aon.trainWriting = true ∧
    (aonWith (fun a => { a with stage := .zeroing })).aon.zeroed = false ∧
    (aonWith (fun a => { a with stage := .zeroing, zeroed := true })).aon.stage = .zeroing := by decide

/-- A function with records to come: EN, a ring of 4, one descriptor of opcode 0 in slot 0. -/
def funcA : Func := { Func.reset with en := true, log2 := 2, cqTail := 3, sqSeen := 1, sqTail := 1, runSeen := true }
def dueA : Due := ⟨0, 0, none, 0, 2 ^ 255 + 5⟩
def stDue : State := { nodeA with funcs := [(0, funcA)], host := { HostIf.reset with due := [dueA] } }
theorem wit_CompletionRecords : NodeRuns stDue ∧ stDue.host.due = [dueA] ∧ stDue.host.queued = [] ∧ stDue.ctxs = [] ∧
    (funcOf stDue 0).flrAsked = false ∧ (funcOf stDue 0).fault = false ∧
    (funcOf stDue 0).cqTail.toNat + 1 = 2 ^ (funcOf stDue 0).log2.toNat :=
  ⟨⟨by decide, by decide⟩, rfl, rfl, rfl, by decide, by decide, by decide⟩
/-- The last record of the ring turns PHASE over (R440, R444). -/
theorem test_ring : (funcOf (after .tickBoundary stDue) 0).cqTail = 0 ∧ (funcOf (after .tickBoundary stDue) 0).phase = false ∧
    (after .tickBoundary stDue).io.hostWrites.map (·.1) = [96, 127] := by decide +kernel
def stTime : State := { nodeA with fab := { Fabric.reset with ports := Fabric.reset.ports.set 2 { Port.reset with timeSrc := true } } }
theorem wit_TickMarkers : stTime.mach.join = none ∧ stTime.fab.ports[2].timeSrc = true ∧ stTime.fab.ports[1].timeSrc = false ∧
    stTime.clk.resync = none ∧ stTime.clk.misses = 0 := by decide
/-- R257: 4 ns are 16 quarter-nanoseconds. -/
theorem test_marker : (after (.tickMarkerReceive 2 ⟨0, 0, 0⟩ 16) stTime).clk.locked = true ∧
    (after (.tickMarkerReceive 2 ⟨0, 0, 0⟩ 17) stTime).clk.locked = false := by decide +kernel

/-- A search descriptor of context 5 on pipeline 0: 64 F16 values, K 1, results at 4096. -/
def descA : BitVec 512 := BitVec.ofNat 512 (4096 * 2 ^ 448 + 64 * 2 ^ 352 + 128 * 2 ^ 320 + 1 * 2 ^ 115 + 5 * 2 ^ 36 + 1)
def planS : Plan := { planA with pipes := [{ pipeA with kind := 0, resSets := 0 }] }
/-- The node with plan S, a function with a descriptor in its ring, and the node in its own epoch. -/
def stSq (d : BitVec 512) : State :=
  { stB [] [] with plan := { PlanSt.reset with active := some planS }, funcs := [(0, { funcA with ring := tput 0 [] 0 d, cqTail := 0 })],
                   mach := { Mach.reset with role := .steward, members := [0] } }
theorem wit_Descriptors : (stSq descA).clk.did.consumed = false ∧ mayConsume (funcOf (stSq descA) 0) = true ∧
    (funcOf (stSq descA) 0).sqSeen = (funcOf (stSq descA) 0).sqHead + 1 ∧ descCheck (stSq 0) 0 (descOf 0) = some 0x01 ∧
    descCheck (stSq descA) 0 (descOf descA) = none ∧
    (colour (funcOf (stSq descA) 0).meter (preColour (funcOf (stSq descA) 0).meter (descOf descA)) (64 + (descOf descA).inLen)).1 = .green ∧
    (ctxOf (stSq descA) 5).graph = 0 ∧ (ctxOf (stSq descA) 5).adm.qMax = 8 := by decide +kernel
theorem test_consume : (after .descriptorConsume (stSq descA)).host.queued.length = 1 ∧
    ((after .descriptorConsume (stSq 0)).host.due.map (·.sq)) = [0] := by decide +kernel
theorem wit_Descriptors_none : mayConsume (funcOf State.reset 0) = false ∧ nodeA.aon.inReset = false := by decide
def stQueue (tick : Nat) : State :=
  { stSq descA with host := { HostIf.reset with queued := [reqA] }, clk := { Clock.reset with tick := tick } }
theorem wit_Admission : planS.pipes[(0 : Fin 63).val]? = some { pipeA with kind := 0, resSets := 0 } ∧ (stQueue 8).clk.tick % 4 = 0 ∧
    (stQueue 8).plan.start ≤ 8 ∧ (stQueue 8).plan.draining = false ∧ (stQueue 8).mach.dropped = none ∧
    8 / 4 % 8 < 8 - (stQueue 8).pow.shed.toNat ∧ frameHolds (stQueue 8) 0 = false ∧
    bestBy (admitBefore (stQueue 8) 0) ((stQueue 8).host.queued.filter (ready (stQueue 8) 0 { pipeA with kind := 0, resSets := 0 })) = some reqA ∧
    multiPhase planS { pipeA with kind := 0, resSets := 0 } = false ∧ nodeClass (stQueue 8) ≤ planS.timingClass := by decide +kernel
theorem wit_Admission_shed : (8 - ({ Power.reset with shed := 1 } : Power).shed.toNat ≤ 28 / 4 % 8) ∧
    ({ planS with timingClass := 0 } : Plan).timingClass < nodeClass { stQueue 8 with stk := { Stacks.reset with cls := [0, 0, 1, 0, 0, 0, 0, 0] } } := by
  decide +kernel
/-- R262: opportunity 2 of a pipeline of depth 1 takes slot 0. -/
theorem test_admit : ((admOf (after (.admissionOpportunity 0 []) (stQueue 8)) 0).map (·.t)) = some 8 ∧
    (after (.admissionOpportunity 0 []) (stQueue 8)).host.queued = [] := by decide +kernel
def planF : Plan := { planS with pipes := [{ pipeA with kind := 0 }] }
def stFrame (rs : Tab (Option ResSet)) : State :=
  { stQueue 64 with plan := { PlanSt.reset with active := some planF }, host := { HostIf.reset with queued := [reqA], resSets := rs } }
theorem wit_Frames : planF.pipes = [{ pipeA with kind := 0 }] ∧ (stFrame []).clk.tick % 64 = 0 ∧ (stFrame []).clk.did.framed = false ∧
    tget none (stFrame []).host.resSets 0 = none ∧ tget none (stFrame [(0, some ⟨5, 3, some 5, some 5⟩)]).host.resSets 0 = some ⟨reqA.ctx, 3, some 5, some 5⟩ ∧ 3 < pipeA.frameMax ∧
    tget none (stFrame [(0, some ⟨6, 1, none, some 6⟩)]).host.resSets 0 = some ⟨6, 1, none, some 6⟩ := by decide +kernel
theorem wit_PhaseStarts : planA.pipes[(0 : Fin 63).val]? = some pipeA ∧ (0 : Fin 255).val < pipeA.phaseNum ∧ planA.phases[0]? = some phaseA ∧
    phaseA.start ≤ 8 ∧ (8 - phaseA.start) % pipeA.period = pipeA.phase ∧ entryOf secA 0 = some 9 ∧
    ((planA.tiles[1]?).bind (fun x => entryOf x 0)) = none := by decide +kernel
/-- An INTERNAL pipeline takes a search of another entry node in (R279). -/
def planI : Plan := { planA with pipes := [{ pipeA with kind := 4, perIssue := 1 }], phases := [⟨0, 1, 0, 0, true, false⟩] }
def stQuery : State := { stB [] [] with plan := { PlanSt.reset with active := some planI }, host := HostIf.reset, clk := { Clock.reset with tick := 8 } }
def queryA : QueryIn := ⟨0, 3, 5, 6, 0x3400⟩
theorem wit_PhaseStarts_query : (let q : Pipe := { pipeA with kind := 4, perIssue := 1 }
    stQuery.plan.active = some planI ∧ planI.pipes[0]? = some q ∧ 0 < q.phaseNum ∧ planI.phases[q.phaseFirst]? = some ⟨0, 1, 0, 0, true, false⟩ ∧
    stQuery.clk.tick % q.period = q.phase ∧ queryA.place.val < q.perIssue ∧ (ctxOf stQuery 5).live = true ∧ admOf stQuery (slotFor q 8 0) = none) := by
  decide +kernel
theorem test_phase : (tileOf (after (.phaseStart 0 0 [] [] []) { stB [] [] with clk := { Clock.reset with tick := 8 } }) 0).next = 9 := by decide +kernel
theorem wit_PhaseEnds : (phaseBoundary planA { admA with fault := some 0x0C } 2).2 = true ∧ phaseBoundary planA admA 1 = (false, false) := by
  decide +kernel
theorem wit_PodWakes : phaseA.start ≤ 7 + 1 ∧ (7 + 1 - phaseA.start) % pipeA.period = pipeA.phase ∧ (64 + 0 - phaseA.start) % pipeA.period = pipeA.phase ∧
    (podOf { nodeA with pods := [(1, { Pod.reset with clk := .gated, wakeAt := some 5 })] } 1).wakeAt = some 5 ∧
    (podOf { nodeA with pods := [(1, { Pod.reset with clk := .relocking, wakeAt := some 5 })] } 1).clk = .relocking := by decide +kernel

/-! ### Elements, stores and Beans -/

def elemH : Elem := ⟨9, 0, 1, .loadHost 64 2 0, 0, none⟩
def stElem (tick : Nat) : State :=
  { withTile { tileA with wait := tileA.wait.set 1 ⟨true, 4, 1, 1, 0, 0, 0, 0, 0, 0, false⟩, awaiting := some (6, 2, 1) } with
    elems := [elemH], clk := { Clock.reset with tick := tick } }
theorem wit_ElementsLand : elemOf (stElem 4) 9 = some elemH ∧ elemH.kind = .loadHost 64 [7, 8].length 0 ∧
    elemHeld (stElem 4) 9 = false := by decide +kernel
/-- Data that land in the deadline tick arrive, and one tick later are late (R188). -/
theorem test_land : ((tileOf (after (.asyncElementLand 9 (.data [7, 8])) (stElem 4)) 0).store) = [(64, 7), (65, 8)] ∧
    (tileOf (after (.asyncElementLand 9 (.data [7, 8])) (stElem 5)) 0).wait[1].late = 1 := by decide +kernel
def stWait : State := { stElem 4 with elems := [{ elemH with kind := .storeHost }] }
theorem wit_ElementsLand_deadline : (tileOf stWait 0).wait[1].armed = true ∧ (tileOf stWait 0).wait[1].final = false ∧
    (tileOf stWait 0).wait[1].dl ≤ stWait.clk.tick ∧ (∀ e ∈ stWait.elems, e.tile = 0 → e.wait = 1 → e.kind = .storeHost) ∧
    stWait.fl.reads = [] ∧ (tileOf stWait 0).awaiting = some (6, 2, 1) := by decide +kernel
/-- One element in flight and one cell that has not come are both LATE (R188, R189). -/
theorem test_deadline : (tileOf (after (.waitDeadlineEnd 0 1) stWait) 0).wait[1].late = 2 := by decide +kernel
def planL : Plan := { planA with tiles := [{ secA with progLimit := 64 }] }
def stFault : State := { stB [] [] with plan := { PlanSt.reset with active := some planL } }
theorem wit_StoreFaults : mayFetch stFault 0 = true ∧ 63 < progLimit stFault 0 ∧ (admOf stFault 3).map (fun a => (a.req.pipe, a.t, a.fault)) = some (0, 0, none) ∧
    (tileOf stFault 0).phasePipe = 0 ∧ (tileOf stFault 0).phaseT = 0 := by decide +kernel
theorem wit_StoreFaults_scrub : 8 ∈ (tileOf (withTile { tileA with scrub := [8], spares := 15 }) 0).scrub ∧
    (tileOf (withTile { tileA with scrub := [8], spares := 15 }) 0).spares < 16 ∧
    16 ≤ (tileOf (withTile { tileA with scrub := [8], spares := 16 }) 0).spares ∧
    8 ∈ (podOf { nodeA with pods := [(1, { Pod.reset with scrub := [8] })] } 1).scrub := by decide +kernel

/-- The node with Bean 5 as given. -/
def stBean (x : Bean) : State := { nodeA with stk := { Stacks.reset with beans := [(5, x)] } }
theorem wit_BeanRegisters : Awake (stBean Bean.reset) 5 ∧ (dueWord (stBean Bean.reset) 5 .bldq { zeroWord with len := 10 }).len.toNat ≤ 10 :=
  ⟨⟨by decide +kernel, by decide +kernel⟩, by decide +kernel⟩
/-- BLDQ loads LEN columns of 32 bytes and keeps the others (R128). -/
theorem test_bldq : (beanOf (after (.bldq 5 { zeroWord with len := 1 } (List.replicate 32 7)) (stBean { Bean.reset with qbuf := List.replicate 320 1 })) 5).qbuf.take 33 =
    List.replicate 32 7 ++ [1] := by decide +kernel
/-- A parameter block of E8 codes of dimension 32 in records of 48 bytes, metric 1, THETA -∞ (R127). -/
def paramA : List Byte := leBytes 64 (0xFF800000 * 2 ^ 224 + 1 * 2 ^ 165 + 2 * 2 ^ 162 + 32 * 2 ^ 150 + 3 * 2 ^ 145)
def wordScan : BeanWord := { zeroWord with pairRow := 31, nrows := 1, tag := 9 }
theorem wit_BeanFree : BeanFree (stBean Bean.reset) 5 0 := ⟨by decide +kernel, by decide +kernel, by decide +kernel, by decide +kernel⟩
theorem wit_BeanScan : paramBad (paramOf (scanStart (beanOf (stBean { Bean.reset with param := paramA }) 5) wordScan).param) = false ∧
    paramBad (paramOf (scanStart (beanOf (stBean { Bean.reset with param := List.replicate 64 255 }) 5) wordScan).param) = true ∧
    scansUnsure (stBean { Bean.reset with param := paramA }) 5 wordScan = false ∧
    scanWithheld (stBean { Bean.reset with param := paramA }) 5 (queuedFor (stBean { Bean.reset with param := paramA }) 5 .bscan) = false ∧
    dueRefused (stBean { Bean.reset with param := paramA }) 5 .bscan = false ∧
    operandBad (stBean { Bean.reset with param := paramA }) 5 .bscan wordScan [] = none ∧
    (stBean { Bean.reset with param := paramA }).mach.rehActive = false := by decide +kernel
/-- A live record of zeros passes THETA -∞ and is the list's one entry; its row has 20 more empty slots (R131, R134). -/
theorem test_bscan : (let x := beanOf (after (.bscan 5 wordScan []) { stBean { Bean.reset with param := paramA } with
      mem := writeBytes [] (rowAddr 5 31) (headerBytes ⟨0, 3, 0, 0, 1, false, false, false, true, 7⟩) }) 5
    (x.pass, x.malformed, x.list.length) = (1, 0, 1)) := by decide +kernel
theorem wit_BeanWrites : beanWordOk .bput { zeroWord with off := 44, len := 20 } = true ∧ beanWordOk .bzero wordScan = true ∧
    beanWordOk .bcopy { zeroWord with pairRow := 8, nrows := 4, dest := 12 } = true ∧
    moverMay (stBean Bean.reset) 5 .bcopy { zeroWord with pairRow := 8, nrows := 4, dest := 12 } = true ∧
    placeFree (stBean Bean.reset) (dieOfBean 5) = true ∧ operandBad (stBean Bean.reset) 5 .bput { zeroWord with off := 44, len := 20 } [] = none ∧
    operandBad (stBean Bean.reset) 5 .bcopy { zeroWord with pairRow := 8, nrows := 4, dest := 12 } [] = none := by decide +kernel
/-- BPUT writes columns of the work buffer at column OFF (R136). -/
theorem test_bput : memNat (after (.bput 5 { zeroWord with off := 44, len := 1 } []) (stBean { Bean.reset with wbuf := List.replicate 320 3 }))
    (rowAddr 5 0 + 16 * 44) 2 = 0x0303 := by decide +kernel
/-- A burst of row 0 of Bean 5 whose first word has two bits in error that name no position, as the 65 and the 129 give 194 (R117). -/
def oddPut : List (Nat × Burst) := [(rowAddr 5 0, { zeroBurst with bytes := leBytes 64 (2 ^ 57 + 2 ^ 120) })]
/-- A BPUT that keeps such a word is abandoned; one that replaces it is not (R121, R136). -/
theorem test_operand : operandBad (stBean Bean.reset) 5 .bput { zeroWord with off := 1, len := 3 } oddPut = some (rowAddr 5 0) ∧
    operandBad (stBean Bean.reset) 5 .bput { zeroWord with off := 0, len := 4 } oddPut = none := by decide +kernel
def runPut : Running := ⟨.bput, { zeroWord with off := 1, len := 3 }, false, true, false, false, 0, 12, 100⟩
theorem wit_BeanRetries : (stBean { Bean.reset with run := some runPut }).stk.held = [] ∧
    (beanOf (stBean { Bean.reset with run := some runPut }) 5).run = some runPut ∧ runPut.stop + 64 < 640 * 0 + 640 ∧
    (stBean Bean.reset).clk.tick = 0 ∧ max (640 * 0) (runPut.stop + 64) + beanNs runPut.op runPut.w ≤ runPut.bookEnd ∧
    operandErr (stBean { Bean.reset with run := some runPut }) 5 .bput runPut.w true oddPut = some (rowAddr 5 0) ∧
    operandErr (stBean { Bean.reset with run := some runPut }) 5 .bput runPut.w true [] = none ∧
    (beanOf (stBean { Bean.reset with run := some { runPut with retryDue := false } }) 5).run = some { runPut with retryDue := false } ∧
    (stBean Bean.reset).stk.urgent.getLsbD 5 = false := by decide +kernel
theorem test_retry : (beanOf (after (.beanRetry 5 oddPut) (stBean { Bean.reset with run := some runPut })) 5).status = 2 ∧
    (after (.beanRetry 5 oddPut) (stBean { Bean.reset with run := some runPut })).stk.remapQ = [(5, 0)] := by decide +kernel
def extraA : Extra := ⟨2, 5, .bcopy, { zeroWord with pairRow := 8, nrows := 4, dest := 12 }, 0⟩
theorem wit_BeanExtras : ({ stBean Bean.reset with stk := { (stBean Bean.reset).stk with movers := [extraA] } } : State).stk.movers.find?
      (fun e => e.bean == 5) = some extraA ∧ moverMay (stBean Bean.reset) 5 extraA.op extraA.w = true ∧
    extraReady (stBean Bean.reset) extraA = true ∧ dieOfBean extraA.bean.val = (dieOfBean 5) ∧ dieOfBean 5 < 96 ∧
    sortBy extraBefore [extraA] = extraA :: [] ∧
    operandErr (stBean Bean.reset) 5 extraA.op extraA.w (extraA.kind == 0) [] = none := by decide +kernel
theorem wit_BeanReads : (beanOf (stBean { Bean.reset with rereading := some none }) 5).rereading = some none ∧
    (beanOf (stBean Bean.reset) 5).run = none ∧ (stBean Bean.reset).stk.extraWait = [] := by decide +kernel
theorem wit_CompletionWord : ({ Bean.reset with status := 7, list := List.replicate 8 0 } : Bean).status < 8 ∧
    ({ Bean.reset with status := 7, list := List.replicate 8 0 } : Bean).list.length ≤ 8 := by decide +kernel
/-- Tag 1, status 4, one row lost (R134): three bits, and the parity bit makes four. -/
theorem test_word : completionWord { Bean.reset with tag := 1, status := 4, rowsLost := 1 } = 2 ^ 56 + 4 * 2 ^ 53 + 2 ^ 21 + 1 := by decide +kernel

/-! ### Node memory -/

def accW : Access := ⟨.node, true, 1020, 8, List.replicate 8 5, []⟩
theorem wit_OrdinaryAccesses : oddIn (stBean Bean.reset) accW.odd accW.addr accW.len = [] ∧ accW.addr + accW.len ≤ 412316860416 ∧
    (stBean Bean.reset).stk.held = [] ∧ accessDue (stBean Bean.reset) accW = true ∧
    (∀ k ∈ beansOfRange accW.addr accW.len, beanBusy (stBean Bean.reset) k = false) ∧ accW.data.length = accW.len := by decide +kernel
theorem wit_OrdinaryAccesses_pcs (pc : Nat) : (pcTrainOf (stBean Bean.reset) pc).held = false ∧ (pcTrainOf (stBean Bean.reset) pc).dead = false :=
  ⟨rfl, rfl⟩
theorem wit_OrdinaryAccesses_held : (beansOfRange (rowAddr 5 0) 4) = [5] ∧
    beanBusy (stBean { Bean.reset with run := some { runPut with retryDue := false } }) 5 = true := by decide +kernel
theorem test_access : memNat (after (.ordinaryAccess accW) (stBean Bean.reset)) 1020 8 = 0x0505050505050505 := by decide +kernel
theorem wit_OuterDecoder : zeroBurst.bytes.length = 64 ∧ zeroBurst.check.length = 8 ∧ zeroBurst.inner.length = 4 ∧
    rsSolve (burstInner zeroBurst ++ zeroBurst.check.take 4) = some [] := by decide +kernel
/-- A byte with bits 0 and 3 in error shows the syndrome 3 + 7 = 4 and is corrected by the outer code; with bits 0 to 2 the syndrome
is 3 + 5 + 6 = 0, so the die reports nothing and the burst reads uncorrectable (R117, R119). -/
theorem test_outer : (decodeBurst { zeroBurst with bytes := 9 :: List.replicate 63 0 }).1 = some (List.replicate 64 0) ∧
    (decodeBurst { zeroBurst with bytes := 7 :: List.replicate 63 0 }).1 = none := by decide +kernel
theorem wit_Refresh : debtOf { nodeA with stk := { Stacks.reset with debt := [(10, 7)] } } 10 + 1 = 8 ∧ beanBusy nodeA 5 = false ∧
    nodeA.stk.selfRef.getLsbD (5 % 8) = false ∧ 5 < debtOf { nodeA with stk := { Stacks.reset with debt := [(11, 6)] } } 11 ∧
    (∀ k : Fin 2, debtOf { nodeA with stk := { Stacks.reset with debt := [(10, 5)] } } (2 * 5 + k.val) ≤ 5) := by decide +kernel
theorem wit_Refresh_rfm : Config.rfmThreshold < tget 0 [(10, Config.rfmThreshold + 1)] 10 := Nat.lt_succ_self _
theorem wit_SelfRefresh : (stBean Bean.reset).stk.queue = [] ∧ (stBean Bean.reset).stk.held = [] ∧ (stBean Bean.reset).stk.extraWait = [] ∧
    (∀ kv ∈ (stBean Bean.reset).stk.beans, kv.2.run = none) ∧
    ({ nodeA with stk := { Stacks.reset with selfRef := 4 } } : State).stk.selfRef.getLsbD 2 = true := by decide +kernel
def stRemap (used : List (Nat × Nat)) : State := { nodeA with stk := { Stacks.reset with remapQ := [(5, 6)], spareUsed := used } }
theorem wit_RowRemaps : (stRemap []).stk.remapQ.find? (fun q => beanStack q.1 == (5 : Fin 8).val && remapMay (stRemap []) q.1) = some (5, 6) ∧
    freeSpare (stRemap []) 3 = some 0 ∧ oddIn (stRemap []) [] (rowAddr 5 6) 1024 = [] := by decide +kernel
theorem wit_RowRemaps_full : freeSpare (stRemap ((List.range 64).map (fun x => (3, x)))) 3 = none := by decide +kernel
theorem wit_StackRetraining : NodeRuns nodeA ∧ (pcTrainOf nodeA 3).training = false ∧ (pcTrainOf nodeA 3).dead = false ∧
    (pcTrainOf { nodeA with stk := { Stacks.reset with pcs := [(3, ⟨false, true, true, true, false, 0⟩)] } } 3).training = true :=
  ⟨⟨by decide, by decide⟩, by decide, by decide, by decide⟩
/-- An upsert's F32 input: a NaN is found in it, and a number is not (R72). -/
def reqU : Req := { reqA with op := 2, inKind := 1 }
theorem wit_ElementsLand_input : (({ admA with req := reqU } : Adm).req.op, ({ admA with req := reqU } : Adm).req.inKind, admA.fault) = (2, 1, none) ∧
    fisNaN (BitVec.ofNat 32 (leAt (leBytes 4 0x7FC00000) 0 4)) = true ∧ reqA.op ≠ 0x02 := by decide +kernel

/-! ### Temperature, calibration and power -/

theorem wit_MemoryClasses : (List.replicate 96 (67 : BitVec 8)).length = 96 ∧ nodeA.stk.clsNext = none ∧ nodeA.stk.cls[7]? = some 0 ∧
    ({ nodeA with stk := { Stacks.reset with clsNext := some ([2, 0, 0, 0, 0, 0, 0, 0], 3) }, clk := { Clock.reset with tick := 4 } } : State).stk.clsNext = some ([2, 0, 0, 0, 0, 0, 0, 0], 3) ∧ 3 < 4 := by
  decide +kernel
/-- A stack of class 2 falls to 1 at 82 °C and stays at 83 °C (R466). -/
theorem test_classes : ((after (.memTempReading (List.replicate 96 82)) { nodeA with stk := { Stacks.reset with cls := List.replicate 8 2 } }).stk.clsNext =
      some (List.replicate 8 1, 0)) ∧
    ((after (.memTempReading (List.replicate 96 83)) { nodeA with stk := { Stacks.reset with cls := List.replicate 8 2 } }).stk.clsNext =
      some (List.replicate 8 2, 0)) := by decide +kernel
def stRose : State := { nodeA with ctxs := [(5, { Ctx.reset with live := true })], stk := { Stacks.reset with rose := true, cls := [1, 0, 0, 0, 0, 0, 0, 0] } }
theorem wit_MemoryClasses_ramp : (ctxOf stRose 5).live = true ∧ stRose.stk.rose = true ∧ (ctxOf stRose 5).cal.calClass < (clsNow stRose).foldl max 0 ∧ classRose stRose = true ∧
    (ctxOf stRose 5).calNext = none := by
  decide +kernel
theorem wit_NodeSensors : ([40, 41, 42, 43, 44, 45] : List (BitVec 8)).length = 6 ∧ (100 : BitVec 8).toNat = 100 ∧ nodeA.pow.warn = false := by decide
theorem wit_PowerWindows : nodeA.clk.tick % 1024 = 0 ∧ nodeA.clk.lastPower ≠ some nodeA.clk.tick ∧
    (let p : Power := { Power.reset with calm := 3, shed := 2 }
     (2000 : BitVec 16).toNat * 100 < 2500 * 95 ∧ 4 ≤ min 15 (p.calm.toNat + 1) ∧ 0 < p.shed.toNat) := by decide
/-- The fourth calm window lowers SHED, and a window over the cap raises it (R471). -/
theorem test_power : (let s : State := { nodeA with aon := { nodeA.aon with powerLimit := 2500 }, pow := { Power.reset with calm := 3, shed := 2 } }
    ((after (.powerWindowBoundary 2374) s).pow.shed = 1) ∧ ((after (.powerWindowBoundary 2375) s).pow.shed = 2) ∧
    ((after (.powerWindowBoundary 2501) s).pow.shed = 3)) := by decide +kernel
def ctxR : Ctx := { Ctx.reset with live := true, rate := 21, cal := { Cal.reset with rateRef := 10, auditEn := true }, audit := { Ctx.reset.audit with total := 9 } }
def stRate (c : Ctx) : State := { nodeA with ctxs := [(5, c)] }
theorem wit_RateWindows : (stRate ctxR).clk.tick % 16384 = 0 ∧ (stRate ctxR).clk.lastRate ≠ some 0 ∧ (stRate ctxR).ctxs = [((5 : CtxId).toNat, ctxR)] ∧
    ctxR.live = true ∧ ctxR.rate < 2 ^ 32 ∧ 2 * ctxR.cal.rateRef < ctxR.rate ∧ ¬ 2 * ctxR.cal.rateRef < ({ ctxR with rate := 20 } : Ctx).rate ∧
    ctxR.calNext = none ∧ classRose (stRate ctxR) = false := by
  refine ⟨rfl, ?_, rfl, rfl, ?_, ?_, ?_, rfl, ?_⟩ <;> decide
/-- A count of more than twice RATE_REF is a departure (R78). -/
theorem test_rate : ((ctxOf (after (.rateWindowBoundary []) (stRate ctxR)) 5).cal.state = .ramp) ∧
    ((ctxOf (after (.rateWindowBoundary []) (stRate { ctxR with rate := 20 })) 5).cal.state = .normal) := by decide +kernel
/-- A record loaded for a window's boundary is in force before it is evaluated, and a rise of the class ramps it in the same tick (R79, R80). -/
theorem test_settle : (let c := { ctxR with calNext := some ({ Cal.reset with rateRef := 99, auditEn := true }, 16383) }
    let s : State := { stRate c with clk := { Clock.reset with tick := 16384 } }
    (ctxOf (after (.rateWindowBoundary []) s) 5).cal.state = .normal ∧ (ctxOf (after (.rateWindowBoundary []) s) 5).cal.rateObs = 21 ∧
    (calNow { s with stk := { Stacks.reset with clsNext := some ([0, 1], 16383) } } 5).state = .ramp ∧
    (calNow { s with stk := { Stacks.reset with clsNext := some ([0, 1], 16384) } } 5).state = .normal) := by decide +kernel
/-- R112's example: MISS_TARGET 655, TOT 18,432; MARGIN_NOW 0x3400 and MARGIN_STEP 0x2800. -/
def ctxM (miss : Nat) : Ctx :=
  { ctxR with cal := { ctxR.cal with missTarget := 655, marginNow := 0x3400, marginStep := 0x2800, marginMax := 0x3800, narrowAfter := 8 },
              audit := { Ctx.reset.audit with frozen := some (18432, miss) }, ns := 1, graph := 0 }
def stAudit (tick miss : Nat) : State :=
  { nodeA with ctxs := [(5, ctxM miss)], clk := { Clock.reset with tick := tick }, mach := { Mach.reset with role := .steward, members := [0] },
               shards := [(shardKey 5 0, ⟨.takeover, 0, 0, false⟩)] }
theorem wit_Audits : (ctxOf (stAudit 33 200) 5).live = true ∧ (stAudit 33 200).clk.tick % 16384 = 33 ∧ auditRoot (stAudit 33 200) 5 = some 0 ∧
    (stAudit 33 200).aon.nodeId = 0 ∧ (ctxOf (stAudit 33 200) 5).cal.auditEn = true ∧ (ctxOf (stAudit 33 200) 5).audit.frozen = some (18432, 200) := by
  decide +kernel
theorem wit_Audits_member : (let s : State := { stAudit 64 200 with aon := { nodeA.aon with nodeId := 1 }, mach := { Mach.reset with members := [0, 1] }, shards := [(shardKey 5 0, ⟨.serving, 1, 0, false⟩)] }
    s.clk.tick % 16384 = 64 ∧ (ctxOf s 5).cal.auditEn = true ∧ (settleCal s (ctxOf s 5)).audit.applied ≠ some 64 ∧ auditMember s 5 = true ∧
    (ctxOf s 5).audit.loadTick ≠ some 64 ∧ auditRoot s 5 ≠ some 1) := by decide +kernel
theorem test_audit : (ctxOf (after (.auditRootDecision 5 [] false) (stAudit 33 200)) 5).cal.marginNow = 0x3480 := by decide +kernel

/-! ### Flash -/

def migD : Mig := ⟨4, .durable, 5, 0, 7, 3200, 0, false, 0, false, 0⟩
def packD : PackBuf := ⟨5, 10, [4], [1, 2, 3], false, false⟩
def segD : Seg := { Seg.reset with state := .open_, slcMode := true, sbs := [0, 1, 2], nextCw := 16 }
/-- The node with one segment of pages 100, and further flash fields by `f`. -/
def stFl (f : Flash → Flash) : State :=
  { stB [] [] with fl := f { Flash.reset with pages := 100, segs := [(3, segD)], openSeg := some 3, chanLow := 0 },
                   plan := { PlanSt.reset with active := some planA, ready := true } }
def lunD : Fin 512 := Fin.ofNat 512 (pagePhys (stFl id) 3 1 0).1
theorem wit_FlashPacking : (let x : Staged := ⟨102400, 192, 5, 0, 7, false, 3⟩
    let s : State := { stFl id with upd := { Upd.reset with staged := [x] } }
    s.upd.staged = [x] ∧ x.packed = false ∧ s.upd.migs.length < 256 ∧ s.fl.packs = [] ∧ 2 ≤ 4096 / x.len ∧ x.len ≠ 0) ∧
    (stFl (fun f => { f with packs := [packD] })).fl.packs = [packD] ∧ packD.ctx = 5 ∧
    ¬ packD.first + (stFl id).fl.packWait.toNat ≤ (stFl id).clk.tick := by decide +kernel
theorem wit_FlashPrograms : (let s := stFl (fun f => { f with writeQ := [packD] })
    openOf s false = some 3 ∧ (segOf s 3).nextCw = 16 ∧ 16 / 16 < s.fl.pages.toNat ∧ nextPage s false = [packD] ∧
    (pagePhys s 3 1 0).1 = lunD.val ∧ lunFree s lunD.val (pagePhys s 3 1 0).2.1 = true ∧ openOf s true = none) ∧
    (let s := stFl (fun f => { f with segs := [(3, { segD with nextCw := 31 })] })
     openOf s false = some 3 ∧ lunsRun s (programs (fun j k => j == 3 && k == 31 / 16)) = false ∧
     lunFree s (pagePhys s 3 1 15).1 (pagePhys s 3 1 15).2.1 = true) := by decide +kernel
/-- A fold of segment 3 to superblock 9 that has one codeword to move, and what its LUN does. -/
def foldD : Fold := ⟨3, 9, 0, none⟩
def superD : Tab Super := [(0, ⟨0, (List.range 16).map (· + 20), true, true, false⟩), (9, ⟨0, (List.range 16).map (· + 40), false, true, false⟩)]
def stFold (n : Nat) (o : LunOp) : State :=
  { stFl (fun f => { f with segs := [(3, { segD with state := .slc })], openSeg := none, fold := some { foldD with next := n }, supers := superD, luns := [(16, { Lun.reset with op := o })] }) with
    plan := { PlanSt.reset with active := some planA, ready := true } }
def keyF : Nat := (foldKeys (stFold 0 .idle) foldD 0 0 0).1
def stFoldOne (o : LunOp) : State := { stFold 0 o with fl := { (stFold 0 o).fl with store := [(keyF, some (5, [7]))] } }
theorem wit_FlashPrograms_fold : foldNext (stFoldOne .idle) = some (foldD, 0, 16, 41) ∧ lunFree (stFoldOne .idle) 16 41 = true ∧
    tryProgram (stFoldOne .idle) 16 false = none ∧ tryProgram (stFoldOne .idle) 16 true = none ∧
    (lunOf (stFoldOne (.fold 0 0)) 16).op = .fold 0 0 ∧ (stFoldOne (.fold 0 0)).fl.fold = some foldD ∧
    (∀ c d : Fin 4, (foldKeys (stFoldOne (.fold 0 0)) foldD 0 0 c.val).1 ≠ (foldKeys (stFoldOne (.fold 0 0)) foldD 0 0 d.val).2) := by
  decide +kernel
theorem wit_FlashPrograms_done : (let s : State := { stFl (fun f => { f with luns := [(7, { Lun.reset with op := .program 3 1 1 [packD] })] }) with
      upd := { Upd.reset with migs := [migD] } }
    (lunOf s 7).op = .program 3 1 1 [packD] ∧ packD.migs = [migD.id] ∧ migOf s 4 = some migD ∧ ([packD].flatMap (·.migs)).Nodup ∧
    packD.again = false ∧ mapWaits s 3 = false ∧ (blockInfo s (pagePhys s 3 1 1).1 (pagePhys s 3 1 1).2.1).begun = false) := by decide +kernel
/-- One data codeword of row 0 of segment 3; its parity page is to be programmed. -/
def stParity : State := { stFoldOne (.program 3 0 15 []) with fl := { (stFoldOne (.program 3 0 15 [])).fl with fold := none } }
theorem wit_FlashPrograms_parity : (lunOf stParity 16).op = .program 3 0 15 [] ∧ 0 < 4096 ∧ (pagePhys stParity 3 0 15).2.2 < 4096 ∧
    (∀ k : Fin 16, (superOf stParity (segPlace stParity (segOf stParity 3) 0).1).blocks.getD k.val 0 < 65536) ∧
    stripeOthers stParity ⟨3, 15, 0, 0, 0⟩ ≠ [] := by decide +kernel
theorem wit_FlashErases : (let s := stFl (fun f => { f with luns := [(7, { Lun.reset with eraseQ := [(9, false)] }), (8, { Lun.reset with op := .erase 9 false })] })
    (lunOf s 7).eraseQ.find? (fun q => q.1 == (9 : BitVec 16).toNat) = some ((9 : BitVec 16).toNat, false) ∧ (lunOf s 7).op = .idle ∧
    (lunOf s 7).suspended = none ∧ lunWaits s 7 3 = false ∧ (startProgram s 7).isNone = true ∧ chanAsleep s 7 = false ∧
    (lunOf s 8).op = .erase 9 false) := by decide +kernel
def readD : FRead := ⟨6, .promotion 4, 5, 7, none, 3 * 2 ^ 25, 7, 0, 2, 0, .queued, 3, [3], 0, 0, 2, false, false⟩
def stReadR (r : FRead) (store : Tab (Option (CtxId × List Byte))) (o : LunOp) : State :=
  { stFl (fun f => { f with reads := [r], store := store, luns := [(7, { Lun.reset with op := o })] }) with
    upd := { Upd.reset with migs := [{ migD with kind := .promotion }] } }
def stRead (st : ReadStage) (store : Tab (Option (CtxId × List Byte))) (o : LunOp) : State := stReadR { readD with stage := st } store o
theorem wit_FlashErases_suspend : (let s := stRead .ladder [] (.erase 9 false)
    suspendable (lunOf s 7).op = true ∧ (lunOf s 7).suspended = none ∧ urgentReads s 7 = true ∧ (lunOf s 7).resumed = none) ∧
    (let s := stFl (fun f => { f with luns := [(7, { Lun.reset with suspended := some (.erase 9 false) })] })
     (lunOf s 7).suspended = some (.erase 9 false) ∧ (lunOf s 7).op = .idle ∧ urgentReads s 7 = false) := by decide +kernel
theorem wit_FlashReads : (let s := stRead .queued [] .idle
    readOf s readD.id = some readD ∧ nextRead s readD.lun.val = some readD ∧ (lunOf s 7).op = .idle ∧ chanAsleep s 7 = false) ∧
    (let s := stRead .sent [] (.read 6)
     readOf s 6 = some { readD with stage := .sent } ∧ readRuns s { readD with stage := .sent } = true ∧ rehFlash s 7 = false ∧
     ([(6, false)].map (·.1)).Nodup) := by decide +kernel
/-- From step 3 the ladder goes 4 to 7 and then 2 to 0 (R330). -/
theorem wit_FlashReads_remedies : (ladderSteps readD.s0).drop (readD.tried.length - 1) = 4 :: [5, 6, 7, 2, 1, 0] ∧
    remedyMayRun (stRead .ladder [] .idle) { readD with stage := .ladder } = true ∧
    remedyMayRun (stRead .soft [] .idle) { readD with stage := .soft } = true ∧
    (∀ y ∈ (stRead .parity [] .idle).fl.reads, y.why ≠ .stripe 6) ∧ readD.why ≠ .fold ∧ stripeWhole (stRead .parity [] .idle) (faddrOf readD.addr) = false := by
  decide +kernel
/-- A parity codeword makes the stripe whole. -/
def keyP : Nat := (let a : FAddr := ⟨3, 15, 0, 0, 0⟩; let p := faddrPhys (stFl id) a; cwKey p.1 p.2.1 p.2.2 a.cw)
theorem wit_FlashReads_parity : (let r := { readD with stage := .parity }
    let s := stReadR r [(keyP, some (0, [1]))] .idle
    readOf s r.id = some r ∧ r.stripeBad = false ∧ stripeWhole s (faddrOf r.addr) = true) := by decide +kernel
def elemF : Elem := ⟨9, 0, 1, .fetchFlash 0 64 32, 0, none⟩
theorem wit_FlashReads_discard : (let r := { readD with cls := 1, why := .elem 9, absent := true }
    let s : State := { stReadR r [] .idle with elems := [elemF], clk := { Clock.reset with tick := 3 } }
    readOf s r.id = some r ∧ s.clk.tick = r.queued + 1 ∧ elemOf s 9 = some elemF ∧ (tileOf s 0).wait[1].dl < s.clk.tick) := by decide +kernel
def elemP : Elem := ⟨9, 0, 1, .storePod, 0, none⟩
theorem wit_FlashReads_cancel : (let r : FRead := { readD with cls := 1, why := .elem 9, deadline := 2 }
    let s : State := { stReadR r [] .idle with elems := [elemP], clk := { Clock.reset with tick := 3 } }
    readOf s r.id = some r ∧ r.stage = .queued ∧ r.absent = false ∧ r.deadline < s.clk.tick ∧ elemOf s 9 = some elemP) := by decide +kernel
theorem wit_FlashReplicas : (let r := { readD with stage := .replica }
    let s := stReadR r [] .idle
    readOf s r.id = some r ∧ (∀ x ∈ s.fl.replicas, x.1 ≠ r.id) ∧
    (let s : State := { s with fl := { s.fl with replicas := [(6, 0)] }, clk := { Clock.reset with tick := 65536 } }
     (r.id, 0) ∈ s.fl.replicas ∧ 0 + 65536 ≤ s.clk.tick ∧ migOf s 4 = some { migD with kind := .promotion })) := by decide +kernel
def stFlashEnt : State := { stFl id with mem := writeBytes [] 102400 (leBytes 16 (dirEntNat { entA with flash := true, fvLoc := 3 * 2 ^ 25 })) }
theorem wit_FlashReplicas_serve : heldCopy stFlashEnt 5 7 = some copyA ∧ dirLook stFlashEnt copyA 7 = some { entA with flash := true, fvLoc := 3 * 2 ^ 25 } ∧
    entA.deleted = false := by decide +kernel
def segS : Seg := { Seg.reset with state := .slc, slcMode := true, sbs := [0, 1, 2], closeTick := 5, live := 0 }
def stSpace (g : Seg) : State :=
  { stFl (fun f => { f with segs := [(3, g)], openSeg := none, supers := [(0, ⟨0, [8], true, true, false⟩), (1, ⟨0, [8], true, true, false⟩), (2, ⟨0, [8], true, true, false⟩), (9, ⟨0, [8], false, false, false⟩)] }) with
    clk := { Clock.reset with tick := 100 } }
theorem wit_FlashSpace_fold : (let s := stSpace segS
    foldChoice s = some 3 ∧ superOf s 9 = ⟨0, [8], false, false, false⟩ ∧ s.fl.fold = none ∧ s.pow.shed = 0 ∧ slcPoolSize s ≠ 0 ∧
    70 * slcPoolSize s ≤ 100 * slcUsed s ∧ segCws s 3 = [] ∧
    (freeSupers s false).find? (fun y => y.2.pos == (segOf s 3).pos) = some (9, ⟨0, [8], false, false, false⟩)) := by decide +kernel
theorem wit_FlashSpace_fold_cws : segCws (stFoldOne .idle) 3 ≠ [] := by decide +kernel
theorem wit_FlashSpace_collect : (let s := stSpace { segS with state := .tlc }
    s.fl.collecting = none ∧ s.fl.segs = [(3, { segS with state := .tlc })] ∧ gcWanted s = true ∧ gcAllowed s = true ∧ segS.refresh = false) ∧
    gcWanted (stFl (fun f => { f with gcLow := 0 })) = false ∧ (∃ kv ∈ (stSpace { segS with refresh := true }).fl.segs, kv.2.refresh = true) := by
  refine ⟨by decide +kernel, by decide +kernel, (3, { segS with refresh := true }), by decide +kernel, rfl⟩
theorem wit_FlashSpace_free : (let s := stSpace segS
    (segOf s 3).state = .slc ∧ (segOf s 3).live = 0 ∧ (segOf s 3).lastFlip + 64 ≤ s.clk.tick ∧ segRead s 3 = false ∧ s.fl.fold = none ∧
    mapWaits s 3 = false ∧ s.fl.left = []) := by decide +kernel
def keyD : Nat := (let p := faddrPhys (stFl id) (faddrOf (3 * 2 ^ 25)); cwKey p.1 p.2.1 p.2.2 (faddrOf (3 * 2 ^ 25)).cw)
def stReloc : State :=
  { stFlashEnt with fl := { stFlashEnt.fl with collecting := some 3, segs := [(3, segS)], store := [(keyD, some (5, headerBytes imageA))] } }
theorem wit_FlashSpace_relocate : stReloc.fl.collecting = some (3 : BitVec 15).toNat ∧ (faddrOf (3 * 2 ^ 25)).seg = 3 ∧ stReloc.upd.migs = [] ∧ migrating stReloc 5 7 = false ∧
    liveAt stReloc (3 * 2 ^ 25) = some (5, copyA, 7) ∧ itemChgs stReloc 5 copyA.shard 7 = [] := by decide +kernel
theorem wit_FlashSpace_retire : (let s := stFl (fun f => { f with retireQ := [(7, (9 : BitVec 16).toNat, .lost)] })
    ((7 : Fin 512).val, (9 : BitVec 16).toNat, RetireCause.lost) ∈ s.fl.retireQ ∧ (blockInfo s 7 9).retired = false ∧ s.fl.supers = []) := by decide +kernel
theorem wit_FlashUnits : chanBusy (stRead .queued [] .idle) 0 = true ∧ (stFl id).fl.chanTag.length = 32 ∧ (stFl id).fl.reads = [] ∧
    ((stFl id).fl.chanTag.getD 0 0).toNat + 15 < (16 : BitVec 8).toNat := by decide +kernel
/-- A read that ends delivers what it was for (R327): nothing dead, nothing held bad, room in the promotion queue. -/
theorem wit_Delivered : (let t := stRead .sent [] (.read 6)
    migOf t 4 = some { migD with kind := .promotion } ∧ t.raw = [] ∧ t.stk.pcs = [] ∧ t.fl.packs = [] ∧ 2 ≤ imagesPerCw 160) ∧
    (let t : State := { stRead .sent [] (.read 6) with elems := [elemF] }
     elemOf t 9 = some elemF ∧ t.clk.tick ≤ (tileOf t 0).wait[1].dl ∧ imageRight (ctxOf t 5) 7 none (memRead (stB [] []) 153600 160) = true ∧
     (ctxOf t 5).tierChange = none ∧ t.upd.promoteQ.length < 1024) := by decide +kernel

/-! ### The text unit -/

def elemT : Elem := ⟨9, 0, 1, .txq 9, 0, none⟩
/-- Slot 0 holds an image in order; the request at the front is of an operation, of context 2, START and FINAL, for the request in slot 3. -/
def textReqA (op : Nat) : TextReq := ⟨9, 0, fields [(124, op), (116, 2), (103, 64), (86, 4), (85, 1), (84, 1)], List.replicate 272 0, 272, 0x200, some (3, 0), 0⟩
def stText (op : Nat) : State :=
  { stElem 4 with elems := [elemT], host := { HostIf.reset with admitted := [(3, some admA)] },
                  txt := { slots := Vector.replicate 2 { TokSlot.reset with activeState := .ready, active := List.replicate 96 0 }, seqs := [], queue := [textReqA op], freeAt := 0 } }
theorem wit_TextServes : TextReady (stText 0) 0 (textReqA 0) [] elemT { Seq.reset with bound := some (3, 0, 0) } (List.replicate 96 0) :=
  ⟨rfl, by decide +kernel, by decide +kernel, by decide +kernel, rfl, 3, 0, rfl, by decide +kernel, rfl, Or.inl (by decide +kernel)⟩
theorem wit_TextServes_detokenise : TextReady (stText 1) 1 (textReqA 1) [] elemT { Seq.reset with bound := some (3, 0, 1) } (List.replicate 96 0) ∧
    stopSetOf ((textReqA 1).input.take 272) = some [] :=
  ⟨⟨rfl, by decide +kernel, by decide +kernel, by decide +kernel, rfl, 3, 0, rfl, by decide +kernel, rfl, Or.inl (by decide +kernel)⟩, by decide +kernel⟩
theorem wit_TextServes_grammar : TextReady (stText 2) 2 (textReqA 2) [] elemT { Seq.reset with bound := some (3, 0, 2) } (List.replicate 96 0) ∧
    (textReqA 2).bound = some (3, 0) ∧ admOf (stText 2) 3 = some admA :=
  ⟨⟨rfl, by decide +kernel, by decide +kernel, by decide +kernel, rfl, 3, 0, rfl, by decide +kernel, rfl, Or.inl (by decide +kernel)⟩, rfl, by decide +kernel⟩
theorem wit_TextServes_switch : (({ TokSlot.reset with switchDue := some 3 } : TokSlot).switchDue = some 3) ∧ 3 < (stText 0).clk.tick := by decide +kernel
theorem wit_TextErrors : (stText 0).txt.queue = [textReqA 0] ∧ (textDescOf (textReqA 0).desc.toNat).sq = (2 : Fin 128).val ∧
    (textDescOf (textReqA 0).desc.toNat).slot.val = (0 : Fin 128).val ∧ (textReqA 0).bound = some (3, 0) ∧
    (textDescOf (textReqA 0).desc.toNat).start = true ∧ elemOf (stText 0) (textReqA 0).id = some elemT ∧ elemT.kind = .txq (textReqA 0).id ∧
    textDue (stText 0) (textReqA 0) = true ∧ (stText 0).clk.tick ≤ ((tileOf (stText 0) elemT.tile.val).wait[elemT.wait]).dl := by decide +kernel

/-! ### Updates and tiers -/

/-- Partition 0 of the shard: records of 6 columns, rows 200 to 207 of which 2 are in use; row 201 (the last) as given. -/
def partA (count live : Nat) : Part := ⟨0, 200, 8, count, live, 6, 0, 1, 64, 0, 0, 0⟩
def copyB : ShardCopy := { copyA with loaded := [0] }
def changeA : Change := ⟨4, 9, 3, 0, 0, 0, 5, 7, false, 0, none, headerBytes imageA ++ List.replicate 80 0, List.replicate 192 0, none, false, false, false⟩
def stUpd (cells : List Host.Cell) (tick : Nat) : State :=
  { stB [] [] with copies := [(shardKey 5 0, some copyB)], mem := writeBytes cells (partAddr copyB 0) (leBytes 32 (partNat (partA 2 1))),
                   clk := { Clock.reset with tick := tick }, upd := { Upd.reset with stageBase := 300, stageRows := 4 } }
def chgA (st : ChgState) : Chg := { Chg.reset with state := st, ctx := 5, item := 7, commitTick := 2, closeTick := 4, entryNode := 9, newHome := 5, newSpill := 0xFFFFFFF }
def stChg (e : Chg) (tick : Nat) : State := { stUpd [] tick with upd := { Upd.reset with chg := [(6, e)] }, mach := { Mach.reset with members := [9] } }
theorem wit_UpdateApplied : (let s := stUpd [] 5
    s.clk.did.applied = false ∧ heldCopy s 5 7 = some copyB ∧ changePhase s changeA 5 = some (planA, pipeA, 0) ∧
    writesWithheld s changeA planA 0 = false ∧ alreadyApplied s changeA = false ∧
    copyTakes s copyB = true ∧ fillsInto s copyB = false ∧ itemChgs s copyB.ctx copyB.shard 7 = [] ∧ (ctxOf s 5).graph = 0 ∧
    groupsBad s copyB 7 false = false ∧ (newSlots s copyB changeA).isSome = true ∧ (stagePlace s (fvSize (ctxOf s 5))).isSome = true ∧
    1 ≤ (ctxOf s 5).fvUnits) := by decide +kernel
theorem wit_UpdateApplied_room : (let s := stUpd [] 5
    freeChg s = some 0 ∧ groupsHaveRoom s copyB changeA = true ∧ preparedOf s changeA = none ∧
    ((newSlots s copyB changeA).map (fun l => refsOk s (chgFor s copyB changeA 6 (newVersion s copyB 7 []) l (stagePlace s (fvSize (ctxOf s 5)))))) = some true) := by
  decide +kernel
/-- The entry opens with version 1 (no entry before), to commit at U + LENGTH (R286, R287). -/
theorem test_apply : (let e := chgOf (after (.updateApply [changeA]) (stUpd [] 5)) 0
    (e.state, e.version, e.commitTick) = (.applied, 1, 6)) := by decide +kernel
def planU : Plan := { planA with pipes := [{ pipeA with kind := 1, length := 4 }] }
def stCommit (op : BitVec 8) (tick : Nat) (l : List Commit) : State :=
  { stUpd [] tick with plan := { PlanSt.reset with active := some planU }, upd := { Upd.reset with commits := l },
                       host := { HostIf.reset with admitted := [(3, some { admA with req := { reqA with op := op } })] } }
theorem wit_UpdateDecisions : (let a : Adm := { admA with req := { reqA with op := 2 } }
    admOf (stCommit 2 3 []) 3 = some a ∧ commitTickOf (stCommit 2 3 []) a = some 4 ∧ (stCommit 2 3 []).clk.tick < 4 ∧
    (let k : Commit := ⟨3, 0, some (0, 1), some (0, 1)⟩
     commitTickOf (stCommit 2 4 [k]) a = some (stCommit 2 4 [k]).clk.tick ∧ k.u = a.t ∧ a.silent = false ∧ a.req.op ≠ 1 ∧ a.fault = none)) := by
  decide +kernel
/-- Versions that differ end the update with ABORTED (R290). -/
theorem test_decide : (after (.updateDecision 3) (stCommit 2 4 [⟨3, 0, some (0, 1), none⟩])).host.due.map (fun d => d.body % 256) = [0] ∧
    (after (.updateDecision 3) { stCommit 2 4 [⟨3, 0, some (0, 1), some (0, 2)⟩] with shards := [(shardKey 5 0, ⟨.serving, 1, 0, false⟩)] }).host.due.map (fun d => d.body % 256) =
      [0x0F] := by decide +kernel
theorem wit_ChangeStates : (chgOf (stChg (chgA .applied) 5) 6).state = .applied ∧ (chgOf (stChg (chgA .applied) 5) 6).commitTick + 3 ≤ 5 ∧
    (chgOf (stChg (chgA .applied) 5) 6).entryNode ≠ (stChg (chgA .applied) 5).aon.nodeId ∧ (chgOf (stChg (chgA .unsure) 5) 6).state = .unsure ∧
    isMember (stChg (chgA .unsure) 5) 9 = true ∧ ({ chgA .committed with closed := true } : Chg).closeTick + 1 ≤ 5 := by decide +kernel
theorem wit_RollbackAndClose : (let s := stChg (chgA .aborted) 5
    (chgOf s 6).state = .aborted ∧ (chgOf s 6).rolled = false ∧ copyOf s 5 0 = some copyB) ∧
    (let s := stChg (chgA .committed) 5
     (chgOf s 6).state = .committed ∧ (chgOf s 6).closed = false ∧ (chgOf s 6).closeTick ≤ s.clk.tick ∧ copyOf s 5 0 = some copyB ∧
     0 < ctxRecSize s 5) := by decide +kernel
theorem wit_PrepareAndExclude : (beanOf (stBean { Bean.reset with exclFor := some (0, 3) }) 5).exclFor = some (0, 3) ∧
    heldCopy (stUpd [] 5) 5 7 = some copyB ∧
    (let r : Req := { reqA with prep := some ⟨false, false⟩ }
     let s : State := { stUpd [] 512 with host := { HostIf.reset with queued := [r] } }
     s.host.queued = [r] ∧ r.fn = 0 ∧ r.sq = 0 ∧ r.prep = some ⟨false, false⟩ ∧ r.seen + 512 ≤ s.clk.tick) := by decide +kernel
def stTomb : State :=
  { stUpd (writeBytes [] 102400 (leBytes 16 (dirEntNat { entA with deleted := true }))) 100 with upd := { Upd.reset with tombs := [(5, 7, 30)] } }
theorem wit_Compaction_purge : heldCopy stTomb 5 7 = some copyB ∧ tombTick stTomb 5 7 = some 30 ∧ dirFind stTomb copyB 7 = some 102400 ∧
    (dirEntOf (memNat stTomb 102400 16)).deleted = true ∧ itemChgs stTomb 5 copyB.shard 7 = [] ∧
    30 + 2 ^ (ctxOf stTomb 5).tier.purgeLog2 ≤ stTomb.clk.tick ∧ copyB.ctx = 5 := by decide +kernel
/-- Row 201 of the partition holds one live record, and row 200 none. -/
def stCompact : State := stUpd (writeBytes [] (recAddr copyB 6 201 0) (headerBytes imageA)) 5
theorem wit_Compaction_move : (let d := readPart stCompact copyB 0
    copyOf stCompact 5 0 = some copyB ∧ copyB.role ≠ 2 ∧ (0 : BitVec 20).toNat ∈ copyB.loaded ∧ stCompact.pow.shed = 0 ∧ copyTakes stCompact copyB = true ∧
    slotsPerRow d.recSize ≤ (emptyLower stCompact copyB d).length ∧ movable stCompact copyB d = some (locOf 201 0, imageA) ∧
    (emptyLower stCompact copyB d).head? = some (200, 0) ∧ freeChg stCompact = some 0 ∧
    refsOk stCompact (moveChg stCompact copyB imageA (locOf 201 0) (locOf 200 0)) = true) := by decide +kernel
theorem wit_Compaction_row : (let d := readPart (stUpd [] 5) copyB 0
    d.rowCount ≠ 0 ∧ rowReferenced (stUpd [] 5) copyB 201 = false ∧
    (∀ j : Nat, j < slotsPerRow d.recSize → slotEmpty (stUpd [] 5) (recAddr copyB d.recSize 201 j) = true)) := by decide +kernel
def entM (dirty : Bool) : DirEnt := { entA with staged := true, dirty := dirty, fvLoc := 3200 }
def stMig (m : Mig) (dirty : Bool) : State :=
  { stUpd (writeBytes [] 102400 (leBytes 16 (dirEntNat (entM dirty)))) 5 with upd := { Upd.reset with migs := [m] } }
theorem wit_Migrations : (∀ d : Bool, migEntry (stMig { migD with landed := true } d) { migD with landed := true } = some (102400, entM d)) ∧
    itemChgs (stMig migD true) 5 0 7 = [] ∧ (entM true).deleted = false ∧ (entM true).flash = false ∧ (entM true).staged = true ∧
    (entM true).fvLoc = migD.src ∧ migEntry (stMig { migD with waiting := true } true) { migD with waiting := true } = some (102400, entM true) := by
  decide +kernel
def stPromote : State :=
  { stFlashEnt with ctxs := [(5, { ctxA with tier := ⟨false, 400, 8, 0, 0, 0⟩ })], upd := { Upd.reset with promoteQ := [(5, 7, 3 * 2 ^ 25)] } }
theorem wit_Migrations_promotion : (let c := ctxOf stPromote 5
    stPromote.upd.promoteQ = [(5, 7, 3 * 2 ^ 25)] ∧ stPromote.pow.shed = 0 ∧ stPromote.upd.migs.length < 256 ∧ c.tierChange = none ∧
    stillCold stPromote (5, 7, 3 * 2 ^ 25) = true ∧ hotSlots c ≠ 0 ∧ c.tier.localHot = false ∧ hotOccupant stPromote (hotAddr c 0) = none) := by
  decide +kernel
def stTier (ran : Option Nat) : State :=
  { stUpd [] 100 with ctxs := [(5, { ctxA with tierChange := some ⟨⟨true, 400, 8, 0, 0, 0⟩, ran, 36⟩ })] }
theorem wit_TierChanges : (ctxOf (stTier none) 5).tierChange = some ⟨⟨true, 400, 8, 0, 0, 0⟩, none, 36⟩ ∧ hotImages (stTier none) 5 = [] ∧
    (ctxOf (stTier (some 99)) 5).tierChange = some ⟨⟨true, 400, 8, 0, 0, 0⟩, some 99, 36⟩ ∧ 36 + 64 ≤ (stTier (some 99)).clk.tick := by decide +kernel
theorem wit_PrepareAndExclude_read : (let s := stB [] []
    heldCopy s 5 7 = some copyA ∧ deadAt s (dirGroups copyA 7) = none ∧ dirLook s copyA 7 = some entA ∧ entA.deleted = false ∧ entA.flash = false ∧
    (nodeRead s (32 * entA.fvLoc) (fvSize (ctxOf s 5)) [] (some 5)).2 = some (memRead s 153600 160) ∧
    imageRight (ctxOf s 5) 7 none (memRead s 153600 160) = true ∧ dirLook (stUpd [] 5) copyB 7 = none) := by decide +kernel
theorem wit_PrepareAndExclude_report : (let r : Req := { reqA with prep := some ⟨false, false⟩ }
    let s : State := { stUpd [] 512 with host := { HostIf.reset with queued := [r] } }
    preparing s 0 0 = some r ∧ prepDone r = false ∧ r.seen + 512 ≤ s.clk.tick) := by decide +kernel
theorem wit_Migrations_tick : migOf (stMig { migD with landed := true } true) 4 = some { migD with landed := true } ∧
    migD.landTick < (stMig migD true).clk.tick ∧ groupsBad stCompact copyB 7 false = false := by decide +kernel

/-! ### The fabric -/

def headA : CellHead := ⟨0, 0, 127, 0, 0, false, false, false, 9, 0, 0, 0⟩
def cellA : List Byte := mkCell headA (List.replicate 240 7)
/-- The receive entries of port 1: slot 3 delivers to tile 5 at 32 bytes, wait object 1, AGE 1; the others are unused. -/
def recvA : BitVec 64 := BitVec.ofNat 64 (1 * 2 ^ 62 + 5 * 2 ^ 51 + 1 * 2 ^ 36 + 1 * 2 ^ 30 + 1 * 2 ^ 24)
def planPorts : PlanSt := { PlanSt.reset with active := some planA, slots := [⟨false, 0, [], []⟩, ⟨true, 8, [], [(3, recvA)]⟩] }
def portU : Port := { Port.reset with state := .up }
/-- Nodes 0 and 1 are members; the pairs' bypasses are open and the ports are up; `f` sets more of the fabric. -/
def stFab (f : Fabric → Fabric) : State :=
  { stB [] [] with
    plan := planPorts, mach := { Mach.reset with role := .member, steward := 1, members := [0, 1] },
    fab := f { Fabric.reset with fence := 0, byp := Vector.replicate 3 .open_, ports := Vector.replicate 6 portU } }
theorem wit_StaticCells : (let s := stFab id
    portOpen s 1 = true ∧ rehFailsCell s 1 = false ∧ (s.fab.ports[1].expect.any (fun x => x.1 == s.clk.tick && x.2.1 == 3)) = false ∧
    cellOk (mkCell { headA with tickLo := 65535 } []) = true ∧ headA.type = 0 ∧ headA.retried = false ∧ s.plan.swapTick = none ∧
    (recvAt s 1 s.clk.tick 3).action = 1 ∧ headA.partition = s.mach.partition ∧
    (65535 : BitVec 16) = BitVec.ofNat 16 (s.clk.tick + 65536 - (recvAt s 1 s.clk.tick 3).age) ∧ (recvAt s 1 s.clk.tick 4).action = 0) := by
  decide +kernel
/-- A cell of all zeros fails its CRC, and an intact one passes (R366). -/
theorem test_crc : cellOk cellA = true ∧ cellOk (cellA.set 100 6) = false := by decide +kernel
def landA : Landing2 := ⟨5, 32, 1, 4, cellA⟩
def stLand (dl : Nat) : State :=
  { stFab (fun f => { f with landing := [landA] }) with
    clk := { Clock.reset with tick := 4 },
    tiles := [(5, { Tile.reset with wait := Tile.reset.wait.set 1 { WaitObj.reset with armed := true, dl := dl, exp := 1 } })] }
theorem wit_StaticCells_land : (stLand 4).fab.landing = [landA] ∧ landA.tick ≤ (stLand 4).clk.tick ∧ ((tileOf (stLand 4) 5).wait[1]).armed = true ∧
    ((tileOf (stLand 4) 5).wait[1]).final = false ∧ landA.tick ≤ ((tileOf (stLand 4) 5).wait[1]).dl ∧ ((tileOf (stLand 3) 5).wait[1]).dl < landA.tick := by
  decide +kernel
/-- A cell in slot 496, RETRIED, first came in slot 3 of tick 0, and had been asked for. -/
theorem wit_StaticCells_retry : (let s := stFab (fun f => { f with ports := f.ports.set 1 { portU with expect := [(0, 3, 4)] } })
    portOpen s 1 = true ∧ (496 ≤ (496 : Fin 500).val) ∧ s.fab.ports[1].expect.any (fun x => x.1 == 0 && x.2.1 == 3) = true ∧ cellOk cellA = true ∧
    cellOk (cellA.set 100 6) = false) := by decide +kernel
/-- Slot 4 of port 1 forwards to slot 5 of port 3. -/
def fwdA : BitVec 64 := BitVec.ofNat 64 (2 * 2 ^ 62 + 3 * 2 ^ 59)
theorem wit_StaticCells_forward : (let s : State := { stFab id with plan := { planPorts with slots := [⟨false, 0, [], []⟩, ⟨true, 8, [], [(4, fwdA)]⟩] } }
    (recvAt s 1 s.clk.tick 4).action = 2 ∧ (cellHeadOf cellA).hops ≠ 0 ∧ (cellHeadOf cellA).retried = false ∧
    portOpen s (Fin.ofNat 6 (recvAt s 1 s.clk.tick 4).outPort) = true) := by decide +kernel
/-- Port 1 has HOP_SLOTS 8: what arrives in slot 11 left in slot 3. -/
theorem wit_LinkRepair_resend : (let s (n : Nat) : State := { stFab (fun f => { f with ports := f.ports.set 1 { portU with sent := [(0, 3, cellA)] } }) with
      clk := { Clock.reset with tick := n } }
    portOpen (s 0) 1 = true ∧ sentSlot (s 0) 1 0 11 = (0, 3) ∧ sentCell (s 0) 1 (sentSlot (s 0) 1 0 11) = some cellA ∧
    (s 0).clk.tick ≤ 0 + retryTicks (portTab (s 0) 1).hop ∧ 0 + retryTicks (portTab (s 3) 1).hop < (s 3).clk.tick) := by decide +kernel
/-- R393: RT = 1 + ceil((2 × HOP + 16) / 500); a hop of 300 slots gives 3. -/
theorem test_retry_ticks : retryTicks 300 = 3 ∧ retryTicks 8 = 2 := by decide
theorem wit_LinkRepair_fail : (let s := stFab (fun f => { f with ports := f.ports.set 1 { portU with expect := [(0, 3, 4)] } })
    s.fab.ports[1].expect.find? (fun x => x.1 == 0 && x.2.1 == 3) = some (0, 3, 4) ∧ (4 : BitVec 9).getLsbD 2 = true ∧
    s.fab.ports[1].laneFail.getLsbD 2 = false ∧ s.fab.ports[1].retraining = none) := by decide +kernel
theorem wit_LinkRepair_lanes : (let s := stFab (fun f => { f with ports := f.ports.set 1 { portU with laneWait := [2] } })
    laneMayTrain s.fab.ports[1] 2 = true ∧ s.clk.tick + 2 ≤ 4 ∧ s.fab.ports[1].asked = none ∧ switchOk s s.fab.ports[1] (2, 4) = true) ∧
    (let s := stFab (fun f => { f with ports := f.ports.set 1 { portU with asked := some (2, 0), heard := some (2, 0) } })
    s.fab.ports[1].asked = some (2, s.clk.tick) ∧ s.fab.ports[1].heard = some (2, s.clk.tick) ∧ s.fab.ports[1].retraining = none) ∧
    (let s := stFab (fun f => { f with ports := (f.ports.set 1 { portU with retraining := some 2 }).set 3 { portU with retraining := some 2, laneFail := 1 } })
    s.fab.ports[1].retraining = some 2 ∧ s.fab.ports[1].laneFail = 0 ∧ s.fab.ports[1].state = .up ∧ s.fab.ports[3].retraining = some 2 ∧
    s.fab.ports[3].laneFail ≠ 0 ∧ s.fab.byp[1] = .open_) := by decide +kernel
theorem wit_LinkRepair_bypass : (let s := stFab (fun f => { f with byp := (f.byp.set 0 .opening).set 1 .closing, ports := f.ports.set 1 { portU with state := .trained } })
    s.fab.byp[0] = .opening ∧ s.fab.byp[1] = .closing ∧ s.fab.bypAsked[0] = none ∧ s.fab.bypAsked[1] = none ∧
    s.fab.ports[1].state = .trained ∧ s.fab.ports[3].state = .up) := by decide +kernel
def headF : CellHead := ⟨7, 0, 127, 1, 2, false, false, false, 9, 1, 0, 1⟩
/-- A read entry of context 5, segment 0, offset 16, length 32. -/
def rreqA (dest : NodeId) (src : NodeId) : List Byte :=
  mkCell { headF with dest := dest, src := src } (leBytes 16 (3 * 2 ^ 112 + 0 * 2 ^ 96 + 5 * 2 ^ 84 + 0 * 2 ^ 80 + 16 * 2 ^ 41 + 32 * 2 ^ 32))
def frameA : OutFrame := ⟨1, 3, [rreqA 1 9], false⟩
theorem wit_LinkRepair_frame : (let s := stFab (fun f => { f with ports := f.ports.set 1 { portU with fsent := [(0, frameA)] } })
    portOpen s 1 = true ∧ frameId frameA.cells = (9, (cellHeadOf (rreqA 1 9)).tag) ∧
    s.fab.ports[1].fsent.find? (fun x => frameId x.2.cells == frameId frameA.cells && !x.2.resent) = some (0, frameA)) := by decide +kernel
theorem wit_RemoteReads_transit : (let s := stFab id
    portOpen s 1 = true ∧ frameOk [rreqA 1 9] = true ∧ [rreqA 1 9].all cellOk = true ∧
    s.fab.ports[1].fexpect.find? (fun x => (x.1, x.2.1) == frameId [rreqA 1 9]) = none ∧ (cellHeadOf (rreqA 1 9)).type < 7 ∧
    ageOf s (cellHeadOf (rreqA 1 9)).tickLo.toNat ≤ 8192 ∧ (cellHeadOf (rreqA 1 9)).dest ≠ s.aon.nodeId ∧
    (routePort s (cellHeadOf (rreqA 1 9)).dest).isSome = true ∧ transitCells s 1 1 + 1 ≤ 512 ∧ (cellHeadOf (rreqA 1 9)).yellow = false) := by
  decide +kernel
/-- A frame of one cell whose CRC fails, and one of an old TICK_LO. -/
def badFrame : FrameCells := [(rreqA 1 9).set 40 1]
theorem wit_RemoteReads_bad : (let s := stFab (fun f => { f with ports := f.ports.set 3 { portU with fexpect := [(9, (cellHeadOf (rreqA 1 9)).tag, 1)] } })
    frameOk badFrame = true ∧ badFrame.all cellOk = false ∧ s.fab.ports[1].fexpect.find? (fun x => (x.1, x.2.1) == frameId badFrame) = none ∧
    (s.fab.ports[3].fexpect.find? (fun x => (x.1, x.2.1) == frameId badFrame)).isSome = true ∧
    8192 < ageOf { s with clk := { Clock.reset with tick := 9000 } } (cellHeadOf (rreqA 1 9)).tickLo.toNat) := by decide +kernel
theorem wit_RemoteReads_send : (let s := stFab (fun f => { f with out := [frameA], ports := f.ports.set 1 { portU with arb := 3 } })
    portOpen s 1 = true ∧ s.fab.out.filter (fun f => !(f.port == 1 && wasSent f && frameAged s f.cells)) = [frameA] ∧
    arbWinner { s with fab := { s.fab with out := [frameA] } } 1 (1 : Fin 501).val = some frameA ∧
    (∀ f ∈ [frameA], f.port = 1 → (0 : Fin 501).val < f.cells.length)) := by decide +kernel
theorem wit_RemoteReads_serve : (let s := stFab id
    frameOk [rreqA 0 1] = true ∧ (cellHeadOf (rreqA 0 1)).type = 2 ∧ (cellHeadOf (rreqA 0 1)).dest = s.aon.nodeId ∧
    (cellHeadOf (rreqA 0 1)).partition = s.mach.partition ∧ rreqEnts (rreqA 0 1) = [⟨3, 0, 5, 0, 16, 32⟩] ∧ ageOf s 0 ≤ 4096 ∧
    segAddr (ctxOf s 5).segs 0 16 32 false = some 204816 ∧ s.raw = [] ∧ (∀ kv ∈ s.stk.pcs, kv.2.dead = false) ∧ (ctxOf s 5).meter.mode = 0 ∧ isMember s 1 = true ∧ (routePort s 1).isSome = true) := by
  decide +kernel
def tagA : RTag := ⟨3, 5, 0, 0, 1, 9, 0x40, 32⟩
def replyA : FrameCells := [mkCell { headF with dest := 0, src := 1, type := 3, slot := 0 } (leBytes 16 (3 * 2 ^ 112 + 5 * 2 ^ 84 + 32 * 2 ^ 75)),
  mkCell { headF with dest := 0, src := 1, type := 3, slot := 17 } (List.replicate 32 6)]
def stReply (dl : Nat) : State :=
  { stFab (fun f => { f with tags := [tagA] }) with
    elems := [⟨9, 0, 1, .loadRemote 0x40 1, 0, none⟩], clk := { Clock.reset with tick := 4 },
    tiles := [(0, { Tile.reset with wait := Tile.reset.wait.set 1 { WaitObj.reset with armed := true, dl := dl } })] }
theorem wit_RemoteReads_reply : (let s := stReply 4
    let c := replyA.headD []
    frameOk replyA = true ∧ (cellHeadOf c).type = 3 ∧ (cellHeadOf c).dest = s.aon.nodeId ∧ (cellHeadOf c).partition = s.mach.partition ∧
    (cellHeadOf c).plen = 1 ∧ (replyEntOf (leAt (cellPayload c) 0 16)).status = 0 ∧ matchTag s (replyEntOf (leAt (cellPayload c) 0 16)) = some tagA ∧
    elemOf s tagA.elem = some ⟨9, 0, 1, .loadRemote 0x40 1, 0, none⟩ ∧ (replyEntOf (leAt (cellPayload c) 0 16)).len = tagA.len ∧
    s.clk.tick ≤ ((tileOf s 0).wait[1]).dl) := by decide +kernel
theorem test_reply : ((tileOf (after (.rreplyReceive replyA) (stReply 4)) 0).wait[1]).arrived = 1 ∧
    ((tileOf (after (.rreplyReceive replyA) (stReply 3)) 0).wait[1]).late = 1 := by decide +kernel

/-! ### Epochs, stewards and shards -/

def stMach (tick : Nat) (f : Mach → Mach) (e : ShardEnt) : State :=
  let s := stFab id
  { s with mach := f s.mach, clk := { Clock.reset with tick := tick }, shards := [(shardKey 5 0, e)] }
def fillB : Fill := ⟨5, 0, true, 0, 0, 0, true⟩
theorem wit_EpochBoundaries : (let s := stMach 16384 (fun m => { m with nextEpoch := 16384, nextMembers := [0] }) ⟨.serving, 1, 0, false⟩
    s.mach.nextEpoch ≠ 0 ∧ s.clk.tick = s.mach.nextEpoch ∧ shardEnt s 5 0 ≠ ShardEnt.reset ∧ (shardEnt s 5 0).state = .serving ∧
    ((1 : NodeId) ∈ s.mach.members ∧ (1 : NodeId) ∉ s.mach.nextMembers) ∧ (0 : NodeId) ∈ s.mach.nextMembers) ∧
    (let s := stMach 16384 (fun m => { m with nextEpoch := 16384, nextMembers := [0, 1], fills := [fillB] }) ⟨.filling, 1, 0, false⟩
     fillOf s 5 0 = some fillB ∧ fillB.done = true) := by decide +kernel
/-- The partner is lost and the primary serves alone (R417). -/
theorem test_epoch : shardEnt (after .epochBoundary (stMach 16384 (fun m => { m with nextEpoch := 16384, nextMembers := [0] }) ⟨.serving, 1, 0, false⟩)) 5 0 =
    ⟨.takeover, 0, 0, false⟩ := by decide +kernel
theorem wit_EpochBoundaries_swap : (let s : State := { stFab id with plan := { planPorts with act := some ⟨0, 64, false, none⟩ } }
    s.plan.act = some ⟨0, 64, false, none⟩ ∧ s.clk.tick = 0 ∧ s.plan.swapTick ≠ some 0) := by decide +kernel
theorem wit_Stewards : (let s := stMach 1024 (fun m => { m with role := .steward, steward := 0 }) ShardEnt.reset
    s.mach.role = .steward ∧ s.clk.tick % 1024 = 0 ∧ s.clk.did.leaseSent = false ∧ (1 : NodeId) ∈ s.mach.members ∧ 1 ≠ s.aon.nodeId ∧
    (routePort s 1).isSome = true ∧ isMember s 1 = true) ∧
    (let f : LeaseFrame := ⟨1, 0, 16384, [0, 1], []⟩
     (stMach 1536 id ShardEnt.reset).mach.role = .member ∧ f.steward = (stMach 1536 id ShardEnt.reset).mach.steward ∧ 1536 % 1024 ≤ 512 ∧
     512 < 1537 % 1024 ∧ (stMach 1537 id ShardEnt.reset).aon.joinState ≠ .opening) := by decide +kernel
theorem wit_Stewards_member : (let s := stMach 1536 (fun m => { m with leaseSeen := true, silent := 3 }) ShardEnt.reset
    s.mach.leaseSeen = true ∧ s.mach.role ≠ .steward ∧ s.mach.steward ≠ s.aon.nodeId ∧ isMember s s.mach.steward = true ∧
    (routePort s s.mach.steward).isSome = true ∧ s.clk.tick % 1024 = 512 ∧ s.clk.did.leased = false ∧ s.mach.members.Nodup) := by decide +kernel
theorem wit_Stewards_claim : (let s := stMach 16384 (fun m => { m with members := [1], silent := 3, claims := [(1, 16384, 15872)] }) ShardEnt.reset
    s.mach.role = .member ∧ 3 * (aheadOf s + 1) ≤ s.mach.silent ∧ isMember s 1 = true ∧ (32768 : BitVec 64).toNat % 16384 = 0 ∧
    s.clk.tick < (32768 : BitVec 64).toNat ∧ s.mach.claims = [(1, s.clk.tick, 15872)] ∧ 15872 + 512 ≤ s.clk.tick ∧
    ({ s with mach := { s.mach with steward := 2 } } : State).mach.steward ≠ 1) := by decide +kernel
theorem wit_Stewards_lease_ack : (let s := stMach 1025 (fun m => { m with role := .steward, steward := 0 }) ShardEnt.reset
    s.mach.role = .steward ∧ s.clk.tick % 1024 ≤ 512 ∧ isMember s (⟨1, true, []⟩ : LeaseReply).node = true) ∧
    (let s := stMach 1536 (fun m => { m with role := .steward, steward := 0, missed := [(1, 2)] }) ShardEnt.reset
    s.mach.role = .steward ∧ s.clk.tick % 1024 = 512 ∧ s.clk.did.leased = false ∧ s.mach.members.Nodup ∧ (1 : NodeId) ∈ s.mach.members ∧
    (1 : NodeId) ≠ s.aon.nodeId ∧ (1 : NodeId) ∉ s.mach.acked ∧ 2 ≤ missedOf s 1) := by decide +kernel
theorem wit_FillsAndRehearsals : ((shardEnt (stMach 5 id ⟨.takeover, 1, 0, false⟩) 5 0).state = .takeover ∧
      (shardEnt (stMach 5 id ⟨.takeover, 1, 0, false⟩) 5 0).partner ≠ (shardEnt (stMach 5 id ⟨.takeover, 1, 0, false⟩) 5 0).primary) ∧
    (let s := stMach 5 (fun m => { m with fills := [{ fillB with done := false }] }) ⟨.filling, 0, 1, false⟩
     (shardEnt s 5 0).state = .filling ∧ (shardEnt s 5 0).partner = s.aon.nodeId ∧ (shardEnt s 5 0).primary ≠ s.aon.nodeId ∧
     ∃ f ∈ s.mach.fills, f.ctx = 5 ∧ f.shard = 0) ∧
    (let s := stMach 5 (fun m => { m with fills := [fillB] }) ⟨.filling, 1, 0, false⟩
     (shardEnt s 5 0).state = .filling ∧ (shardEnt s 5 0).primary = s.aon.nodeId ∧ copyOf s 5 0 = some copyA ∧ copyA.ctx = 5 ∧ copyA.shard = 0 ∧
     fillOf s 5 0 = some fillB ∧ fillOrder s copyA fillB.row [(102400, 1024)] = some fillB.row) ∧
    (shardEnt (stMach 5 id ⟨.lost, 1, 0, false⟩) 5 0).state = .lost ∧ (stMach 5 id ⟨.lost, 1, 0, false⟩).mach.role ≠ .steward := by decide +kernel
/-- The copy with partition 0 loaded: 4 rows from REC_BASE. -/
def copyR : ShardCopy := { copyA with loaded := [0] }
def partS : State :=
  let s := stMach 5 (fun m => { m with fills := [{ fillB with row := copyR.recBase * 1024 + 2048 }] }) ⟨.filling, 1, 0, false⟩
  { s with
    copies := [(shardKey 5 0, some copyR)], mem := writeBytes [] (partAddr copyR 0) (leBytes 32 (partNat { partOf 0 with rowCap := 4 })) }
theorem wit_FillsAndRehearsals_order : copyOf partS 5 0 = some copyR ∧ isPartRow partS copyR (copyR.recBase * 1024) = true ∧
    fillOrder partS copyR (copyR.recBase * 1024 + 2048) [(copyR.recBase * 1024, 1024)] = none ∧
    fillOrder partS copyR (copyR.recBase * 1024 + 2048) [(copyR.recBase * 1024 + 3072, 1024)] = some (copyR.recBase * 1024 + 4096) := by
  decide +kernel
/-- A directory entry whose image lies in flash. -/
def coldS : State :=
  let s := stMach 5 (fun m => { m with fills := [fillB] }) ⟨.filling, 1, 0, false⟩
  { s with mem := writeBytes [] 102400 (leBytes 16 (dirEntNat { entA with flash := true })) }
theorem wit_FillsAndRehearsals_cold : fillOf coldS 5 0 = some fillB ∧ copyOf coldS 5 0 = some copyA ∧
    dirFind coldS copyA 7 = some 102400 ∧ (dirEntOf (memNat coldS 102400 16)).flash = true := by decide +kernel
def rehA (k : BitVec 4) (t : BitVec 15) (on : Bool) : State :=
  stMach 4096 (fun m => { m with rehArmed := true, rehActive := on, rehStart := 4096, rehLen := 0, rehKind := k, rehTarget := t }) ShardEnt.reset
theorem wit_FillsAndRehearsals_rehearsal : (∀ k : Fin 8, (rehA (BitVec.ofNat 4 k.val) 1 false).mach.rehArmed = true ∧
    (rehA (BitVec.ofNat 4 k.val) 1 false).mach.rehActive = false ∧ (rehA (BitVec.ofNat 4 k.val) 1 false).mach.rehStart.toNat ≤ 4096) ∧
    (rehA 2 1 false).fab.byp[rehPair (rehA 2 1 false)] = .open_ ∧ (rehA 3 6143 true).mach.rehActive = true ∧ (rehA 3 6143 true).mach.rehKind ≠ 1 ∧
    (rehA 3 6143 true).mach.rehStart.toNat + (rehA 3 6143 true).mach.rehLen.toNat ≤ (rehA 3 6143 true).clk.tick ∧
    (let s : State := { rehA 2 1 true with fab := { (rehA 2 1 true).fab with byp := Vector.replicate 3 .closed } }
     s.fab.byp[rehPair s] = .closed ∧ mayOpen s (rehPair s) = true) := by decide +kernel

/-! ### Request-state pools and the ledger -/

/-- A pipeline of two phases, 0 to 3 (CHECKPOINT) and 8 to 11: E = 3 and S = 8 for a request admitted at tick 0. -/
def planK : Plan := { planA with pipes := [{ pipeA with phaseNum := 2 }], phases := [⟨0, 4, 1, 2, false, true⟩, ⟨8, 4, 1, 2, true, false⟩] }
def idK : BitVec 64 := BitVec.ofNat 64 (3 * 2 ^ 39 + 77)
def ledK : Ledger := ⟨2, 1, 1, 0, 0, true, idK, true, false⟩
def stPool (tick : Nat) (l : Ledger) (f : Pool → Pool) : State :=
  { stFab id with plan := { PlanSt.reset with active := some planK, slots := planPorts.slots }, clk := { Clock.reset with tick := tick },
                  host := { HostIf.reset with admitted := [(3, some admA)] }, pool := f { Pool.reset with base := 1024, ledger := [(3, l)] } }
theorem wit_Checkpoints : (let s := stPool 4 ledK id
    ckptNow s 3 = some ⟨0, 3, 8⟩ ∧ (ledgerOf s 3).valid = true ∧ s.clk.tick = 3 + 1 ∧ (ledgerOf s 3).ckptSent = false ∧ (ledgerOf s 3).mirrored = true ∧
    blockBad s 3 (ckptBytes s 3) = false ∧
    (blockHeadOf (memRead s (blockAddr s 3) 32)).len ≤ blockBytes s / 32 - 1 ∧ isMember s 1 = true ∧ (routePort s (ledgerOf s 3).standby).isSome = true) := by
  decide +kernel
theorem wit_Checkpoints_verify : (let s := stPool 6 ledK id
    ckptNow s 3 = some ⟨0, 3, 8⟩ ∧ s.clk.tick = (⟨0, 3, 8⟩ : Ckpt).d1 + 1 ∧ resumeOf s 3 = none ∧ rehPoolHome s = false ∧
    blockBad s 3 (blockBytes s) = false ∧ (ledgerOf (stPool 6 { ledK with ckptSent := true } id) 3).ckptSent = true ∧
    (ledgerOf s 3).phase.toNat = 0 ∧ (ledgerOf (stPool 6 { ledK with phase := 9 } id) 3).phase.toNat ≠ 0 ∧ admOf s 3 = some admA ∧ admA.fault = none) := by
  decide +kernel
/-- A whole checkpoint: 32 bytes of header with LEN 1 and 32 bytes of state. -/
def ckptA : PoolFrame := ⟨1, idK, 0, 0, leBytes 32 (idK.toNat * 2 ^ 192 + 1 * 2 ^ 176 + 0 * 2 ^ 168) ++ List.replicate 32 5⟩
theorem wit_Checkpoints_standby : (let s := stPool 6 ledK id
    ckptPhase s ckptA = some (0, 0) ∧ openCopy s ckptA 0 = none ∧ freeStandby s = some 1024 ∧ ckptA.offset = 0 ∧
    ckptA.offset.toNat + ckptA.data.length ≤ blockBytes s ∧ 32 + 32 * (blockHeadOf (slice ckptA.data 0 32)).len ≤ ckptA.data.length ∧
    isMember s ckptA.src = true ∧ (routePort s ckptA.src).isSome = true) := by decide +kernel
def standA : Standby := ⟨1024, idK, 1, 0, 0, false, 5, 0, []⟩
theorem wit_Checkpoints_copy : (let s := stPool 6 ledK (fun p => { p with standbys := [standA] })
    ckptPhase s ckptA = some (0, 0) ∧ openCopy s ckptA 0 = some standA ∧ ckptA.offset.toNat + ckptA.data.length ≤ blockBytes s) ∧
    (let s := stPool 6 ledK (fun p => { p with rows := 0 })
    ckptPhase s ckptA = some (0, 0) ∧ openCopy s ckptA 0 = none ∧ freeStandby s = none) := by decide +kernel
/-- An acknowledgement names block 1,024 and phase 0 in its ledger word. -/
def ackA : PoolFrame := ⟨1, idK, BitVec.ofNat 64 (2 * 2 ^ 51 + 1 * 2 ^ 49 + 1 * 2 ^ 34 + 1024 * 2 ^ 9 + 1), 0, []⟩
theorem wit_Checkpoints_ack : (let s := stPool 5 { ledK with ckptSent := true } id
    slotOfReq ackA.reqId = 3 ∧ ckptNow s 3 = some ⟨0, 3, 8⟩ ∧ (ledgerOf s 3).valid = true ∧ (ledgerOf s 3).reqId = ackA.reqId ∧
    (ledgerOf s 3).ckptSent = true ∧ ackA.src = (ledgerOf s 3).standby ∧ s.clk.tick ≤ (⟨0, 3, 8⟩ : Ckpt).d1 ∧
    (ledgerWordOf ackA.ledger).phase.toNat = 0 ∧ (⟨0, 3, 8⟩ : Ckpt).d1 < (stPool 6 { ledK with ckptSent := true } id).clk.tick) := by decide +kernel
/-- R401: D1 = E + 1 + (S - E - 2) / 2 and D2 = S - 1. -/
theorem test_ack : (ledgerOf (after (.ckptAck ackA false) (stPool 5 { ledK with ckptSent := true } id)) 3).sblock = 1024 ∧
    counterOf (after (.ckptAck ackA false) (stPool 6 { ledK with ckptSent := true } id)) .ckptLate = 1 := by decide +kernel
def resK (step : ResumeStep) (got : List (Nat × List Byte)) : Resume := ⟨3, step, got, 4⟩
theorem wit_Resumes : (let s := stPool 6 ledK (fun p => { p with resumes := [resK .adopting []] })
    isMember s ackA.src = true ∧ (routePort s ackA.src).isSome = true ∧ adoptCopy s ackA.reqId (ledgerWordOf ackA.ledger) = none ∧
    resumeOf s 3 = some (resK .adopting []) ∧ ckptNow s 3 = some ⟨0, 3, 8⟩ ∧ s.clk.tick ≤ (⟨0, 3, 8⟩ : Ckpt).d2 ∧ (ledgerOf s 3).mirrored = true ∧
    (ledgerOf s 3).valid = true ∧ (ledgerOf s 3).reqId = ckptA.reqId ∧ slotOfReq ckptA.reqId = 3 ∧ ckptA.src = (ledgerOf s 3).standby ∧
    ckptA.offset = 0 ∧ 32 + 32 * (blockHeadOf (slice ckptA.data 0 32)).len ≤ ckptA.data.length ∧ admOf s 3 = some admA ∧ admA.fault = none) := by
  decide +kernel
theorem wit_Resumes_rewrite : (let s := stPool 6 ledK (fun p => { p with resumes := [resK .restored [(0, ckptA.data)]] })
    resumeOf s 3 = some (resK .restored [(0, ckptA.data)]) ∧ ckptNow s 3 = some ⟨0, 3, 8⟩ ∧ 4 < s.clk.tick ∧ s.clk.tick < (⟨0, 3, 8⟩ : Ckpt).d2 ∧
    (blockHeadOf (slice ckptA.data 0 32)).len = 1 ∧ 32 + 32 * 1 ≤ blockBytes s ∧ ckptA.data.length = 32 + 32 * 1) ∧
    (let s := stPool 6 ledK (fun p => { p with resumes := [resK .rewritten [(0, ckptA.data)]] })
    resumeOf s 3 = some (resK .rewritten [(0, ckptA.data)]) ∧ ckptNow s 3 = some ⟨0, 3, 8⟩ ∧ rehPoolHome s = false ∧ blockBad s 3 (blockBytes s) = false) := by
  decide +kernel
def casA : CasBody := ⟨1, idK, 2, 1, 2, 0⟩
def swapA : Swap := ⟨false, casA, 3⟩
theorem wit_LedgerSwaps : (let s := stPool 6 ledK (fun p => { p with swapReplies := [(swapA, 0, ledK)] })
    swapA.local_ = false ∧ casA.machineEpoch = s.mach.epoch ∧ (ledgerOf s 3).valid = true ∧ (ledgerOf s 3).reqId = casA.reqId ∧
    (ledgerOf s 3).epoch = casA.expEpoch ∧ (ledgerOf s 3).owner = casA.expOwner ∧ (ledgerOf s 3).epoch.toNat < 8191 ∧
    (ledgerOf (stPool 6 { ledK with epoch := 1 } id) 3).epoch ≠ casA.expEpoch ∧ s.pool.swapReplies.find? (fun r => r.1.slot == 3) = some (swapA, 0, ledK) ∧
    isMember s casA.src = true ∧ (routePort s casA.src).isSome = true) := by decide +kernel
def standK : Standby := ⟨1024, idK, 1, 0, 2, false, 10, ackA.ledger, []⟩
theorem wit_LedgerSwaps_notice : (let s := stPool 10 ledK (fun p => { p with standbys := [standK] })
    s.pool.standbys = [standK] ∧ standK.reqId = ackA.reqId ∧ (ledgerWordOf standK.word).epoch ≤ (ledgerWordOf ackA.ledger).epoch ∧
    (ledgerWordOf ackA.ledger).standby ≠ s.aon.nodeId ∧ (ledgerWordOf ackA.ledger).epoch.toNat < standK.epoch.toNat + 2 ∧
    (ledgerWordOf (BitVec.ofNat 64 (4 * 2 ^ 51))).epoch.toNat = standK.epoch.toNat + 2 ∧
    (ledgerWordOf (BitVec.ofNat 64 (3 * 2 ^ 51))).standby = s.aon.nodeId ∧ standK.last + 131072 ≤ 131082 ∧ s.clk.tick < standK.last + 131072) := by
  decide +kernel

/-! ### The host interface -/

def stPcie (f : Func) : State := { nodeA with funcs := [(1, f)] }
theorem wit_QueueRegisters : (let f : Func := { Func.reset with sqTail := 500, sqHead := 490, log2 := 4, cqTail := 5, cqHead := 3 }
    pcieUp (stPcie f) = true ∧ (3 : BitVec 64).toNat < 512 ∧ (f.sqTail - f.sqHead).toNat ≤ (BitVec.ofNat 9 (3 : BitVec 64).toNat - f.sqHead).toNat ∧
    (BitVec.ofNat 9 (495 : BitVec 64).toNat - f.sqHead).toNat < (f.sqTail - f.sqHead).toNat ∧
    (5 + 16 - f.cqHead.toNat) % 16 ≤ (f.cqTail.toNat + 16 - f.cqHead.toNat) % 16 ∧
    (f.cqTail.toNat + 16 - f.cqHead.toNat) % 16 < (6 + 16 - f.cqHead.toNat) % 16) := by decide +kernel
theorem wit_QueueRegisters_enable : (let v : BitVec 64 := BitVec.ofNat 64 (2 ^ 63 + 4)
    v.getLsbD 63 = true ∧ v.toNat / 32 % 2 ^ 56 = 0 ∧ 4 ≤ v.toNat % 32 ∧ v.toNat % 32 ≤ 16 ∧ (funcOf nodeA 1).en = false ∧ (funcOf nodeA 1).open_ = 0) ∧
    (let v : BitVec 64 := BitVec.ofNat 64 (2 ^ 61 + 4)
     v.getLsbD 63 = false ∧ v.getLsbD 61 = true ∧ v.toNat / 32 % 2 ^ 56 = 0) := by decide +kernel
/-- SQ_TAIL wraps from 500 to 3 and may not step back to 495 (R439). -/
theorem test_sq_tail : (let s := stPcie { Func.reset with sqTail := 500, sqHead := 490 }
    (funcOf (after (.sqTailWrite 1 3) s) 1).sqTail = 3 ∧ (funcOf (after (.sqTailWrite 1 495) s) 1).ws = ⟨true, false, 2, 0x10⟩) := by decide +kernel
theorem wit_HostRegisters : pcieUp nodeA = true ∧ (BitVec.ofNat 9 5 - (funcOf nodeA 1).sqHead).toNat ≥ ((funcOf nodeA 1).sqTail - (funcOf nodeA 1).sqHead).toNat ∧
    (let f : Func := { Func.reset with sqTail := 6 }
     (BitVec.ofNat 9 5 - f.sqHead).toNat < (f.sqTail - f.sqHead).toNat) ∧ (0 : BitVec 64).toNat + 32768 ≤ 402653184 := by decide +kernel
theorem wit_HostRegisters_fence : (let s := stFab id
    pcieUp s = true ∧ (1 : BitVec 32).toNat < 8 ∧ (1 : BitVec 32).toNat ≠ 0 ∧ (1 : BitVec 32).toNat ≠ 7 ∧
    (∀ p : Fin 3, pairAbsent s p = false) ∧ s.fab.byp[(0 : Fin 3)] = .open_) ∧
    (let s := stFab (fun f => { f with byp := Vector.replicate 3 .closed })
     s.fab.byp[(1 : Fin 3)] = .closed ∧ portTrained s.fab.ports[portPlus 1] = true ∧ portTrained s.fab.ports[portMinus 1] = true) := by decide +kernel
theorem wit_HostRegisters_arm : (let v : BitVec 64 := BitVec.ofNat 64 (64 * 2 ^ 32 + 2 * 2 ^ 28 + 1 * 2 ^ 13 + 2)
    let s := stMach 4096 (fun m => { m with rehStart := 6144 }) ShardEnt.reset
    pcieUp s = true ∧ v.getLsbD 1 = true ∧ v.toNat / 4 % 2 ^ 11 = 0 ∧ s.mach.rehArmed = false ∧ s.clk.tick + 2048 ≤ s.mach.rehStart.toNat ∧
    0 < v.toNat / 2 ^ 32 ∧ rehTargetStatus s (v.toNat / 2 ^ 28 % 16) (v.toNat / 2 ^ 13 % 2 ^ 15) = 0x00 ∧ s.mach.role ≠ .steward) := by decide +kernel
theorem wit_HostRegisters_events : (let v : BitVec 64 := BitVec.ofNat 64 (2 ^ 63 + 4)
    v.getLsbD 63 = true ∧ v.toNat / 16 % 2 ^ 59 = 0 ∧ 4 ≤ v.toNat % 16 ∧ nodeA.evt.en = false) ∧
    (let e : Events := { Events.reset with log2 := 4, head := 14, tail := 2 }
     e.head.toNat < 16 ∧ (1 + 16 - e.head.toNat) % 16 ≤ (e.tail.toNat + 16 - e.head.toNat) % 16) ∧ (448 : BitVec 64).toNat / 512 % 128 = 0 := by
  decide +kernel
theorem wit_HostReadsAndErrors : pcieUp (stElem 4) = true ∧ 0 < (64 : Fin 65).val ∧ (33554368 : BitVec 25).toNat + 64 ≤ 33554432 ∧
    elemOf (stElem 4) 9 = some elemH ∧ elemH.kind = .loadHost 64 2 0 ∧ (stElem 4).clk.tick ≤ ((tileOf (stElem 4) elemH.tile.val).wait[elemH.wait]).dl ∧
    ({ elemH with slot := some 3 } : Elem).slot = some 3 ∧ admOf (stB [] []) 3 = some admA ∧ admA.fault = none ∧
    ({ nodeA.host.mbx with busy := true } : Mbx).busy = true := by decide +kernel

/-! ### The mailbox -/

/-- A command in the mailbox registers of a node that runs. -/
def mbxWord (op ctx a0 a1 addr len : Nat) : BitVec 512 :=
  BitVec.ofNat 512 (addr * 2 ^ 448 + len * 2 ^ 416 + a0 * 2 ^ 352 + a1 * 2 ^ 288 + ctx * 2 ^ 12 + op)
def ask (s : State) (op ctx a0 a1 addr len : Nat) : State :=
  { s with host := { s.host with mbx := ⟨mbxWord op ctx a0 a1 addr len, true, 0, [0, 0, 0, 0], false⟩ } }
theorem wit_MailboxContexts : (ask nodeA 0x12 0 0 0 0 0).host.mbx.busy = true ∧ mbxKnown (mbxCmd (ask nodeA 0x12 0 0 0 0 0)).op = false ∧
    Asked (ask nodeA 0x02 5 0 0 0 0) 0x02 5 0 0 0 0 ∧ Asked (ask nodeA 0x02 5 0 0 32 0) 0x02 5 0 0 32 0 ∧ atReady (ask nodeA 0x02 5 0 0 0 0) = true ∧
    atReady (ask State.reset 0x02 5 0 0 0 0) = false ∧ ctxKnown (ask nodeA 0x02 5 0 0 0 0) 5 = false ∧ ctxKnown (ask (stB [] []) 0x02 5 0 0 0 0) 5 = true :=
  ⟨rfl, by decide +kernel, ⟨rfl, by decide +kernel⟩, ⟨rfl, by decide +kernel⟩, by decide +kernel, by decide +kernel, by decide +kernel, by decide +kernel⟩
/-- A context of one shard, cosine, dimension 64, F16 vectors of 5 units; owner 1, weight 3, QMAX 8. -/
def ctxBytes : List Byte :=
  leBytes 32 (1 * 2 ^ 235 + 1 * 2 ^ 232 + 64 * 2 ^ 219 + 5 * 2 ^ 209 + 6) ++ leBytes 16 (1 * 2 ^ 118 + 3 * 2 ^ 102 + 8 * 2 ^ 86 + 6)
theorem wit_MailboxContexts_create : Asked (ask nodeA 0x01 6 0 0 64 48) 0x01 6 0 0 64 48 ∧ ctxFree (ask nodeA 0x01 6 0 0 64 48) 6 = true ∧
    ctxFree (ask (stB [] []) 0x01 5 0 0 64 48) 5 = false ∧ ctxWordOk (leAt ctxBytes 0 32) 6 = true ∧ admWordOk (leAt ctxBytes 32 16) 6 = true :=
  ⟨⟨rfl, by decide +kernel⟩, by decide +kernel, by decide +kernel, by decide +kernel, by decide +kernel⟩
theorem test_create : (let x := ctxOf (after (.ctxCreate (some ctxBytes)) (ask nodeA 0x01 6 0 0 64 48)) 6
    (x.live, x.dim, x.adm.weight) = (true, 64, 3)) := by decide +kernel
/-- A legal calibration record: margins 0.25 in 0 to 0.5, step 0.03125, outlier ratio 1, MISS_TARGET 655, NARROW_AFTER 8, audits on. -/
def calWord : Nat := 0x3400 * 2 ^ 240 + 0x3800 * 2 ^ 208 + 0x2800 * 2 ^ 192 + 0x3C00 * 2 ^ 176 + 655 * 2 ^ 160 + 8 * 2 ^ 72 + 2 ^ 15
def meterWord : Nat := 1 * 2 ^ 126 + 1 * 2 ^ 89 + 8192 * 2 ^ 45
theorem wit_MailboxContexts_words : calOk (leAt (leBytes 32 calWord) 0 32) = true ∧ admWordOk (leAt (leBytes 16 (2 ^ 102 + 2 ^ 86 + 5)) 0 16) 5 = true ∧
    segOk (leAt (leBytes 8 (200 * 2 ^ 35 + 1 * 2 ^ 6 + 1)) 0 8) = true ∧ segOk 0 = true ∧
    tierOk (mbxView (ask (stB [] []) 0x0B 5 0 0 0 16)) 5 (leAt (leBytes 16 (5000000 * 2 ^ 97 + 8 * 2 ^ 68 + 16 * 2 ^ 60)) 0 16) = true ∧
    tierBusy (ctxOf (stB [] []) 5) = false ∧ meterOk 0 = true ∧ (meterOf 0).rrMax = 0 := by decide +kernel
theorem wit_MailboxContexts_asked (op len : Nat) (h : (op, len) ∈ [(0x03, 16), (0x09, 32), (0x0A, 128), (0x0B, 16), (0x0C, 16)]) :
    Asked (ask (stB [] []) op 5 0 0 64 len) op 5 0 0 64 len ∧ Asked (ask nodeA 0x0D 0 (512 : Fin 513).val 0 64 16) 0x0D 0 (512 : Fin 513).val 0 64 16 := by
  simp only [List.mem_cons, Prod.mk.injEq, List.not_mem_nil, or_false] at h
  rcases h with ⟨rfl, rfl⟩ | ⟨rfl, rfl⟩ | ⟨rfl, rfl⟩ | ⟨rfl, rfl⟩ | ⟨rfl, rfl⟩ <;>
    exact ⟨⟨rfl, by decide +kernel⟩, rfl, by decide +kernel⟩
def stEffect : State :=
  { stQueue 8 with ctxs := [(5, { ctxA with admNext := some (⟨2, 3, 8, 0, 0⟩, 7), calNext := some (calOf calWord, 7) })],
                   host := { (stQueue 8).host with queued := [{ reqA with fn := 3 }] } }
theorem wit_MailboxContexts_effect : (ctxOf stEffect 5).admNext = some (⟨2, 3, 8, 0, 0⟩, 7) ∧ 7 < stEffect.clk.tick ∧ stEffect.clk.did.consumed = false ∧
    stEffect.host.queued = [{ reqA with fn := 3 }] ∧ ({ reqA with fn := 3 } : Req).fn.val ≠ 2 ∧ (ctxOf stEffect 5).calNext = some (calOf calWord, 7) := by
  decide +kernel
/-- A shard copy of shard 0 of context 5, and partition 0: cosine E8 codes of dimension 64 (4 columns), records of 5 columns, 8 rows. -/
def copyWord : Nat := 5000000 * 2 ^ 227 + 5000001 * 2 ^ 193 + 5000010 * 2 ^ 159 + 5000020 * 2 ^ 130 + 5000030 * 2 ^ 101 + 1 * 2 ^ 81 + 5
def partWord : Nat := partNat ⟨0, 5000000, 8, 0, 0, 5, 0, 3, 64, 0, 0, 0⟩
theorem wit_MailboxShards : (let s := ask (stB [] []) 0x05 5 0 0 64 32
    let v := mbxView s
    Asked s 0x05 5 0 0 64 32 ∧ atReady s = true ∧ ctxKnown s 5 = true ∧ partSum v (shardCopyOf (leAt (leBytes 32 copyWord) 0 32)) ≤ 1048576 ∧
    copyBusy v (shardCopyOf (leAt (leBytes 32 copyWord) 0 32)) = false) :=
  ⟨⟨rfl, by decide +kernel⟩, by decide +kernel, by decide +kernel, by decide +kernel, by decide +kernel⟩
def stMap : State := { ask (stB [] []) 0x04 5 0 0 64 4 with mach := { Mach.reset with members := [0, 1] }, shards := [(shardKey 5 0, ⟨.serving, 1, 0, false⟩)] }
theorem wit_MailboxShards_map : Asked stMap 0x04 5 0 0 64 (4 * 1) ∧ 0 + 1 ≤ (ctxOf stMap 5).ns ∧
    mapEntryOk (mbxView stMap) 5 (0 + 0) (leAt (leBytes 4 (1 * 2 ^ 15)) (4 * 0) 4) = true ∧
    copyFieldsOk (mbxView stMap) (leAt (leBytes 32 copyWord) 0 32) 5 = true ∧ copyPlaced (mbxView stMap) (shardCopyOf (leAt (leBytes 32 copyWord) 0 32)) = true :=
  ⟨⟨rfl, by decide +kernel⟩, by decide +kernel, by decide +kernel, by decide +kernel, by decide +kernel⟩
def stParts : State := { ask (stB [] []) 0x06 5 0 0 64 32 with ctxs := [(5, { ctxA with codeFormat := some (3, 64, 0, 5) })] }
theorem wit_MailboxShards_parts : Asked stParts 0x06 5 0 0 64 32 ∧ (ctxOf (mbxView stParts) 5).codeFormat ≠ none ∧
    (partStep 5 0 (some (mbxView stParts)) (0, leAt (leBytes 32 partWord) 0 32)).isSome = true := ⟨⟨rfl, by decide +kernel⟩, by decide +kernel, by decide +kernel⟩
theorem wit_MailboxShards_memory : (let s := ask nodeA 0x07 0 1024 0 64 32
    Asked s 0x07 0 1024 0 64 32 ∧ scaleInUse (mbxView s) (1024, 32) = false) ∧ Asked (ask nodeA 0x08 0 1024 0 64 32) 0x08 0 1024 0 64 32 ∧
    (let s := ask nodeA 0x08 0 1024 0 64 32
     memReadWaits s = false ∧ oddIn s [] 1024 32 = [] ∧ rangeDead s 1024 32 = false) ∧
    Asked (ask nodeA 0x07 0 1024 0 64 64) 0x07 0 1024 0 64 64 ∧ scaleInUse (mbxView (ask nodeA 0x07 0 1024 0 64 64)) (1024, 64) = false ∧
    (let s : State := { ask (stB [] []) 0x11 5 0 0 0 0 with shards := [(shardKey 5 0, ⟨.lost, 1, 0, false⟩)] }
     Asked s 0x11 5 0 0 0 0 ∧ (0 : Nat) < (ctxOf s 5).ns ∧ (shardEnt (mbxView s) 5 0).state = .lost) :=
  ⟨⟨⟨rfl, by decide +kernel⟩, by decide +kernel⟩, ⟨rfl, by decide +kernel⟩, by decide +kernel, ⟨rfl, by decide +kernel⟩, by decide +kernel,
   ⟨rfl, by decide +kernel⟩, by decide +kernel, by decide +kernel⟩
/-- A pair of the range that computes makes a memory read wait, once it has been asked for. -/
theorem wit_MailboxShards_waits : (let s : State := { ask nodeA 0x08 0 1024 0 64 32 with
      stk := { nodeA.stk with beans := (beansOfRange 1024 32).map (fun b => (b, { Bean.reset with run := some { runPut with retryDue := false } })) },
      host := { nodeA.host with mbx := { (ask nodeA 0x08 0 1024 0 64 32).host.mbx with held := true } } }
    memReadWaits s = true ∧ s.host.mbx.held = true) := by decide +kernel

/-- The sums of x^t and of t x^t for t below n. -/
def powers (n x : Nat) : Nat := (x ^ n - 1) / (x - 1)
def ramps (n x : Nat) : Nat := ((n - 1) * x ^ n - (powers n x - 1)) / (x - 1)
/-- A tokeniser image of 512 tokens (R340 to R343): byte tokens 0 to 255, special tokens above them, one class range (U+0020), no merges. -/
def imageNat : Nat :=
  (512 * 2 ^ 239 + 300 * 2 ^ 207 + 301 * 2 ^ 191 + 302 * 2 ^ 175 + 1 * 2 ^ 151 + 256 * 2 ^ 128)
  + (32 * 2 ^ 24 + 32 * 2 ^ 3 + 2) * 2 ^ 256
  + ((2 ^ 32 + 1) * powers 256 (2 ^ 64) + 256 * ramps 256 (2 ^ 64) + 2 * 2 ^ 32 * powers 256 (2 ^ 64) * 2 ^ (64 * 256)) * 2 ^ 512
  + ramps 256 256 * 2 ^ (8 * 4288)
def tokImage : List Byte := leBytes 4544 imageNat
theorem imageNat_lt : imageNat < 256 ^ 4544 := by decide +kernel
/-- The check of one vocabulary entry, on the number. -/
def tokenOk (h : TokHead) (t : Nat) : Bool :=
  let e := imageNat / 256 ^ (vocabOff h + 8 * t) % 256 ^ 8
  let k := bitsOf e 32 2
  let n := bitsOf e 0 8
  bitsOf e 34 30 == 0 && decide (bitsOf e 8 24 + n ≤ h.poolLen)
  && (match k with
      | 0 => decide (1 ≤ n) && decide (n ≤ 64)
      | 1 => n == 1
      | 2 => n == 0
      | _ => false)
  && ((decide (h.byteBase ≤ t) && decide (t < h.byteBase + 256)) == (k == 1))
  && (k != 1 || leBytes n (imageNat / 256 ^ (poolOff h + bitsOf e 8 24)) == [BitVec.ofNat 8 (t - h.byteBase)])
theorem vocabOk_image (h : TokHead) : vocabOk (leBytes 4544 imageNat) h = tokenOk h := by
  funext t
  simp only [vocabOk, tokenOk, tokStr, vocabEntry, leAt_leBytes imageNat_lt, slice_leBytes imageNat_lt]
    <;> rfl
theorem tokImage_ok : tokImageOk tokImage = true := by
  rw [tokImage]
  simp only [tokImageOk, headFieldsOk, vocabOk_image, classesOk, mergesOk, vhashOk, tokHeadOf, mergeEntries, vhashEntries, mergeEntry, vhashEntry,
    tokStr, tokKind, vocabEntry, leAt_leBytes imageNat_lt, slice_leBytes imageNat_lt, length_leBytes]
  decide +kernel
def stTokLoad : State := ask { nodeA with aon := { nodeA.aon with textUnit := true } } 0x10 0 0 0 64 4608
theorem wit_MailboxShards_tokeniser : (let b := tokImage ++ sha512 tokImage
    Asked stTokLoad 0x10 0 (0 : Fin 2).val 0 64 b.length ∧ b.length = 4608 ∧ stTokLoad.aon.textUnit = true ∧
    sha512 (b.take (b.length - 64)) = b.drop (b.length - 64) ∧ tokImageOk (b.take (b.length - 64)) = true ∧ heldBusy stTokLoad stTokLoad.txt.slots[(0 : Fin 2)] = false) := by
  have hl : (tokImage ++ sha512 tokImage).length = 4608 := by simp [length_sha512, tokImage]
  have ht : (tokImage ++ sha512 tokImage).length - 64 = tokImage.length := by simp [length_sha512]
  refine ⟨?_, hl, rfl, ?_, ?_, by decide +kernel⟩
  · rw [hl]
    exact ⟨rfl, by decide +kernel⟩
  · rw [ht]
    simp
  · rw [ht]
    simpa using tokImage_ok

/-! ### Plans, start-up and joining -/

/-- A digest the spec's algorithm gives: FIPS 180-4's SHA-512 of "abc" begins DD AF 35 A1, and RFC 8032's first test vector verifies. -/
theorem test_sha512 : (sha512 [0x61, 0x62, 0x63]).take 4 = [0xDD, 0xAF, 0x35, 0xA1] := by decide +kernel
def pubTest : List Byte := (leBytes 32 0xd75a980182b10ab7d54bfed3c964073a0ee172f3daa62325af021a68f707511a).reverse
theorem test_ed25519 : (let sig : List Byte := (leBytes 64 0xe5564300c360ac729086e2cc806e828a84877f1eb8e5d974d873e065224901555fb8821590a33bacc61e39701cf9b46bd25bf5f0595bbe24655141438e7a100b).reverse
    edVerify pubTest [] sig = true ∧ edVerify pubTest [0] sig = false) := by decide +kernel

def actA (placed : Bool) (failed : Option (BitVec 8)) : Activation := ⟨16384, 64, placed, failed⟩
/-- An image of 32 zero bytes and its digest. -/
def imgZ : List Byte := List.replicate 32 0
def stPlan (tick : Nat) (f : PlanSt → PlanSt) : State :=
  { nodeA with plan := f { PlanSt.reset with next := some planA, nextDigest := sha512Word imgZ, nextState := .verified }, clk := { Clock.reset with tick := tick } }
theorem wit_PlanChanges : (let s := ask (stPlan 0 id) 0x0E 0 0 0 64 96
    Asked s 0x0E 0 0 0 64 96 ∧ atReady s = true ∧ s.plan.act = none ∧ s.plan.nextState ≠ .verifying) ∧
    (stPlan 0 (fun p => { p with nextState := .verifying })).plan.nextState = .verifying ∧
    (stPlan 0 (fun p => { p with act := some (actA false none) })).plan.act ≠ none :=
  ⟨⟨⟨rfl, by decide +kernel⟩, by decide +kernel, rfl, by decide +kernel⟩, rfl, by decide +kernel⟩
theorem wit_PlanChanges_activate : (let s := ask (stPlan 5 id) 0x0F 0 16384 64 0 0
    Asked s 0x0F 0 16384 64 0 0 ∧ atReady s = true ∧ s.plan.act = none ∧ s.plan.nextState = .verified ∧ s.plan.next = some planA ∧
    s.clk.tick + 2 * 64 ≤ 16384 ∧ planA.ports = []) ∧ Asked (ask (stPlan 5 id) 0x0F 0 16384 63 0 0) 0x0F 0 16384 63 0 0 :=
  ⟨⟨⟨rfl, by decide +kernel⟩, by decide +kernel, rfl, rfl, rfl, by decide +kernel, rfl⟩, ⟨rfl, by decide +kernel⟩⟩
theorem wit_PlanChanges_drain : (let s := stPlan 16381 (fun p => { p with active := some planA, act := some (actA false none) })
    s.plan.act = some (actA false none) ∧ 16384 ≤ s.clk.tick + drainTicks s ∧ (stPlan 16380 (fun p => { p with active := some planA })).clk.tick + drainTicks s < 16384) := by
  decide +kernel
theorem wit_PlanChanges_place : (let s := stPlan 16384 (fun p => { p with act := some (actA false none) })
    let b := imgZ ++ sha512 imgZ
    s.plan.act = some (actA false none) ∧ s.plan.next = some planA ∧ (actA false none).a ≤ s.clk.tick ∧ s.clk.tick < 16384 + 64 ∧ s.host.queued = [] ∧
    BitVec.ofNat 512 (leNat (sha512 (imageParts b).1)) = s.plan.nextDigest ∧ imageDigest b = s.plan.nextDigest) := by decide +kernel
theorem wit_PlanChanges_complete : (let s := stPlan 16448 (fun p => { p with act := some (actA true none), ready := true })
    s.plan.act = some (actA true none) ∧ 16384 + 64 ≤ s.clk.tick ∧ s.plan.ready = true) ∧
    (let s := stPlan 16448 (fun p => { p with act := some (actA false none) })
     s.plan.act = some (actA false none) ∧ s.mach.dropped = none ∧ s.plan.ready = false) := by decide +kernel

/-- A FIRMWARE record of one byte, signed with the key of RFC 8032's first test vector. -/
def fwRecA : List Byte :=
  leBytes 2 1 ++ leBytes 4 0 ++ leBytes 16 0 ++ leBytes 4 1 ++ leBytes 4 7 ++ leBytes 1 6 ++ leBytes 1 0 ++ pubTest ++
  leBytes 64 0x91fe1cec1873d64d929cca4439cd9982272016bb1899f4e8746840fb3380fdc5fe2c8fc837c70a4d20de5f24b3b22eafb616cb5bdac48cc2de1da8621c43b29 ++ [9]
/-- The vendor's root keys are not stated by the spec (log 9): where ROOT_0 is that key, the record is accepted. -/
theorem wit_StartUpCommands_stage (h : Config.rootHash false = sha512Word pubTest) : (let s := ask nodeA 0x22 0 0 0 64 129
    Asked s 0x22 0 0 0 64 fwRecA.length ∧ 128 < fwRecA.length ∧ s.aon.fwStageState ≠ .writing ∧ 128 + (bootHeadOf fwRecA).length = fwRecA.length ∧
    recAccepted s.aon.deviceId 6 fwRecA = true) := by
  refine ⟨⟨rfl, by decide +kernel⟩, by decide +kernel, by decide +kernel, by decide +kernel, ?_⟩
  have h0 : ((bootHeadOf fwRecA).keyIndex == 1) = false := by decide +kernel
  have hs : (bootHeadOf fwRecA).signer = pubTest := by decide +kernel
  simp only [recAccepted, rootSigned, h0, h, hs]
  decide +kernel
theorem wit_StartUpCommands_refused : recAccepted nodeA.aon.deviceId 6 (fwRecA.set 0 2) = false ∧
    Asked (ask nodeA 0x22 0 0 0 64 129) 0x22 0 0 0 64 (fwRecA.set 0 2).length := ⟨by decide +kernel, rfl, by decide +kernel⟩
theorem wit_StartUpCommands : (let s := ask { nodeA with aon := { nodeA.aon with seed := some 7 } } 0x20 0 0 0 64 544
    Asked s 0x20 0 0 0 64 544 ∧ s.aon.seed = some 7) ∧ Asked (ask nodeA 0x21 0 0 0 64 4096) 0x21 0 0 0 64 4096 ∧
    ({ nodeA with aon := { nodeA.aon with fwStageState := .writing } } : State).aon.fwStageState = .writing ∧
    Asked (ask nodeA 0x23 0 1 0 0 0) 0x23 0 1 0 0 0 ∧ Asked (ask nodeA 0x23 0 2 0 0 0) 0x23 0 2 0 0 0 ∧ Asked (ask nodeA 0x24 0 0 0 0 0) 0x24 0 0 0 0 0 ∧
    Asked (ask nodeA 0x25 0 0 0 0 0) 0x25 0 0 0 0 0 ∧ Asked (ask nodeA 0x26 0 0 0 64 64) 0x26 0 0 0 64 64 ∧ Asked (ask nodeA 0x29 0 0 0 0 0) 0x29 0 0 0 0 0 ∧
    nodeA.aon.trainWriting = false ∧ (∀ i : Fin 64, ((List.replicate 64 (0x8F : Byte)).getD i.val 0).toNat / 16 % 4 = 0) ∧
    ((List.replicate 64 (0x1F : Byte)).getD 0 0).toNat / 16 % 4 ≠ 0 :=
  ⟨⟨⟨rfl, by decide +kernel⟩, rfl⟩, ⟨rfl, by decide +kernel⟩, rfl, ⟨rfl, by decide +kernel⟩, ⟨rfl, by decide +kernel⟩, ⟨rfl, by decide +kernel⟩,
    ⟨rfl, by decide +kernel⟩, ⟨rfl, by decide +kernel⟩, ⟨rfl, by decide +kernel⟩, rfl, by decide +kernel, by decide +kernel⟩
def markA : Marker := ⟨8192, 3, 1⟩
theorem wit_StartUpCommands_join : (let s := ask { stFab id with aon := { (stFab id).aon with zPorts := true } } 0x27 0 16384 (3 + 64 * 1) 0 0
    Asked s 0x27 0 16384 ((3 : BitVec 6).toNat + 64 * (1 : BitVec 3).toNat) 0 0 ∧ atReady s = true ∧ s.mach.join = none ∧ markA.tick.toNat + 8192 ≤ 16384 ∧
    (∀ p : Fin 3, (1 : BitVec 3).getLsbD p.val = true → pairAbsent s p = false) ∧ (s.aon.zPorts = true ∨ Config.nz = 1) ∧ markA.partition = 3 ∧ s.plan.ready = false) :=
  ⟨⟨rfl, by decide +kernel⟩, by decide +kernel, rfl, by decide +kernel, by decide +kernel, Or.inl rfl, rfl, rfl⟩
def joinA : Join := ⟨16384, 0, 1, true⟩
def stJoin (st : JoinState) (tick : Nat) (locked : Bool) : State :=
  let s := stFab id
  { s with aon := { s.aon with joinState := st }, mach := { s.mach with join := some joinA }, clk := { Clock.reset with tick := tick, locked := locked } }
theorem wit_StartUpCommands_open : (stJoin .waiting 12288 true).mach.join = some joinA ∧ (stJoin .waiting 12288 true).aon.joinState = .waiting ∧
    joinA.j ≤ 12288 + 4096 ∧ (stJoin .waiting 12288 true).aon.inReset = false ∧ joinA.j ≤ (stJoin .opening 16383 true).clk.tick + 1 ∧
    joinHolds (stJoin .opening 16383 true) joinA = true ∧ joinHolds (stJoin .opening 16383 false) joinA = false := by decide +kernel
theorem wit_StartUpCommands_add : (let s := ask { nodeA with mach := { Mach.reset with role := .steward, nextEpoch := 16384 } } 0x28 0 16384 (7 : NodeId).toNat 0 0
    Asked s 0x28 0 16384 (7 : NodeId).toNat 0 0 ∧ atReady s = true ∧ s.mach.role = .steward ∧ s.clk.tick + 4096 ≤ 16384 ∧ s.mach.nextEpoch = 16384) :=
  ⟨⟨rfl, by decide +kernel⟩, by decide +kernel, rfl, by decide +kernel, rfl⟩

/-! ### Events and the sideband port -/

/-- R479's example: SPLIT 2, VEC_BASE 0x10; sources 73, 32 and 33 of PRIO 9, 5 and 4, all EDGE; group 4 is held off for 300 cycles. -/
def evtA : Events :=
  { Events.reset with vecBase := 0x10, split := 2, src := [(32, 0xC5), (33, 0xC4), (73, 0xC9)], holdoff := [(4, 300)] }
def stEvt (f : Events → Events) : State := { nodeA with evt := f evtA }
def evt33 : PendEvt := ⟨33, 0, 0⟩
def evt32 : PendEvt := ⟨32, 0, 0⟩
theorem wit_EventController : NodeRuns (stEvt id) ∧ srcListed (73 : Fin 512).val = true ∧ (srcOf (stEvt id) 73).getLsbD 6 = true :=
  ⟨⟨by decide, by decide⟩, by decide +kernel, by decide +kernel⟩
theorem wit_EventController_take : (let s := stEvt (fun e => { e with pending := [evt32], handlers := [73] })
    evt32 ∈ s.evt.pending ∧ (srcOf s 32).getLsbD 7 = true ∧ tget 0 s.evt.holdEnd (32 / 8) < 64 * s.clk.tick + (1 : Fin 64).val ∧
    (∀ h ∈ s.evt.handlers, (srcOf s 32).toNat % 16 / 2 ^ s.evt.split.toNat < (srcOf s h).toNat % 16 / 2 ^ s.evt.split.toNat) ∧
    (let v := stEvt (fun e => { e with pending := [evt33], handlers := [32] })
     (srcOf v 32).toNat % 16 / 2 ^ v.evt.split.toNat ≤ (srcOf v 33).toNat % 16 / 2 ^ v.evt.split.toNat)) := by decide +kernel
/-- Source 32 is taken over 73's handler at 0x20200, and group 4 is held off (R479). -/
theorem test_take : (let e := (after (.eventTake 1) (stEvt (fun e => { e with pending := [evt32], handlers := [73] }))).evt
    (e.pc, e.handlers, e.holdEnd) = (some 0x20200, [32, 73], [(4, 301)])) ∧
    (after (.eventTake 1) (stEvt (fun e => { e with pending := [evt33], holdEnd := [(4, 301)] }))).evt.handlers = [] := by decide +kernel
theorem wit_EventController_end : (stEvt (fun e => { e with handlers := [32, 73] })).evt.handlers = [32, 73] ∧
    (let s := { stEvt (fun e => { e with holdEnd := [(4, 301)] }) with clk := { Clock.reset with tick := 4 } }
     tget 0 s.evt.holdEnd (4 : Fin 64).val ≤ 64 * s.clk.tick + (45 : Fin 64).val) := by decide +kernel
theorem wit_EventController_record : (let s := stEvt (fun e => { e with records := [evt33], en := true, log2 := 4, tail := 15, head := 1 })
    s.evt.records = [evt33] ∧ s.evt.tail.toNat < 2 ^ s.evt.log2.toNat ∧ s.evt.head.toNat < 2 ^ s.evt.log2.toNat ∧
    (15 + 16 - 1) % 16 < 15 ∧ s.evt.tail.toNat + 1 = 16 ∧ (15 + 16 - 0) % 16 = 16 - 1) := by decide +kernel
theorem wit_SidebandPort : nodeA.aon.powered = true ∧ nodeA.aon.inReset = false ∧
    (let s := aonWith (fun a => { a with powerLimit := 600 })
     200 ≤ (0x58 : Byte).toNat + 256 * (0x02 : Byte).toNat ∧ (0x58 : Byte).toNat + 256 * (0x02 : Byte).toNat ≤ s.aon.powerLimit.toNat ∧
     s.aon.powerLimit.toNat < (0x59 : Byte).toNat + 256 * (0x02 : Byte).toNat) := by decide +kernel
theorem test_set_cap : (let s := aonWith (fun a => { a with powerLimit := 600 })
    (after (.setCap true [0x58, 0x02]) s).pow.boardCap = some 600 ∧ (after (.setCap true [0x59, 0x02]) s).aon.smbReply = [4, 1, 2]) := by decide +kernel

/-! ### Steps -/

theorem wit_P0Kept : Safety.P0Ones State.reset ∧ Safety.Runs State.reset := ⟨fun _ => ⟨rfl, rfl⟩, ⟨_, rfl⟩⟩
theorem wit_MemoryKept : Memory.wf (stB [] []).mem = true := by decide +kernel
theorem wit_StepAnswers : ({ holding add312 stA with pending := [add312, .epochBoundary] } : State).pending = [add312, .epochBoundary] ∧
    Safety.Runs { holding add312 stA with pending := [add312, .epochBoundary] } := ⟨rfl, ⟨_, rfl⟩⟩
/-- A step takes the front command and leaves the rest. -/
theorem test_step : (match step { holding add312 stA with pending := [add312, .epochBoundary] } with
    | .next u => decide (u.pending = [.epochBoundary] ∧ (tileOf u 0).regs.s[3] = 4)
    | _ => false) = true := by decide +kernel
/-- The table gives no row bits, so no word spells a command. -/
theorem test_word_none : decodeTableWord 64 5 = none ∧ (State.reset.withFetchWord 64 5) = State.reset := ⟨rfl, rfl⟩

end Sys2Proof.Tests
end

namespace Sys2Proof.ScalarSlot

open Sys2Proof Sys2Proof.Machine Sys2Proof.Claims Sys2Proof.Laws

/-! ### Values: the machine's words against the spec's arithmetic (R192 to R194) -/

/-- SETH puts its immediate above the low half that it keeps. -/
theorem append_truncate_eq_ofNat (imm : BitVec 32) (v : Word64) :
    imm ++ v.truncate 32 = BitVec.ofNat 64 (imm.toNat * 2 ^ 32 + v.toNat % 2 ^ 32) := by
  have hlow : v.toNat % 2 ^ 32 < 2 ^ 32 := Nat.mod_lt _ (by decide)
  apply BitVec.eq_of_toNat_eq
  rw [BitVec.toNat_append, BitVec.truncate_eq_setWidth, BitVec.toNat_setWidth, ← Nat.shiftLeft_add_eq_or_of_lt hlow,
    Nat.shiftLeft_eq, BitVec.toNat_ofNat]
  omega

theorem add_signExtend_eq_ofInt (v : Word64) (x : BitVec 25) :
    v + x.signExtend 64 = BitVec.ofInt 64 (v.toInt + x.toInt) := by
  rw [BitVec.ofInt_add, BitVec.ofInt_toInt]
  rfl

theorem sub_eq_ofInt (v w : Word64) : v - w = BitVec.ofInt 64 (v.toInt - w.toInt) := by
  apply BitVec.eq_of_toInt_eq
  rw [BitVec.toInt_sub, BitVec.toInt_ofInt]

theorem mul_eq_ofNat (v w : Word64) : v * w = BitVec.ofNat 64 (v.toNat * w.toNat) := by
  rw [BitVec.ofNat_mul, BitVec.ofNat_toNat, BitVec.ofNat_toNat, BitVec.setWidth_eq, BitVec.setWidth_eq]

/-- A shift by `n` is a multiplication by 2^n or a division by it, rounded down. -/
theorem shiftBy_eq_shifted (k : ShiftKind) (v : Word64) (n : Nat) : shiftBy k v n = shifted k v n := by
  cases k with
  | shl =>
    apply BitVec.eq_of_toNat_eq
    simp [shiftBy, shifted, Nat.shiftLeft_eq]
  | shr =>
    have hlt : v.toNat / 2 ^ n < 2 ^ 64 := (Nat.div_le_self _ _).trans_lt v.isLt
    apply BitVec.eq_of_toNat_eq
    rw [shiftBy, shifted, BitVec.toNat_ushiftRight, Nat.shiftRight_eq_div_pow, BitVec.toNat_ofNat, Nat.mod_eq_of_lt hlt]
  | sar => simp [shiftBy, shifted, BitVec.sshiftRight_eq, Int.shiftRight_eq_div_pow]

/-- The machine's minimum, which tests whether the second operand is strictly less. -/
theorem ite_lt_eq_min {κ : Type} [LinearOrder κ] (key : Word64 → κ) (v w : Word64) :
    (if key w < key v then w else v) = if key v ≤ key w then v else w := by
  rcases lt_or_ge (key w) (key v) with h | h
  · rw [if_pos h, if_neg h.not_ge]
  · rw [if_neg h.not_gt, if_pos h]

/-- The machine's maximum keeps the first of two operands with one key, which are then one word. -/
theorem ite_lt_eq_max {κ : Type} [LinearOrder κ] {key : Word64 → κ} (hkey : Function.Injective key) (v w : Word64) :
    (if key v < key w then w else v) = if key v ≤ key w then w else v := by
  rcases lt_trichotomy (key v) (key w) with h | h | h
  · rw [if_pos h, if_pos h.le]
  · rw [hkey h, ite_self, ite_self]
  · rw [if_neg h.not_gt, if_neg h.not_ge]

theorem toInt_injective : Function.Injective (BitVec.toInt : Word64 → Int) := fun _ _ => BitVec.eq_of_toInt_eq

theorem toNat_injective : Function.Injective (BitVec.toNat : Word64 → Nat) := fun _ _ => BitVec.eq_of_toNat_eq

theorem getLsbD_zero_iff (v : Word64) : v.getLsbD 0 = true ↔ v.toNat % 2 = 1 := by
  simp [BitVec.getLsbD]

theorem cmpHolds_iff (c : CmpCond) (v w : Word64) : cmpHolds c v w = true ↔ Holds c v w := by
  cases c with
  | eq => exact beq_iff_eq
  | ne => exact bne_iff_ne
  | lts => exact BitVec.slt_iff_toInt_lt
  | les => exact BitVec.sle_iff_toInt_le
  | ltu => exact BitVec.ult_iff_toNat_lt
  | leu => exact BitVec.ule_iff_toNat_le

/-- Every bit of a status predicate tells what it reports (R182). -/
theorem getLsbD_statusPred {k : Nat} (hk : k < 64) (b : Bool) : (statusPred b).getLsbD k = b := by
  cases b with
  | false => simp [statusPred]
  | true => exact (BitVec.getLsbD_allOnes).trans (decide_eq_true hk)

/-- Bit by bit, what CMP and CMPI write. -/
theorem getLsbD_statusPred_cmpHolds {k : Nat} (hk : k < 64) (c : CmpCond) (v w : Word64) :
    (statusPred (cmpHolds c v w)).getLsbD k = true ↔ Holds c v w := by
  rw [getLsbD_statusPred hk, cmpHolds_iff]

theorem zeroExtend_laneAt (v : VReg) (l : Fin 64) :
    (laneAt v l.val).zeroExtend 64 = BitVec.ofNat 64 (v.toNat / 2 ^ (32 * l.val) % 2 ^ 32) := by
  apply BitVec.eq_of_toNat_eq
  simp [laneAt, elemAt, Nat.shiftRight_eq_div_pow]

theorem waitCount_eq_elements (o : WaitObj) (st : ElemStatus) : waitCount o st = elements o st := by
  cases st <;> rfl

theorem slotStatus_eq_slotCode (w : Option Window) (off : Nat) : slotStatus w off = slotCode w off := by
  cases w <;> rfl

/-! ### Meanings: each instruction issues with the change of its tile that the claims name -/

section
variable {s : State} {t : Fin 192} {g : Guard} {i : Instr}

/-- Changes of a tile that agree on every tile are one meaning. -/
theorem next_issueTile_congr {F G : Tile → Tile} (h : ∀ x, F x = G x) :
    (Host.Outcome.next (issueTile s t g i F) : Host.Outcome State Fault Refusal) = .next (issueTile s t g i G) := by
  rw [funext h]

/-- A value written to S[D], given by the machine and by the claims. -/
theorem next_setS_eq_withS {d : Fin 32} {V W : Tile → Word64} (h : ∀ x, V x = W x) :
    (Host.Outcome.next (issueTile s t g i (fun x => setS x d (V x))) : Host.Outcome State Fault Refusal) =
      .next (issueTile s t g i (fun x => withS x d (W x))) :=
  next_issueTile_congr fun x => congrArg (withS x d) (h x)

/-- An instruction whose meaning is a change of its tile completes with that change and nothing else, where it executes. -/
theorem completes_of_exec {F : Tile → Tile} (hi : exec i s = .next (issueTile s t g i F)) (h : Executes s t g i) :
    ∃ u, exec i s = .next u ∧ Brings s u t g i (F (tileAt s t g i)) :=
  ⟨_, hi, issueTile_executes F h⟩

end

/-- R192's values, instruction by instruction. -/
theorem exec_scalarResult {i : Instr} {t : Fin 192} {g : Guard} {d : Fin 32} {f : Regs → Word64}
    (h : scalarResult i = some (t, g, d, f)) (s : State) :
    exec i s = .next (issueTile s t g i (fun x => withS x d (f x.src))) := by
  cases i with
  | seti | stop | add => cases h; rfl
  | seth => cases h; exact next_setS_eq_withS fun _ => append_truncate_eq_ofNat _ _
  | addi => cases h; exact next_setS_eq_withS fun _ => add_signExtend_eq_ofInt _ _
  | sub => cases h; exact next_setS_eq_withS fun _ => sub_eq_ofInt _ _
  | mul => cases h; exact next_setS_eq_withS fun _ => mul_eq_ofNat _ _
  | and => cases h; exact next_setS_eq_withS fun _ => by simp [BitVec.ofNat_and]
  | or => cases h; exact next_setS_eq_withS fun _ => by simp [BitVec.ofNat_or]
  | xor => cases h; exact next_setS_eq_withS fun _ => by simp [BitVec.ofNat_xor]
  | shl | shr | sar | shi => cases h; exact next_setS_eq_withS fun _ => shiftBy_eq_shifted _ _ _
  | mins => cases h; exact next_setS_eq_withS fun _ => by simp only [BitVec.slt_iff_toInt_lt, ite_lt_eq_min]
  | maxs => cases h; exact next_setS_eq_withS fun _ => by simp only [BitVec.slt_iff_toInt_lt, ite_lt_eq_max toInt_injective]
  | minu => cases h; exact next_setS_eq_withS fun _ => by simp only [BitVec.ult_iff_toNat_lt, ite_lt_eq_min]
  | maxu => cases h; exact next_setS_eq_withS fun _ => by simp only [BitVec.ult_iff_toNat_lt, ite_lt_eq_max toNat_injective]
  | sel => cases h; exact next_setS_eq_withS fun _ => by simp only [getLsbD_zero_iff]
  | _ => cases h

/-- The bits that R192 and R193 give P[PD]; the machine and the claims both lose a write to P0 (R182). -/
theorem exec_predicateBit {i : Instr} {t : Fin 192} {g : Guard} {pd : Fin 16} {f : Regs → Nat → Prop}
    (h : predicateBit i = some (t, g, pd, f)) (s : State) :
    ∃ V : Tile → Word64, exec i s = .next (issueTile s t g i (fun x => withP x pd (V x))) ∧
      ∀ (x : Tile) (k : Nat), k < 64 → ((V x).getLsbD k = true ↔ f x.src k) := by
  cases i with
  | cmp | cmpi => cases h; exact ⟨_, rfl, fun _ _ hk => getLsbD_statusPred_cmpHolds hk _ _ _⟩
  | plog t g pd a b op =>
    cases h
    refine ⟨_, rfl, fun x k hk => ?_⟩
    cases op with
    | and | or | xor => simp [predOp]
    | andNot => simp [predOp, hk]
  | pfroms => cases h; exact ⟨_, rfl, fun _ _ _ => Iff.rfl⟩
  | _ => cases h

/-- The rows of R190, R192, R196, R206, R213 and R217; a free slot of SLST's window is read as log 152 says. -/
theorem exec_tileChange {i : Instr} {t : Fin 192} {g : Guard} {f : Tile → Tile}
    (h : tileChange i = some (t, g, f)) (s : State) : exec i s = .next (issueTile s t g i f) := by
  cases i with
  | nop | br | pend | arm | vamc | mclr => cases h; rfl
  | wstat => cases h; exact next_setS_eq_withS fun _ => by rw [waitCount_eq_elements]
  | vext => cases h; exact next_setS_eq_withS fun _ => zeroExtend_laneAt _ _
  | slst t g d a pd fetch =>
    cases h
    refine next_issueTile_congr fun x => ?_
    rw [slotStatus_eq_slotCode]
    cases slotCode (if fetch then x.fwin else x.gwin) (x.src.s[a]).toNat <;> rfl
  | _ => cases h

/-- No tile instruction traps (R194): every arm of the tile answers a next state, whether it issues or not. -/
theorem exec_tileInstr {i : Instr} {t : Fin 192} {g : Guard} (h : tileInstr i = some (t, g)) (s : State) :
    ∃ u, exec i s = .next u := by
  unfold tileInstr at h
  split at h <;> cases h
  all_goals exact ⟨_, rfl⟩

/-- Settles O9: each instruction's meaning is the change of its tile that the claims name, and a change of a tile brings just that. -/
theorem scalarSlot : Obligations.ScalarSlot := by
  refine ⟨fun i t g d f s hi h => completes_of_exec (exec_scalarResult hi s) h, fun i t g pd f s hi h => ?_,
    fun i t g f s hi h => completes_of_exec (exec_tileChange hi s) h, fun i t g s hi => exec_tileInstr hi s⟩
  obtain ⟨V, hV, hbits⟩ := exec_predicateBit hi s
  obtain ⟨u, hu, hbrings⟩ := completes_of_exec hV h
  exact ⟨u, _, hu, hbits (tileAt s t g i), hbrings⟩

end Sys2Proof.ScalarSlot

namespace Sys2Proof.RankOrder

open Sys2Proof Sys2Proof.Machine Sys2Proof.Claims

/-! ### The score transform by its bits (R232) -/

theorem getLsbD_sign (b : F32) : b.getLsbD 31 = decide (2 ^ 31 ≤ b.toNat) := BitVec.getLsbD_last b

/-- What decodes to a NaN: the largest exponent and a fraction that is not 0 (R60). -/
theorem fdecode_eq_nan_iff (f : FFmt) (n : ℕ) :
    fdecode f n = .nan ↔ bitsOf n f.mb f.eb = 2 ^ f.eb - 1 ∧ bitsOf n 0 f.mb ≠ 0 := by
  simp only [fdecode]
  split_ifs with hexp hfrac
  · simp [hfrac]
  · simp [hexp, hfrac]
  · exact iff_of_false nofun fun h => hexp h.1
  · exact iff_of_false nofun fun h => hexp h.1

theorem fisNaN_iff (b : F32) : fisNaN b = true ↔ IsNaN b := by
  rw [fisNaN, decide_eq_true_iff, f32Val, fdecode_eq_nan_iff]
  simp only [fmt32, bitsOf, IsNaN]
  omega

/-- With the sign bit clear, XOR with that bit is an addition. -/
theorem toNat_xor_sign {b : F32} (h : b.getLsbD 31 = false) : (b ^^^ 0x80000000#32).toNat = 2 ^ 31 + b.toNat := by
  rw [getLsbD_sign, decide_eq_false_iff_not, not_le] at h
  have hlow : (b.toNat ^^^ 2 ^ 31) % 2 ^ 31 = b.toNat := by
    rw [Nat.xor_mod_two_pow, Nat.mod_self, Nat.xor_zero, Nat.mod_eq_of_lt h]
  have hhigh : (b.toNat ^^^ 2 ^ 31) / 2 ^ 31 = 1 := by
    rw [Nat.xor_div_two_pow, Nat.div_eq_of_lt h, Nat.div_self (by decide), Nat.zero_xor]
  change b.toNat ^^^ 2 ^ 31 = _
  omega

theorem scoreKey_of_isNaN {b : F32} (h : IsNaN b) : scoreKey b = 0 := by
  rw [scoreKey, if_pos ((fisNaN_iff b).mpr h)]

theorem scoreKey_negZero : scoreKey 0x80000000#32 = 0x80000000#32 := by decide

theorem toNat_scoreKey {b : F32} (hnan : ¬ IsNaN b) (hzero : b ≠ 0x80000000#32) :
    (scoreKey b).toNat = if b.getLsbD 31 then 2 ^ 32 - 1 - b.toNat else 2 ^ 31 + b.toNat := by
  have hkey : scoreKey b = if b.getLsbD 31 then ~~~b else b ^^^ 0x80000000#32 := by
    rw [scoreKey, if_neg (mt (fisNaN_iff b).mp hnan), if_neg hzero]
  rw [hkey]
  cases hsign : b.getLsbD 31 with
  | true => exact BitVec.toNat_not
  | false => exact toNat_xor_sign hsign

/-! ### The transform keeps the machine's order of the numbers -/

theorem not_isNaN_of_isFinite {b : F32} (h : IsFinite b) : ¬ IsNaN b := Nat.lt_asymm h

/-- The sign applied to the magnitude bits. -/
theorem forder_eq (b : F32) : forder b = (if b.getLsbD 31 then -1 else 1) * ((b.toNat % 2 ^ 31 : ℕ) : ℤ) := by
  have hmag : (b &&& 0x7FFFFFFF#32).toNat = b.toNat % 2 ^ 31 := Nat.and_two_pow_sub_one_eq_mod b.toNat 31
  rw [forder, hmag]
  cases hsign : b.getLsbD 31 with
  | true => rw [if_pos rfl, if_pos rfl, neg_one_mul]
  | false =>
    rw [getLsbD_sign, decide_eq_false_iff_not, not_le] at hsign
    rw [Nat.mod_eq_of_lt hsign, if_neg Bool.false_ne_true, if_neg Bool.false_ne_true, one_mul]

/-- The transform is the signed order moved up by 2^31, with the negative numbers one lower: both zeros take 2^31. -/
theorem toNat_scoreKey_eq_forder {b : F32} (hnan : ¬ IsNaN b) :
    ((scoreKey b).toNat : ℤ) = 2 ^ 31 + forder b - if forder b < 0 then 1 else 0 := by
  by_cases hzero : b = 0x80000000#32
  · subst hzero
    decide
  · have hne : b.toNat ≠ 2 ^ 31 := mt (fun h => BitVec.eq_of_toNat_eq h) hzero
    have hlt := b.isLt
    rw [toNat_scoreKey hnan hzero, forder_eq, getLsbD_sign]
    simp only [decide_eq_true_eq]
    split_ifs <;> omega

theorem scoreKey_lt_iff_forder_lt {a b : F32} (ha : ¬ IsNaN a) (hb : ¬ IsNaN b) :
    (scoreKey a).toNat < (scoreKey b).toNat ↔ forder a < forder b := by
  have hka := toNat_scoreKey_eq_forder ha
  have hkb := toNat_scoreKey_eq_forder hb
  split_ifs at hka hkb <;> omega

/-- The keys of the finite numbers lie strictly between those of −∞ and +∞. -/
theorem scoreKey_bounds_of_isFinite {b : F32} (h : IsFinite b) :
    0x007FFFFF < (scoreKey b).toNat ∧ (scoreKey b).toNat < 0xFF800000 := by
  have hkey := toNat_scoreKey_eq_forder (not_isNaN_of_isFinite h)
  have horder := forder_eq b
  unfold IsFinite at h
  split_ifs at hkey horder <;> omega

/-! ### The order of the numbers is the order of their values (R60) -/

/-- The value of magnitude bits `n` (R60) in units of 2^-149, the smallest subnormal. -/
def magUnits (n : ℕ) : ℕ :=
  if n / 2 ^ 23 = 0 then n % 2 ^ 23 else (2 ^ 23 + n % 2 ^ 23) * 2 ^ (n / 2 ^ 23 - 1)

/-- `magUnits` made odd: the value of a signed order number. -/
def signedUnits (i : ℤ) : ℤ := i.sign * magUnits i.natAbs

/-- Within a binade the fraction grows; the last number of a binade lies below the first of the next. -/
theorem magUnits_lt_succ (n : ℕ) : magUnits n < magUnits (n + 1) := by
  by_cases hlast : n % 2 ^ 23 = 2 ^ 23 - 1
  · have hdiv : (n + 1) / 2 ^ 23 = n / 2 ^ 23 + 1 := by omega
    have hmod : (n + 1) % 2 ^ 23 = 0 := by omega
    rw [magUnits, magUnits, hdiv, hmod, hlast]
    cases n / 2 ^ 23 with
    | zero => decide
    | succ k =>
      have hpos : 0 < 2 ^ k := Nat.two_pow_pos k
      simp only [Nat.succ_ne_zero, if_false, Nat.add_sub_cancel, pow_succ]
      omega
  · have hdiv : (n + 1) / 2 ^ 23 = n / 2 ^ 23 := by omega
    have hmod : (n + 1) % 2 ^ 23 = n % 2 ^ 23 + 1 := by omega
    rw [magUnits, magUnits, hdiv, hmod]
    split_ifs
    · exact Nat.lt_succ_self _
    · exact Nat.mul_lt_mul_of_pos_right (Nat.lt_succ_self _) (Nat.two_pow_pos _)

theorem magUnits_strictMono : StrictMono magUnits := strictMono_nat_of_lt_succ magUnits_lt_succ

theorem signedUnits_neg (i : ℤ) : signedUnits (-i) = -signedUnits i := by
  rw [signedUnits, signedUnits, Int.sign_neg, Int.natAbs_neg, neg_mul]

theorem signedUnits_natCast (n : ℕ) : signedUnits n = magUnits n := by
  cases n with
  | zero => rfl
  | succ k => rw [signedUnits, Int.sign_natCast_of_ne_zero k.succ_ne_zero, one_mul, Int.natAbs_natCast]

theorem signedUnits_strictMono : StrictMono signedUnits := by
  refine strictMono_of_odd_strictMonoOn_nonneg signedUnits_neg fun i hi j hj hij => ?_
  obtain ⟨m, rfl⟩ := Int.eq_ofNat_of_zero_le hi
  obtain ⟨n, rfl⟩ := Int.eq_ofNat_of_zero_le hj
  rw [signedUnits_natCast, signedUnits_natCast]
  exact_mod_cast magUnits_strictMono (Int.ofNat_lt.mp hij)

theorem fval_eq_magUnits (b : F32) :
    fval b = (if b.getLsbD 31 then -1 else 1) * ((magUnits (b.toNat % 2 ^ 31) : ℚ) * 2 ^ (-149 : ℤ)) := by
  have hexp : b.toNat % 2 ^ 31 / 2 ^ 23 = b.toNat / 2 ^ 23 % 256 := by omega
  have hfrac : b.toNat % 2 ^ 31 % 2 ^ 23 = b.toNat % 2 ^ 23 := by omega
  rw [fval, magUnits, hexp, hfrac]
  congr 1
  cases b.toNat / 2 ^ 23 % 256 with
  | zero => rfl
  | succ k =>
    have hscale : (2 : ℚ) ^ (((k + 1 : ℕ) : ℤ) - 150) = 2 ^ k * 2 ^ (-149 : ℤ) := by
      rw [← zpow_natCast, ← zpow_add₀ two_ne_zero]
      congr 1
      omega
    rw [if_neg k.succ_ne_zero, if_neg k.succ_ne_zero, hscale, Nat.add_sub_cancel]
    push_cast
    ring

theorem fval_eq_signedUnits (b : F32) : fval b = signedUnits (forder b) * 2 ^ (-149 : ℤ) := by
  rw [fval_eq_magUnits, forder_eq]
  generalize b.toNat % 2 ^ 31 = n
  cases b.getLsbD 31 with
  | true => simp [signedUnits_neg, signedUnits_natCast]
  | false => simp [signedUnits_natCast]

theorem fval_lt_iff_forder_lt (a b : F32) : fval a < fval b ↔ forder a < forder b := by
  have hunit : (0 : ℚ) < 2 ^ (-149 : ℤ) := zpow_pos two_pos _
  rw [fval_eq_signedUnits, fval_eq_signedUnits, mul_lt_mul_iff_left₀ hunit, Int.cast_lt,
    signedUnits_strictMono.lt_iff_lt]

theorem scoreKey_lt_iff_fval_lt {a b : F32} (ha : IsFinite a) (hb : IsFinite b) :
    (scoreKey a).toNat < (scoreKey b).toNat ↔ fval a < fval b := by
  rw [scoreKey_lt_iff_forder_lt (not_isNaN_of_isFinite ha) (not_isNaN_of_isFinite hb), fval_lt_iff_forder_lt]

/-! ### The six comparisons (R32, R234) -/

theorem versionNewer_iff (a b : BitVec 24) : (versionNewer a b).1 = true ↔ Newer a b := by
  have hzero : a - b = 0 ↔ (a - b).toNat = 0 := BitVec.toNat_inj.symm
  have hhalf : a - b = 0x800000 ↔ (a - b).toNat = 2 ^ 23 := BitVec.toNat_inj.symm
  simp only [versionNewer, Newer, hzero, hhalf]
  split_ifs with h0 h1
  · simp [h0]
  · simp [h1, BitVec.lt_def]
  · have hless : a - b < 0x800000 ↔ (a - b).toNat < 2 ^ 23 := BitVec.lt_def
    rw [decide_eq_true_iff, hless]
    omega

theorem not_newer_of_eq {a b : BitVec 24} (h : a = b) : ¬ Newer a b := by
  simp [Newer, h]

/-- A comparison decides where it differs and passes on where it does not: one rank of the order. -/
theorem ite_ne_iff_or {α : Type} [DecidableEq α] {x y : α} {p q : Bool} {P Q : Prop} (hp : p = true ↔ P) (hq : q = true ↔ Q)
    (hirrefl : x = y → ¬ P) : (if x ≠ y then p else q) = true ↔ P ∨ (x = y ∧ Q) := by
  by_cases h : x = y
  · simp [h, hq, hirrefl h]
  · simp [h, hp]

theorem ranksAhead_iff (a b : Cand) : ranksAhead a b = true ↔ Ahead a b := by
  have hscore : decide (a.score < b.score) = true ↔ a.score.toNat < b.score.toNat := decide_eq_true_iff
  have hshard := ite_ne_iff_or decide_eq_true_iff hscore fun h : a.shardLo = b.shardLo => h.not_lt
  have hflags := ite_ne_iff_or decide_eq_true_iff hshard fun h : a.flags = b.flags => h.not_lt
  have hversion := ite_ne_iff_or (versionNewer_iff a.version b.version) hflags not_newer_of_eq
  have hhandle := ite_ne_iff_or decide_eq_true_iff hversion fun h : a.handle = b.handle => (congrArg BitVec.toNat h).not_lt
  exact ite_ne_iff_or decide_eq_true_iff hhandle fun h => h.not_gt

/-! ### A list in rank order -/

section
variable {α : Type} (lt : α → α → Bool)

theorem insertStable_eq_orderedInsert (x : α) (l : List α) :
    sortBy.insertStable lt x l = l.orderedInsert (fun a b => lt b a = false) x := by
  induction l with
  | nil => rfl
  | cons y r ih => cases h : lt y x <;> simp [sortBy.insertStable, h, ih]

theorem sortBy_eq_insertionSort (l : List α) : sortBy lt l = l.insertionSort (fun a b => lt b a = false) := by
  induction l with
  | nil => rfl
  | cons x r ih => rw [sortBy, ih, insertStable_eq_orderedInsert, List.insertionSort_cons]

theorem sortBy_perm (l : List α) : (sortBy lt l).Perm l := by
  rw [sortBy_eq_insertionSort]
  exact List.perm_insertionSort _ l

variable {lt} {κ : Type} [Preorder κ] {key : α → κ}

theorem pairwise_insertStable (hlt : ∀ a b, lt a b = true → key b ≤ key a) (hge : ∀ a b, lt a b = false → key a ≤ key b)
    (x : α) {l : List α} (h : l.Pairwise (fun a b => key b ≤ key a)) :
    (sortBy.insertStable lt x l).Pairwise (fun a b => key b ≤ key a) := by
  induction l with
  | nil => exact List.pairwise_singleton _ x
  | cons y r ih =>
    obtain ⟨hy, hr⟩ := List.pairwise_cons.mp h
    rw [sortBy.insertStable]
    cases hyx : lt y x with
    | true =>
      refine List.pairwise_cons.mpr ⟨fun z hz => ?_, ih hr⟩
      rw [insertStable_eq_orderedInsert, List.mem_orderedInsert] at hz
      rcases hz with rfl | hz
      · exact hlt y z hyx
      · exact hy z hz
    | false =>
      have hxy : key y ≤ key x := hge y x hyx
      exact List.pairwise_cons.mpr ⟨List.forall_mem_cons.mpr ⟨hxy, fun z hz => (hy z hz).trans hxy⟩, h⟩

/-- Insertion sort leaves a falling key even under a comparison that is not transitive (R32's versions can form a cycle), as long
as the comparison never goes against the key. -/
theorem pairwise_sortBy (hlt : ∀ a b, lt a b = true → key b ≤ key a) (hge : ∀ a b, lt a b = false → key a ≤ key b)
    (l : List α) : (sortBy lt l).Pairwise (fun a b => key b ≤ key a) := by
  induction l with
  | nil => exact List.Pairwise.nil
  | cons x r ih => exact pairwise_insertStable hlt hge x ih

end

theorem selKey_le_of_ranksAhead (a b : Cand) (h : ranksAhead a b = true) : selKey b ≤ selKey a := by
  rcases (ranksAhead_iff a b).mp h with hlt | ⟨heq, -⟩
  · exact hlt.le
  · exact heq.ge

theorem selKey_le_of_not_ranksAhead (a b : Cand) (h : ranksAhead a b = false) : selKey a ≤ selKey b :=
  le_of_not_gt fun hlt => Bool.false_ne_true (h.symm.trans ((ranksAhead_iff a b).mpr (.inl hlt)))

/-- Settles O22: the transform is the machine's order of the numbers moved up, which is the order of their values; each of the six
comparisons decides where the ones before it agree; and the insertion sort by them never goes against the selection key. -/
theorem rankOrder : Obligations.RankOrder :=
  ⟨fun _ => ⟨scoreKey_of_isNaN, fun h => h ▸ scoreKey_negZero, toNat_scoreKey⟩,
    fun _ _ ha hb => ⟨scoreKey_lt_iff_fval_lt ha hb, scoreKey_bounds_of_isFinite ha⟩,
    fun _ => rfl,
    ranksAhead_iff,
    fun l => ⟨sortBy_perm ranksAhead l, pairwise_sortBy selKey_le_of_ranksAhead selKey_le_of_not_ranksAhead l⟩⟩

end Sys2Proof.RankOrder
